-- ==== Sys2Proof/Word.lean ====
section
/-!
DEFINITION. The words of the ZT-6432: bytes, 32-bit register words (R2) and the 48-bit experiment time (R17).
-/
namespace Sys2Proof

/-- A byte of a packet, record, image or memory. -/
abbrev Byte := BitVec 8

/-- A register word: 32 bits, bit 0 least significant (R2). -/
abbrev Word := BitVec 32

/-- A 16-bit field: node addresses, counts, tags, sequence numbers. -/
abbrev Half := BitVec 16

/-- Experiment time: a 48-bit count of CK cycles (R17). -/
abbrev Et := BitVec 48

end Sys2Proof
end

