-- ==== Sys2Proof/Syntax.lean ====
section
/-!
DEFINITION. The commands of the block: one constructor of Instr per row of spec/opcode_table.json, with the row's
operands. Three kinds of row: a single register access (its first operand is the accessing partition), a Darem command
(its first operand is the packet's header), and a moment of the machine (its operands name the unit and carry what the
outside supplies at that moment; a Bool operand named `real` says whether the physical condition is present).
-/
namespace Sys2Proof

/-- The path a Darem packet arrived on: a link port, or a host channel of the slow-control bus (R343, R347). -/
inductive Path where
  | link (p : Fin 4)
  | can (ch : Fin 4)
deriving DecidableEq, Repr

/-- A virtual channel of the reliable channel (R262). -/
inductive Vc where
  | req
  | rsp
deriving DecidableEq, Repr

/-- Claim classes, lowest first, as XBAR_ASB.DRV_CLASS codes them (Table 5-4, R99, R127, R138). The fixed precedence
is repair, blocking calibration, user, gap calibration; the codes are 0 user, 1 gap, 2 blocking, 3 repair. -/
inductive Cls where
  | user
  | gap
  | blocking
  | repair
deriving DecidableEq, Repr

/-- The monitors of a domain (Table 3-2, PWR_DOM_CTRL.TRIP_KIND). -/
inductive Monitor where
  | uv
  | ov
  | oc
deriving DecidableEq, Repr

/-- What a read of retention SRAM finds: no error, one that its ECC corrects, or an uncorrectable one (R373). -/
inductive EccRead where
  | clean
  | corrected
  | uncorrectable
deriving DecidableEq, Repr

/-- What the scrubber finds in a frame (Table 11-2). -/
inductive ScrubFound where
  | clean
  /-- Single-bit errors in these words; the CRC is good after correction. -/
  | single (words : List (Fin 28))
  /-- A double-bit error in a word, or a CRC mismatch after correction. -/
  | bad
deriving DecidableEq, Repr

/-- The header of a Darem command packet (Table 16-1), with its MAC, the path it came by and whether a flit of it was
poisoned. The opcode is the constructor's. -/
structure Header where
  path : Path
  dest : Half
  src : Half
  part : Fin 32
  pkind : BitVec 3
  flags : Byte
  status : Byte
  cmdId : Word
  epoch : Word
  plen : Half
  seg : Byte
  rsvd : Byte
  mac : List Byte
  poisoned : Bool
deriving DecidableEq, Repr

/-- What a calibration measurement brings in from the analogue world: the coefficient body it found (R151), or for a
SELFTEST the deviation of each measurement from its coefficient in units of CAL_LIMITS (R158). -/
structure CalResult where
  body : List Byte
  deviations : List Nat
deriving DecidableEq, Repr

/-- The analogue world at a conversion (log 169): voltages in µV, of bay `a` the filter outputs from 16 × a on and the
preamplifier outputs from 16 × a + 8 on; VREF_EXT in µV; and by how many codes the conversion deviates from the ideal one. -/
structure Analog where
  volts : List Int
  vref : Nat
  dev : Int
deriving DecidableEq, Repr

/-- The commands: one constructor per row of spec/opcode_table.json, in the table's order but for the rows without an
operand, which stand last. -/
inductive Instr where
  -- register access and CLK
  | registerWrite (p : Fin 32) (addr val : Word)
  | wideFieldSnapshotRead (p : Fin 32) (addr : Word)
  | wideFieldLowWrite (p : Fin 32) (addr val : Word)
  | wideFieldHighWrite (p : Fin 32) (addr val : Word)
  | latchedEventClear (p : Fin 32) (addr val again : Word)
  | referenceLossDetect (real : Bool)
  | clkSyncCtrlArm (p : Fin 32) (val : Word)
  | syncDetect (pin : Bool)
  | gapStateChange (level : Bool)
  | gapSourceApply (level : Bool)
  | clkGapClear (p : Fin 32) (val : Word)
  | timeGet (h : Header)
  | syncArm (h : Header) (src mode : Byte) (value : Et)
  | syncNow (h : Header) (value : Et)
  | gapSet (h : Header) (src : Byte) (period length : Half)
  -- presence, straps, power, heat
  | keeperResetRelease (corruptA corruptB : Bool)
  | presLHigh (verified : Bool)
  | powerInputLoss (verified : Bool)
  | strapReading (ga : BitVec 6) (ca : Byte)
  | strapPeriodicCheck (ga : BitVec 6) (ca : Byte)
  | domainIsolationRelease (i : Fin 32)
  | domainDrainStart (i : Fin 32)
  | domainIsolate (i : Fin 32)
  | domainSwitchOpen (i : Fin 32)
  | domainRailFallen (i : Fin 32)
  | monitorTrip (i : Fin 32) (kind : Monitor) (real : Bool)
  | dieTSample (t : Half)
  | pwrMeasureUpdate (vin iin : Half) (mon : List Word)
  | thermalWarningCrossing (t : Half)
  | nvwBarCrossing (t : Half)
  | hotStop (t : Half)
  | hotStopRelease (t : Half)
  | ledgerRerunDone (part : Fin 32) (cmdId : Word)
  | pwrStatusGet (h : Header)
  | pwrDomainSet (h : Header) (on off : Word)
  | pwrSuspectAck (h : Header) (mask : Word)
  | pwrReset (h : Header) (kind unit : Byte)
  | pwrRestart (h : Header)
  | pwrTripClear (h : Header) (mask : Word)
  | pwrThermClear (p : Fin 32) (val : Word)
  -- sash
  | sashPinChange (l s : Bool)
  | sashIdentityRead (ack : Bool) (ident : List Byte) (pages : List (List Byte)) (real : Bool)
  | sashAbsentProbe (ack : Bool)
  | sashIdRetry (ack : Bool) (ident : List Byte) (pages : List (List Byte))
  | biasRampStep (current : List Half)
  | lifePageVerify (ok : Bool)
  | peakTSample (t : Option Half)
  | sashInfoGet (h : Header)
  | sashExpectSet (h : Header) (type : Word)
  | sashBiasSet (h : Header) (g0 g1 g2 g3 : Half) (rate : Byte)
  | sashLifeGet (h : Header)
  -- analogue bays and octet crossbar
  | slotSettingsApply (a : Fin 9) (s : Fin 8)
  | slotMaskEnd (a : Fin 9) (s : Fin 8)
  | slotOverloadDetect (a : Fin 9) (s : Fin 8) (input : Int)
  | sumSaturation (a : Fin 9) (volts : List Int)
  | asbLineClaim (a : Fin 9) (so : Fin 2) (line : Fin 4) (cls : Cls)
  | sumOutputApply (a : Fin 9)
  | xbarOctWrite (p : Fin 32) (o : Fin 8) (val : Word)
  | abayClear (p : Fin 32) (a : Fin 9) (val : Word)
  -- converters, groups, timers
  | adcStartEvent (n : Fin 18)
  | adcFirstSample (n : Fin 18) (w : Analog)
  | adcResultQueued (n : Fin 18)
  | adcLoopRestart (n : Fin 18) (w : Analog)
  | adcGroupStartEvent (g : Fin 8)
  | urgentEvent (n : Fin 18) (w : Option Analog)
  | adcRefSelect (p : Fin 32) (n : Fin 18) (val : Word)
  | adcReferenceReady (n : Fin 18)
  | adcResPop (p : Fin 32) (n : Fin 18) (val : Word)
  | adcTakeover (n : Fin 18) (cls : Cls)
  | adcGiveback (n : Fin 18)
  | timerFire (t : Fin 16)
  | timerTakeover (t : Fin 16) (cls : Cls)
  | timerGiveback (t : Fin 16)
  | adcCntClear (p : Fin 32) (n : Fin 18) (val : Word)
  | adcStart (h : Header) (mask : Word)
  | adcUrgent (h : Header) (adc : Byte)
  | adcResultPeek (h : Header) (adc count : Byte)
  | adcResultPop (h : Header) (adc count : Byte) (tag : Half)
  | adcStatusGet (h : Header) (adc : Byte)
  | adcGroupSet (h : Header) (group : Byte) (mask : Word) (src edge : Byte) (delay : Half)
  | tmrSet (h : Header) (timer mode : Byte) (period : Word) (offset : Et) (en : Byte)
  -- threshold and waveform DACs
  | thresholdLoad (a : Fin 9)
  | thresholdHoldRelease (p : Fin 32) (a : Fin 9) (val : Word)
  | wdacOutputClaim (p : Fin 32) (n : Fin 8) (val : Word)
  | wdacTakeover (n : Fin 8) (cls : Cls)
  | wdacGiveback (n : Fin 8)
  | wdacCmdStart (p : Fin 32) (n : Fin 8)
  | wdacCmdStop (p : Fin 32) (n : Fin 8)
  | wdacCmdFlush (p : Fin 32) (n : Fin 8)
  | wdacStartEvent (n : Fin 8)
  | wdacTick (n : Fin 8)
  | wdacStaticApply (n : Fin 8)
  | wdacQueueAppend (p : Fin 32) (n : Fin 8) (val : Word)
  | wdacTableWrite (p : Fin 32) (n : Fin 8) (val : Word)
  | wdacCntClear (p : Fin 32) (n : Fin 8) (val : Word)
  | wdacQueueWrite (h : Header) (n count : Byte) (samples : List Half)
  | wdacTableLoad (h : Header) (n : Byte) (addr : Half) (count : Byte) (entries : List Half)
  | wdacControl (h : Header) (mask action : Byte)
  -- calibration
  | calNoticeExpiry (j : Fin 16)
  | calOutageEnd (j : Fin 16) (r : CalResult) (real : Bool)
  | calGapStepStart (j : Fin 16)
  | calGapStepEnd (j : Fin 16) (r : CalResult) (real : Bool)
  | calSysTimeout (j : Fin 16)
  | calCoefDataWrite (p : Fin 32) (val : Word)
  | calCoefApply (p : Fin 32) (val : Word)
  | calRun (h : Header) (type index kind mode apply : Byte)
  | calSysPoint (h : Header) (adc point : Byte) (expected : Half)
  | calAbort (h : Header) (type index : Byte)
  | calCoefGet (h : Header) (type index : Byte)
  | calCoefSet (h : Header) (blob : List Byte)
  | calCoefNeutral (h : Header) (type index : Byte)
  -- lintel and bay resets
  | linStageWrite (p : Fin 32) (x : BitVec 12) (val : Word)
  | linCommit (p : Fin 32)
  | linDiscard (p : Fin 32)
  | linRouteSet (h : Header) (commit count : Byte) (pairs : List (Half × Half))
  | linRouteGet (h : Header) (dst : Half) (count : Byte)
  | bayResetAssert (i : Fin 27)
  | bayResetRelease (i : Fin 27)
  -- memory blocks, I/O cells, probes
  | memoryPortRead (d : Fin 18) (m : Fin 4) (portB : Bool) (entry : BitVec 12) (flips : List (Fin 39))
  | memoryPortWrite (d : Fin 18) (m : Fin 4) (wa wb : Option (BitVec 12 × Word))
  | memScrubWord (d : Fin 18) (m : Fin 4) (flips : List (Fin 39))
  | fifoPush (d : Fin 18) (m : Fin 4) (val : Word) (popToo : Bool)
  | fifoPop (d : Fin 18) (m : Fin 4)
  | lookbackRequest (d : Fin 18) (m : Fin 4) (start : BitVec 24) (lenM1 : Byte)
  | lookbackDeferredEval (d : Fin 18) (m : Fin 4)
  | memSettingsApply (d : Fin 18) (m : Fin 4)
  | memWindowAccess (p : Fin 32) (d : Fin 18) (m : Fin 4) (k : BitVec 10) (write : Option Word)
  | dbayMemClear (p : Fin 32) (d : Fin 18) (val : Word)
  | ioCellApply (i : Fin 24)
  | peepholeApply (d : Fin 18) (k : Fin 2)
  | prbCapCtrlArm (p : Fin 32) (val : Word)
  | prbCaptureTrigger
  | prbCaptureComplete
  | prbSelect (h : Header) (probe bay peep net en : Byte)
  | prbCaptureArm (h : Header) (trig : Byte) (pre : Half) (pattern mask : Byte) (et : Et)
  | prbCaptureRead (h : Header) (start count : Half)
  | prbAuxSet (h : Header) (en : Byte)
  -- configuration and scrubbing
  | cfgFrameWrite (bad : Bool)
  | cfgStoreCommit (ok : Bool)
  | storeAreaErase (area : Fin 34) (ok : Bool)
  | scrubFrameVisit (found : ScrubFound)
  | faultActionApply (d : Fin 18)
  | cfgBufOpen (h : Header)
  | cfgBufWrite (h : Header) (offset : Word) (count : Half) (data : List Byte)
  | cfgBufClose (h : Header) (release : Byte)
  | cfgLoad (h : Header) (bay source : Byte)
  | cfgStoreSave (h : Header) (slot : Byte)
  | cfgStoreErase (h : Header) (slot : Byte)
  | cfgStoreInfo (h : Header) (slot : Byte)
  | cfgStatusGet (h : Header) (bay : Byte)
  -- repair
  | recallNoticeExpiry (r : Fin 3)
  | repairSparePrepared (r : Fin 3)
  | repairMemCopyStep (r : Fin 3)
  | repairWarmupEnd (r : Fin 3)
  | repairCompareWindowEnd (r : Fin 3)
  | repairCutoverBoundary (r : Fin 3)
  | repairUnwarmEnd (r : Fin 3)
  | repairRetireComplete (r : Fin 3)
  | repairStart (h : Header) (type orig mode source calMask memCopy flags : Byte) (warmup : Word) (cmpFrames : Half)
      (missTol ftTol : Byte) (mask : BitVec 64)
  | repairCutover (h : Header) (rep force : Byte)
  | repairAbort (h : Header) (rep : Byte)
  | repairLend (h : Header) (type bay part : Byte)
  | repairReturn (h : Header) (type bay : Byte)
  | repairStatusGet (h : Header) (rep : Byte)
  -- links
  | lnkCtrlEnWrite (p : Fin 32) (port : Fin 4) (val : Word)
  | lnkTxApply (port : Fin 4)
  | linkSynthSettled (port : Fin 4)
  | linkSeekDone (port : Fin 4)
  | linkDeskewDone (port : Fin 4)
  | trainingBlockReceived (port : Fin 4) (block : List Byte) (trip arrival : Word)
  | linkExchangeDone (port : Fin 4) (drift : Bool)
  | refusalCleared (port : Fin 4)
  | linkLevelDone (port : Fin 4)
  | lockLossDetect (port : Fin 4) (real : Bool)
  | lockRestore (port : Fin 4) (same : Bool) (lost : Half)
  | linkDownTimeout (port : Fin 4)
  | segmentDeparture (port : Fin 4)
  | segmentDelivery (port : Fin 4) (segment : List Byte) (code : BitVec 16)
  | lnkPartnerGet (h : Header)
  | lnkEnable (h : Header) (en dis : Byte)
  | lnkRetrain (h : Header) (mask : Byte)
  | lnkLatAck (h : Header) (mask : Byte)
  -- reliable channel
  | flitChoice (port : Fin 4) (ecc : EccRead)
  | flitArrival (port : Fin 4) (flit : List Byte)
  | flitDelivery (port : Fin 4) (vc : Vc)
  | replayTimerExpiry (port : Fin 4) (vc : Vc) (real : Bool)
  | forwardingMove (port : Fin 4) (vc : Vc)
  | lnkRcCntClear (p : Fin 32) (port : Fin 4) (val : Word)
  | lnkRouteSet (h : Header) (entry : Half) (count : Byte) (vals : List Byte)
  | lnkRcStatusGet (h : Header) (port : Byte)
  -- readout arbiter
  | arbRequestRaise (k : Fin 32) (req : Bool) (dl : Half) (blen : BitVec 4) (dest : Half)
  | readoutRestamp (k : Fin 18) (dl : Half)
  | arbRestamp (p : Fin 32) (val : Word)
  | arbTear (cause : Fin 4) (bubbles : Byte) (lead : Option Byte)
  | arbCommit (beats : List Byte) (bubbles lead : Byte)
  | arbCntClear (p : Fin 32) (val : Word)
  | orqClear (p : Fin 32) (val : Word)
  -- host commands and ledger
  | ping (h : Header) (data : List Byte)
  | regRead (h : Header) (addr : Word) (count : Byte)
  | regWrite (h : Header) (addr : Word) (count : Byte) (words : List Word)
  | regModify (h : Header) (addr mask value : Word)
  | ledgerSegmentErase (seg : BitVec 8) (ok : Bool)
  | resultGet (h : Header) (id : Word)
  | resultRelease (h : Header) (upto count : Byte) (ids : List Word)
  | ldgStatusGet (h : Header)
  | evtSubscribe (h : Header) (node : Half) (en : Byte)
  | evtLogRead (h : Header) (lseq : Word) (count : Byte)
  -- partitions and keys
  | keyLeaseExpiry (slot : Fin 32) (gen : Half)
  | partGrant (h : Header) (part count : Byte) (codes : List Half)
  | partRevoke (h : Header) (part : Byte) (limit : Half) (count : Byte) (codes : List Half)
  | partTableGet (h : Header) (first : Half) (count : Byte)
  | keyWrite (h : Header) (target mode : Byte) (wrapped : List Byte) (kcv : Word)
  | keyErase (h : Header) (target : Byte)
  | keyStatusGet (h : Header) (target : Byte)
  | partQuotaSet (h : Header) (part : Byte) (min max : Half) (auth : Byte)
  -- slow-control bus
  | canFrameReceive (frame : Option (BitVec 11 × List Byte)) (errors : Nat)
  | canReassemblyTimeout (id : BitVec 11)
  | canAloneAnnounce (acked : Bool)
  | canCntClear (p : Fin 32) (val : Word)
  | discover (h : Header)
  -- firmware
  | fwEraseComplete (ok : Bool)
  | fwInfoGet (h : Header)
  | fwWriteBegin (h : Header) (slot : Byte) (header : List Byte)
  | fwWrite (h : Header) (slot : Byte) (offset : Word) (count : Half) (data : List Byte)
  | fwVerify (h : Header) (slot : Byte)
  | fwSwitch (h : Header) (slot mode : Byte)
  | fwConfirm (h : Header)
  -- identity and injection
  | idGet (h : Header)
  | injectEnable (h : Header) (en : Byte) (duration : Half)
  | inject (h : Header) (det : Half) (unit : Byte) (arg : Word) (timeout : Half)
  | injectTimeout (j : Fin 16)
  | injectedConditionRelease (det : Half)
  -- rows that close the table
  | refFerrMeasure (ppm : Half)
  | adcSpacingExpiry (n : Fin 18) (w : Analog)
  | comparatorCrossing (a : Fin 9) (s : Fin 8) (hi : Bool) (input : List (BitVec 6 × Int))
  | thermPeakSample (t : Half)
  | canTransmitError (ackError : Bool)
  | keeperWatchdogExpiry (starts : Bool)
  -- the moments without an operand, of every chapter
  | referenceQualified
  | pllLockAchieved
  | syncBoundaryAction
  | syncNowLoad
  | gapgenWriteApply
  | presLLow
  | inrushCountExpiry
  | domainRampStart
  | domainPowerGood
  | domainRampTimeout
  | powerAudit
  | deferredWriteResume
  | keeperBootComplete
  | sashMateTimer
  | lifePeriodExpiry
  | lifeWriteResume
  | xbarApply
  | vrefExtOutOfRange
  | calCoefTakeEffect
  | linCommitApply
  | cfgBufLapse
  | cfgLoadStart
  | cfgLoadFinish
  | arbDecision
  | ownershipRecordCommit
  | revocationDrained
  | drainLimitExpiry
  | keyRecordCommit
  | canFrameSent
  | canFrameAbandon
  | canDupAnnounce
  | canBusOffRecovery
  | canCtrlApply
  | discoverDelayedResponse
  | fwVerifyComplete
  | fwSwitchRestart
  | fwConfirmTick
  | fwConfirmExpiry
  | fwTrialBootTimeout
  | injectWindowExpiry
  | inputPowerApplied
  | holdUpEnd
  | referenceReturn
  | vrefExtInRange
deriving DecidableEq, Repr

end Sys2Proof
end

