-- ==== Sys2Proof/Machine/Bits.lean ====
section
/-!
DEFINITION. Bit fields, little-endian byte strings, saturating counters, serial-number comparison and sparse stores.
-/
namespace Sys2Proof.Machine

/-- A Bool as a register bit. -/
def bit (b : Bool) : Word := if b then 1 else 0

/-- The value of a field placed at bit `lo` of a word. -/
def field {n : Nat} (v : BitVec n) (lo : Nat) : Word := v.setWidth 32 <<< lo

/-- A flag placed at bit `lo` of a word. -/
def flag (b : Bool) (lo : Nat) : Word := bit b <<< lo

/-- `len` bits of `w` from bit `lo` on (R2). -/
def bits {n : Nat} (w : BitVec n) (lo len : Nat) : BitVec len := w.extractLsb' lo len

/-- A mask of `len` ones from bit `lo` on. -/
def ones (lo len : Nat) : Word := BitVec.ofNat 32 ((2 ^ len - 1) * 2 ^ lo)

/-- The `n` bytes of a number, least significant first (R2). -/
def bytesOf : Nat → Nat → List Byte
  | 0, _ => []
  | n + 1, v => BitVec.ofNat 8 v :: bytesOf n (v / 256)

/-- A bit vector as `n` little-endian bytes. -/
def le {w : Nat} (n : Nat) (v : BitVec w) : List Byte := bytesOf n v.toNat

/-- The number that little-endian bytes spell. -/
def unle : List Byte → Nat
  | [] => 0
  | b :: bs => b.toNat + 256 * unle bs

/-- `n` bytes of a list from `at0` on, 0 beyond its end. -/
def slice (bs : List Byte) (at0 n : Nat) : List Byte :=
  let r := (bs.drop at0).take n
  r ++ List.replicate (n - r.length) 0

/-- `w` bits read from little-endian bytes at an offset. -/
def rd (w : Nat) (bs : List Byte) (at0 n : Nat) : BitVec w := BitVec.ofNat w (unle ((bs.drop at0).take n))

/-- Pad with zero bytes to length `n`. -/
def padTo (n : Nat) (bs : List Byte) : List Byte := bs ++ List.replicate (n - bs.length) 0

/-- Increment of a saturating counter (R402). -/
def satInc {n : Nat} (v : BitVec n) : BitVec n := if v = BitVec.allOnes n then v else v + 1

/-- Addition to a saturating counter. -/
def satAdd {n : Nat} (v : BitVec n) (k : Nat) : BitVec n :=
  if v.toNat + k < 2 ^ n then BitVec.ofNat n (v.toNat + k) else BitVec.allOnes n

/-- `a` lies below `b` in serial-number arithmetic; a pair half the range apart is not below (R405). -/
def serialLt {n : Nat} (a b : BitVec n) : Bool := 0 < (b - a).toNat && (b - a).toNat < 2 ^ (n - 1)

/-- `a`, carried by a command, is at or below the held `b`; half the range apart counts as below (R405). -/
def carriedLe {n : Nat} (a b : BitVec n) : Bool := (b - a).toNat ≤ 2 ^ (n - 1)

/-- `a`, carried by a command, is below the held `b`. -/
def carriedLt {n : Nat} (a b : BitVec n) : Bool := a ≠ b && carriedLe a b

/-- A stored time is at or before the present (R405). -/
def passed (stored now : Et) : Bool := carriedLe stored now

/-- Test of a bit of a word by a natural index. -/
def testBit {n : Nat} (w : BitVec n) (i : Nat) : Bool := w.getLsbD i

/-- A word with bit `i` set. -/
def setBit {n : Nat} (w : BitVec n) (i : Nat) : BitVec n := w ||| BitVec.ofNat n (2 ^ i)

/-- A word with bit `i` cleared. -/
def clearBit {n : Nat} (w : BitVec n) (i : Nat) : BitVec n := w &&& ~~~(BitVec.ofNat n (2 ^ i))

/-- Indices below `n` whose bit is set. -/
def bitList {w : Nat} (n : Nat) (v : BitVec w) : List Nat := (List.range n).filter fun i => v.getLsbD i

/-- A word with the listed bits set. -/
def wordOfBits (is : List Nat) : Word := is.foldl setBit 0

/-- An index clipped into a finite range. -/
def fin {n : Nat} (i : Nat) : Option (Fin n) := if h : i < n then some ⟨i, h⟩ else none

/-- Division rounded half away from zero (R107, R144). -/
def roundDiv (a : Int) (d : Nat) : Int :=
  if a ≥ 0 then (2 * a + d) / (2 * d) else -((2 * (-a) + d) / (2 * d))

/-- Clip into a range. -/
def clip (lo hi v : Int) : Int := if v < lo then lo else if v > hi then hi else v

/-! Sparse stores: strictly rising keys, no entry equal to what an unlisted key reads as. -/

/-- What key `k` reads as. -/
def look {α : Type} (d : α) : List (Nat × α) → Nat → α
  | [], _ => d
  | (k, v) :: r, i => if k = i then v else look d r i

/-- Insert into a strictly rising list. -/
def insertAt {α : Type} (i : Nat) (x : α) : List (Nat × α) → List (Nat × α)
  | [] => [(i, x)]
  | (k, v) :: r => if i < k then (i, x) :: (k, v) :: r else if i = k then (i, x) :: r else (k, v) :: insertAt i x r

/-- Remove a key. -/
def eraseAt {α : Type} (i : Nat) (m : List (Nat × α)) : List (Nat × α) := m.filter fun c => c.1 ≠ i

/-- Write a key, keeping the canonical form. -/
def store {α : Type} [DecidableEq α] (d : α) (m : List (Nat × α)) (i : Nat) (x : α) : List (Nat × α) :=
  if x = d then eraseAt i m else insertAt i x m

/-- Consecutive writes. -/
def storeAll {α : Type} [DecidableEq α] (d : α) (m : List (Nat × α)) (i : Nat) : List α → List (Nat × α)
  | [] => m
  | x :: xs => storeAll d (store d m i x) (i + 1) xs

/-- The canonical form: keys strictly rising. -/
def rising {α : Type} : List (Nat × α) → Bool
  | [] => true
  | [_] => true
  | (a, _) :: (b, y) :: r => a < b && rising ((b, y) :: r)

/-- The canonical form of a store with default `d`. -/
def canonical {α : Type} [DecidableEq α] (d : α) (m : List (Nat × α)) : Bool := rising m && m.all fun c => c.2 ≠ d

/-! Vectors. -/

/-- Change one element. -/
def upd {α : Type} {n : Nat} (v : Vector α n) (i : Fin n) (f : α → α) : Vector α n := v.set i (f v[i])

end Sys2Proof.Machine
end

