-- ==== Sys2Proof/Machine/Crypto.lean ====
section
/-!
DEFINITION. Check sums and message authentication: CRC-16/CCITT (R243), CRC-32 (R260), SHA-256 and HMAC-SHA-256
(R297, R336, R360; the algorithm is PRESUMED from FIPS 180-4 and FIPS 198-1, log 18).
-/
namespace Sys2Proof.Machine

/-- One bit of CRC-16/CCITT, most significant bit first, polynomial 0x1021. -/
def crc16Bit (c : Half) : Half := if c.getLsbD 15 then (c <<< 1) ^^^ 0x1021 else c <<< 1

/-- CRC-16/CCITT of a byte string: initial value 0xFFFF, no final XOR (R243). -/
def crc16 (bs : List Byte) : Half :=
  bs.foldl (fun (c : Half) (b : Byte) =>
    let c := c ^^^ (b.setWidth 16 <<< 8)
    crc16Bit (crc16Bit (crc16Bit (crc16Bit (crc16Bit (crc16Bit (crc16Bit (crc16Bit c)))))))) 0xFFFF

/-- One bit of the reflected CRC-32, polynomial 0x04C1_1DB7. -/
def crc32Bit (c : Word) : Word := if c.getLsbD 0 then (c >>> 1) ^^^ 0xEDB88320 else c >>> 1

/-- CRC-32 with initial value and final XOR 0xFFFF_FFFF (R260). -/
def crc32 (bs : List Byte) : Word :=
  bs.foldl (fun (c : Word) (b : Byte) =>
    let c := c ^^^ b.setWidth 32
    crc32Bit (crc32Bit (crc32Bit (crc32Bit (crc32Bit (crc32Bit (crc32Bit (crc32Bit c)))))))) 0xFFFFFFFF ^^^ 0xFFFFFFFF

/-- The largest number below `2 ^ k` above `r` whose `n`-th power does not exceed `x`, one binary digit at a time. -/
def rootDigits (n x : Nat) : Nat → Nat → Nat
  | 0, r => r
  | k + 1, r => rootDigits n x k (if (r + 2 ^ k) ^ n ≤ x then r + 2 ^ k else r)

/-- The first 32 bits after the binary point of the `n`-th root of `p`: what FIPS 180-4 makes its constants of. -/
def rootWord (n p : Nat) : Word := BitVec.ofNat 32 (rootDigits n (p * 2 ^ (32 * n)) 36 0)

/-- The first sixty-four primes, 2 to 311 (17 is the last prime whose square is among them). -/
def shaPrimes : List Nat :=
  (List.range 312).filter fun p => decide (2 ≤ p) && (List.range 18).all fun d => decide (d < 2 ∨ p ≤ d ∨ p % d ≠ 0)

/-- Three right-rotations of a word, or two and a shift: the mixing functions of SHA-256 differ in these only. -/
def spread (i j : Nat) (third x : Word) : Word := x.rotateRight i ^^^ x.rotateRight j ^^^ third

/-- The chain value of SHA-256 as two histories of four words, newest first: the words a b c d of the standard are the
last four values `top` took, and e f g h the last four `low` took. -/
structure Chain where
  top : List Word
  low : List Word
deriving DecidableEq, Repr

/-- The words of the chain value in the order of the digest. -/
def Chain.words (x : Chain) : List Word := x.top ++ x.low

/-- The chain value before the first block: the square roots of the first eight primes. -/
def Chain.first : Chain :=
  let h := (shaPrimes.take 8).map (rootWord 2)
  { top := h.take 4, low := h.drop 4 }

/-- Take one round: the round's mix of `low` and the schedule enters both histories, and each loses its oldest word. -/
def Chain.push (x : Chain) (entering : Word) : Chain :=
  match x.top, x.low with
  | [t0, t1, t2, t3], [l0, l1, l2, l3] =>
    let chosen := (l0 &&& (l1 ^^^ l2)) ^^^ l2
    let most := (t0 &&& (t1 ||| t2)) ||| (t1 &&& t2)
    let mix := entering + l3 + chosen + spread 6 11 (l0.rotateRight 25) l0
    { top := [mix + most + spread 2 13 (t0.rotateRight 22) t0, t0, t1, t2], low := [t3 + mix, l0, l1, l2] }
  | _, _ => x

/-- Run a block: `sched` is the schedule's next sixteen words, oldest first, and `primes` gives the constants of the
rounds left. A round takes the schedule's oldest word and puts the word sixteen later at its end. -/
def Chain.rounds : List Nat → List Word → Chain → Chain
  | [], _, x => x
  | p :: ps, sched, x =>
    let at' := fun k => sched.getD k 0
    let later := at' 0 + spread 7 18 (at' 1 >>> 3) (at' 1) + at' 9 + spread 17 19 (at' 14 >>> 10) (at' 14)
    Chain.rounds ps (sched.drop 1 ++ [later]) (x.push (at' 0 + rootWord 3 p))

/-- Compress one block of 64 bytes, whose words are big-endian. -/
def Chain.block (x : Chain) (block : List Byte) : Chain :=
  let sched := (List.range 16).map fun k => BitVec.ofNat 32 (unle ((block.drop (4 * k)).take 4).reverse)
  let y := Chain.rounds shaPrimes sched x
  { top := List.zipWith (· + ·) x.top y.top, low := List.zipWith (· + ·) x.low y.low }

/-- SHA-256: 32 bytes. The message is filled with 0x80 and zeros to a whole number of blocks that end in its length in
bits. -/
def sha256 (bs : List Byte) : List Byte :=
  let fill := 0x80 :: List.replicate ((119 - bs.length % 64) % 64) 0 ++ (bytesOf 8 (8 * bs.length)).reverse
  let m := bs ++ fill
  let last := (List.range (m.length / 64)).foldl (fun x k => x.block ((m.drop (64 * k)).take 64)) Chain.first
  last.words.flatMap fun w => (le 4 w).reverse

/-- HMAC-SHA-256: 32 bytes. -/
def hmac (key msg : List Byte) : List Byte :=
  let k := padTo 64 (if key.length > 64 then sha256 key else key)
  sha256 (k.map (· ^^^ 0x5c) ++ sha256 (k.map (· ^^^ 0x36) ++ msg))

/-- The MAC of a packet: the first 16 bytes of the HMAC over header and body (R297). -/
def packetMac (key msg : List Byte) : List Byte := (hmac key msg).take 16

/-- An ASCII string as bytes. -/
def ascii (s : String) : List Byte := s.toList.map fun c => BitVec.ofNat 8 c.toNat

/-! ### ECDSA over P-256 (R355; the curve is that of its standard, log 15) -/

namespace P256

/-- The field's prime, the order of the base point, and the base point. -/
def prime : Nat := 2 ^ 256 - 2 ^ 224 + 2 ^ 192 + 2 ^ 96 - 1
def order : Nat := 0xFFFFFFFF00000000FFFFFFFFFFFFFFFFBCE6FAADA7179E84F3B9CAC2FC632551
def base : Nat × Nat :=
  (0x6B17D1F2E12C4247F8BCE6E563A440F277037D812DEB33A0F4A13945D898C296, 0x4FE342E2FE1A7F9B8EE7EB4A7C0F9E162BCE33576B315ECECBB6406837BF51F5)

/-- `b ^ e` modulo `m`, over the low `n` bits of `e`. -/
def power (m b e : Nat) : Nat → Nat
  | 0 => 1
  | n + 1 =>
    let h := power m b (e / 2) n
    h * h * (if e % 2 = 1 then b else 1) % m

/-- The inverse modulo a prime. -/
def inverse (m a : Nat) : Nat := power m (a % m) (m - 2) 256

/-- A point of the curve; none is the point at infinity. -/
abbrev Point := Option (Nat × Nat)

/-- The third point of the line of slope `k`, mirrored. -/
def onLine (k : Nat) (a b : Nat × Nat) : Nat × Nat :=
  let x := (k * k + 2 * prime - a.1 - b.1) % prime
  (x, (k * (a.1 + prime - x) + prime - a.2) % prime)

def double (a : Nat × Nat) : Point :=
  if a.2 = 0 then none else some (onLine ((3 * a.1 * a.1 + prime - 3) * inverse prime (2 * a.2) % prime) a a)

def add : Point → Point → Point
  | none, q => q
  | p, none => p
  | some a, some b =>
    if a = b then double a
    else if a.1 = b.1 then none
    else some (onLine ((b.2 + prime - a.2) * inverse prime (b.1 + prime - a.1) % prime) a b)

/-- `e` times a point, over the low `n` bits of `e`. -/
def times (p : Point) (e : Nat) : Nat → Point
  | 0 => none
  | n + 1 =>
    let h := times p (e / 2) n
    let d := add h h
    if e % 2 = 1 then add d p else d

/-- A signature (r, s) of the digest `e` verifies under a key. -/
def verifies (key : Nat × Nat) (e r s : Nat) : Bool :=
  if r = 0 || order ≤ r || s = 0 || order ≤ s then false
  else
    let w := inverse order s
    match add (times (some base) (e * w % order) 256) (times (some key) (r * w % order) 256) with
    | some p => p.1 % order = r
    | none => false

end P256

/-- The number that bytes spell, the most significant first. -/
def bigEndian (bs : List Byte) : Nat := bs.foldl (fun n b => 256 * n + b.toNat) 0

end Sys2Proof.Machine
end

