-- ==== Sys2Proof/Config.lean ====
section
/-!
DEFINITION. What one module has fixed at manufacture (R356, R369) and the FREE VALUES: results that the spec leaves
open. Each is an opaque constant without a body, so nothing can be proved about which value it takes.
-/
namespace Sys2Proof.Config

/-- HW_REV, the hardware revision, fixed at manufacture (R369, log 11). -/
opaque hwRev : Byte

/-- DIE_ID, 49 bits, fixed at manufacture (R369, R370, log 11). -/
opaque dieId : BitVec 49

/-- Module SERIAL, fixed at manufacture (R369, log 11). -/
opaque serial : Word

/-- WEEK of manufacture, BCD YYWW (R369, log 11). -/
opaque week : Half

/-- The firmware that slot A holds when the module leaves the factory, of which the spec gives neither VERSION, SVN nor
length (log 10). -/
opaque factoryVersion : Word
opaque factorySvn : Word
opaque factoryLength : BitVec 23

/-- FREE VALUE (log 7): what the n-th draw of undefined register bits reads as (R3 WO fields, R4 reserved bits). -/
opaque freeWord : Nat → Word

/-- FREE VALUE (log 12): the size in bytes the ledger gives the n-th record; its format is internal (R307). -/
opaque recordSize : Nat → Nat

/-- FREE VALUE (log 129): how far a threshold has moved from the old to the new value in each CK of its settling (R133). -/
opaque settling : Nat → Nat

/-- FREE VALUE (log 13): a value that the module measures and that no operand brings in (CAL_SYS_POINT's mean, R153). -/
opaque measured : Nat → Word

/-- FREE VALUE (log 14): the random draw of R349. -/
opaque randomDelay : Nat → Nat

/-- FREE VALUES (log 15): the two verification keys, points of P-256, fixed at manufacture and not given (R355, R356). -/
opaque fwKeyX : Byte → Nat
opaque fwKeyY : Byte → Nat

/-- FREE VALUE (log 16): the user bits, payload beats and other data that an image's logic supplies and no operand
brings in (R177: logic inside an image is opaque). -/
opaque imageWord : Nat → Word

/-- FREE VALUE (log 16): what the output ports of digital bay `d` capture at the end of CK cycle `n`. -/
opaque imagePorts (d n : Nat) : BitVec 64

/-- FREE VALUE (log 16): the level of internal net `net` of peephole `k` of digital bay `d` in CK cycle `n` (R197). -/
opaque imageNet (d k net n : Nat) : Bool

/-- FREE VALUE (log 135): the level at the pin of I/O cell `i` in half `h` of CK cycle `n`, sampled `tap` taps late (R192,
R193). The pin belongs to the outside world. -/
opaque pinLevel (i h tap n : Nat) : Bool

/-- FREE VALUE (log 149): whether the n-th flash program that no row reports fails verification twice (R367). -/
opaque flashFails : Nat → Bool

/-- FREE VALUE (log 25): erases that an area of the image store endures (R211 gives no number). -/
opaque storeEndurance : Nat

end Sys2Proof.Config
end

