-- ==== Sys2Proof/Machine/PartsKeeper.lean ====
section
/-!
DEFINITION. The state of the always-on region: clock, node address, power and heat, ledger, event log, partitions,
keys, slow-control bus, firmware slots and injection (01, 02, 03, 16, 17, 18, 19, 20). Plain data only.
-/
namespace Sys2Proof.Machine

/-- The pair (PART, CMD_ID) that names a command wherever it arrives (16). -/
structure CmdRef where
  part : Fin 32
  id : Word
deriving DecidableEq, Repr

/-- One clock (R11 to R32). GEN_INVALID is computed from the applied generator settings. -/
structure Clk where
  lock : Bool
  freewheel : Bool
  refPresent : Bool
  etSuspect : Bool
  gap : Bool
  syncArmed : Bool
  holdSuspect : Bool
  events : Word
  et : Et
  syncValue : Et
  syncSrc : BitVec 3
  syncMode : BitVec 2
  /-- CLK_GAP_CTRL.SRC as written; `gapActive` is the source in effect (R27). -/
  gapSrc : BitVec 3
  gapActive : BitVec 3
  /-- CLK_GAPGEN as written; `genPend` until the boundary that applies it (R26). -/
  period : Half
  length : Half
  genPend : Bool
  genPeriod : Half
  genLength : Half
  genCount : Half
  lastLen : Half
  minLen : Half
  /-- The model's clock at the start of the running gap. -/
  gapStart : Nat
  loads : Half
  missed : Half
  freewheelCnt : Half
  ferr : Half
  /-- The reference has been present for one superframe (R12). -/
  qualified : Bool
  /-- A SYNC of the armed source waits for its boundary (R19). -/
  syncDue : Bool
  /-- Model's clock when it occurred. -/
  syncCk : Nat
  /-- SYNC± as sampled in this frame and in the frame before (R18, R19). -/
  syncPin : Bool
  syncPinWas : Bool
  /-- The SYNC of this frame has been taken. -/
  syncSeen : Bool
  /-- SYNC_NOW requests that wait for the boundary (R31); none is a request whose command keeps no ledger entry. -/
  syncNow : List CmdRef
deriving DecidableEq, Repr

/-- KPR_NODE_ADDR and the strap sampler (R41 to R45). -/
structure Node where
  addr : Half
  valid : Bool
  mismatch : Bool
  /-- The sampler takes a set of eight readings. -/
  sampling : Bool
  sets : Nat
  count : Nat
  first : Half
  agree : Bool
  /-- Consecutive periodic readings other than the latched address (R45). -/
  differ : Nat
deriving DecidableEq, Repr

/-- Domain states, coded as PWR_DOM_CTRL_i.STATE (R52). -/
inductive DomState where
  | off
  | ramping
  | on
  | draining
  | tripped
deriving DecidableEq, Repr

/-- One switched power domain (R52 to R55). -/
structure Dom where
  state : DomState
  tripKind : BitVec 3
  tripCount : Byte
  v : Half
  i : Half
  /-- A request to turn the domain on waits for the sequencer. -/
  wantOn : Bool
  /-- Power-good has come; isolation is released at the next frame boundary. -/
  good : Bool
  /-- A request to turn the domain off waits for the next frame boundary. -/
  wantOff : Bool
  isolated : Bool
  switchOpen : Bool
deriving DecidableEq, Repr

/-- Where the inrush controller and the keeper stand (R46, R64, R66). -/
inductive Phase where
  /-- No 12 V behind the switch. -/
  | off
  /-- Switch closed, keeper reset not yet released. -/
  | closed
  /-- Keeper reset released, keeper boots. -/
  | booting
  | running
  /-- The keeper is silent: the watchdog counts (R67, R408). -/
  | silent
  /-- Stopped at HOT STOP. -/
  | hotStop
  /-- Hold-up writes after a power loss. -/
  | holdUp
deriving DecidableEq, Repr

/-- Why the keeper boots (PWR_RESET_CAUSE codes; a firmware switchover or rollback is no reset of R68). -/
inductive Boot where
  | power
  | watchdog
  | warm
  | firmware
deriving DecidableEq, Repr

/-- What a response needs of the packet it answers. -/
structure Exchange where
  path : Path
  src : Half
  part : Fin 32
  op : Byte
  id : Word
  epoch : Word
  auth : Bool
  gen : Half
  noresp : Bool
deriving DecidableEq, Repr

/-- A PWR_DOMAIN_SET that is being served (R406). One run as IDEMP is answered directly, without a ledger entry. -/
structure DomReq where
  cmd : CmdRef
  direct : Option Exchange
  on : Word
  off : Word
deriving DecidableEq, Repr

/-- A write of module flash or of the ledger that one program or erase makes (R62): the record of the ownership table, a
record of the key store, of the store's directory, the erase of a store area or of a ledger segment. -/
inductive NvWrite where
  | table
  | key
  | directory
  | area (a : Fin 34)
  | segment (i : Fin 256)
deriving DecidableEq, Repr

/-- Power, heat and resets (R46 to R72). -/
structure Pwr where
  doms : Vector Dom 32
  req : Word
  suspect : Word
  dieT : Half
  warn : Bool
  nvwDefer : Bool
  peak : Half
  cause : BitVec 4
  count : Half
  vin : Half
  iin : Half
  events : Word
  served : List DomReq
  phase : Phase
  boot : Boot
  /-- The boot whose recovery and report RECOVERY has put off (R366). -/
  owed : Option Boot
  /-- The keeper was released after a HOT STOP and awaits PWR_RESTART (R64). -/
  held : Bool
  /-- 12 V input at or above 10.8 V; PRES_L low; the 20 ms count runs. -/
  inputGood : Bool
  presLow : Bool
  counting : Bool
  /-- The next boot follows a power loss or a HOT STOP. -/
  lossSeen : Bool
  hotSeen : Bool
  /-- PWR_RESET WARM commands whose reboot runs. -/
  warmCmd : List CmdRef
  /-- Writes that were under way when NVW_DEFER was set: they run to their end (R62). -/
  underway : List NvWrite
deriving DecidableEq, Repr

/-- A final outcome: STATUS byte and body. -/
structure Reply where
  status : Byte
  body : List Byte
deriving DecidableEq, Repr

/-- A journalled command, and later its retained result (R302 to R306). -/
structure Entry where
  part : Fin 32
  id : Word
  op : Byte
  params : List Byte
  flags : Byte
  src : Half
  path : Path
  /-- Epoch stamped at step 8. -/
  epoch : Word
  /-- Key generation leased at the MAC check, 0 for a command without AUTH. -/
  keyGen : Half
  /-- Resource codes the command names (R330). -/
  codes : List Nat
  durable : Bool
  long : Bool
  started : Bool
  result : Option Reply
  released : Bool
  /-- Order of use, for the eviction of R306. -/
  used : Nat
  /-- Ledger segment of the live record, and its size. -/
  seg : Nat
  size : Nat
deriving DecidableEq, Repr

/-- Segments of the ledger (R307, R308). -/
inductive SegState where
  | free
  | live
  | erasing
  | retired
  /-- Superblock and event log segments. -/
  | fixed
deriving DecidableEq, Repr

structure Segment where
  state : SegState
  used : Nat
  writes : Nat
  liveRecords : Nat
deriving DecidableEq, Repr

/-- The snapshot of R313. -/
structure Snapshot where
  next : Vector Half 32
  low : Vector Half 32
  fwd : Vector Nat 4
deriving DecidableEq, Repr

/-- A record of the journal: what a command has, or a source's sequence ceiling (R307). -/
inductive LdgRec where
  | command (c : CmdRef)
  | ceiling (k : Fin 32)
deriving DecidableEq, Repr

/-- The ledger (R301 to R314). -/
structure Ledger where
  state : BitVec 2
  entries : List Entry
  floors : Vector Word 32
  useCount : Nat
  segs : Vector Segment 256
  openSeg : Nat
  /-- The record of the open segment that was written last. -/
  last : Option LdgRec
  ceil : Vector Half 32
  /-- Segment and size of the record of each ceiling; none while it stands as manufactured. -/
  ceilRec : Vector (Option (Nat × Nat)) 32
  /-- The segments of the two copies of the superblock, 0 and 1, and of the event log, 2 to 5 (R307). -/
  fixed : Vector (Fin 256) 6
  /-- The copy of the superblock written last, and that its write is yet to be verified (log 166). -/
  superCopy : Fin 2
  superDue : Bool
  snapshot : Option Snapshot
  /-- Results whose commit waits for NVW_DEFER to clear (R63). -/
  deferred : List (CmdRef × Reply)
  reruns : List CmdRef
  accepted : Half
  rejected : Half
  repeats : Half
  poisoned : Byte
  discarded : Byte
  committed : Byte
  rerun : Byte
  interrupted : Byte
  timeMs : Byte
  events : Word
deriving DecidableEq, Repr

/-- An event record (Table 16-5) with its LSEQ. -/
structure Rec where
  lseq : Word
  et : Et
  det : BitVec 10
  part : Fin 32
  unit : Byte
  code : Byte
  flags : Byte
  rep : Half
  arg0 : Half
deriving DecidableEq, Repr

/-- An event that waits for the keeper (R408). -/
structure HwEvent where
  record : Rec
  args : List Byte
deriving DecidableEq, Repr

/-- The last record of an event with a rate limit: when it was raised (or in which scrub pass), its LSEQ, which is 0 while
the record waits for the keeper (R408), and the occurrences since then that the next record carries (R122). -/
structure Rate where
  code : Byte
  unit : Byte
  injected : Bool
  since : Nat
  lseq : Word
  rep : Half
deriving DecidableEq, Repr

/-- A subscription and its PSEQ (R320). -/
structure Sub where
  node : Half
  en : Bool
  pseq : Half
deriving DecidableEq, Repr

/-- Event log and subscriptions (R317 to R320, R408), and the keeper's own registers. -/
structure Log where
  next : Word
  ring : List Rec
  waiting : List Rec
  lost : Half
  lostBefore : Bool
  hwq : List HwEvent
  hwLost : Bool
  rates : List Rate
  subs : Vector Sub 32
  /-- Segments of the log, 0 to 3, that hold a record yet to be verified (R308, log 167). -/
  unverified : List (Fin 4)
  /-- KPR_EVENTS and KPR_RSRAM_ECC (R373). -/
  kprEvents : Word
  rsCorr : Half
  rsUncorr : Half
deriving DecidableEq, Repr

/-- A change of the ownership table whose flash record has not committed (R326 to R329). -/
inductive Change where
  | grant (cmd : CmdRef) (target : Fin 32) (codes : List Nat)
  | revoke (cmd : CmdRef) (loser : Fin 32) (force : Bool) (limit : Nat) (codes : List Nat)
  | lend (cmd : CmdRef) (target : Fin 32) (code : Nat)
  | recall (loser : Fin 32) (code : Nat)
  /-- The exchange of original and spare at a cut-over, with the codes that swap owners. -/
  | exchange (orig spare : Nat)
deriving DecidableEq, Repr

/-- A revocation that drains (R330). A recall has no command. -/
structure Drain where
  cmd : Option CmdRef
  loser : Fin 32
  codes : List Nat
  epoch : Word
  force : Bool
  /-- Model's clock when DRAIN_LIMIT ends. -/
  expiry : Nat
  aborted : Half
deriving DecidableEq, Repr

/-- Owner and flags of a resource code. -/
structure Own where
  owner : Fin 32
  draining : Bool
  lent : Bool
deriving DecidableEq, Repr

structure Quota where
  min : Nat
  max : Nat
  auth : Bool
deriving DecidableEq, Repr

/-- Partitions (R322 to R332). Codes not listed in `own` belong to P0. -/
structure Part where
  epoch : Word
  own : List (Nat × Own)
  loss : Vector Word 32
  quota : Vector Quota 32
  /-- The change whose record is being written, and those that wait for it. -/
  changes : List Change
  drains : List Drain
  events : Word
  /-- The erase block of the table store that holds the newest record, and the records written to each (R338). -/
  tableBlock : Fin 8
  tableWrites : Vector Nat 8
deriving DecidableEq, Repr

/-- A lease on a key generation: the command, and the model's clock when it was taken (R334). -/
structure Lease where
  cmd : CmdRef
  taken : Nat
deriving DecidableEq, Repr

/-- A key generation with its leases (R333, R334). -/
structure Gen where
  gen : Half
  key : List Byte
  leases : List Lease
deriving DecidableEq, Repr

/-- A key slot. `current` is false once the slot is erased while old generations live on. -/
structure KeySlot where
  present : Bool
  gen : Half
  gens : List Gen
  kcv : Word
  badMac : Half
  writes : Half
deriving DecidableEq, Repr

/-- A key record under way (R335). -/
inductive KeyJob where
  | write (cmd : CmdRef) (target : Fin 32) (key : List Byte) (kcv : Word)
  | erase (cmd : CmdRef) (target : Fin 32)
deriving DecidableEq, Repr

/-- A generation that an erase block of the key store holds. -/
structure KeyCopy where
  slot : Fin 32
  gen : Half
  key : List Byte
deriving DecidableEq, Repr

/-- An erase block of the key store (R338); one that is not erased may hold generations that no copy holds. -/
structure KeyBlock where
  erased : Bool
  copies : List KeyCopy
  erases : Nat
deriving DecidableEq, Repr

structure Keys where
  slots : Vector KeySlot 32
  jobs : List KeyJob
  events : Word
  /-- The two erase blocks of the key store, and the one that holds the committed copy (R338). -/
  blocks : Vector KeyBlock 2
  active : Fin 2
deriving DecidableEq, Repr

/-- A CAN packet that waits for transmission. -/
structure CanPacket where
  id : BitVec 11
  /-- An announce is one frame without a segment header (R348). -/
  raw : Bool
  bytes : List Byte
deriving DecidableEq, Repr

/-- A packet under reassembly (R346). -/
structure CanPart where
  id : BitVec 11
  index : Nat
  bytes : List Byte
deriving DecidableEq, Repr

/-- The slow-control bus (R340 to R354). -/
structure Can where
  en : Bool
  term : Bool
  brsEn : Bool
  retryMax : Byte
  /-- EN, TERM and BRS_EN in effect, which change between frames (R354). -/
  enNow : Bool
  termNow : Bool
  brsNow : Bool
  alone : Bool
  errPassive : Bool
  busOff : Bool
  dup : Bool
  tec : Nat
  recErr : Nat
  busOffs : Nat
  txFrames : Half
  rxFrames : Half
  segErr : Byte
  dropped : Byte
  abandoned : Byte
  discarded : Byte
  events : Word
  rx : List CanPart
  /-- Transmit queue of 8; the head is under transmission from frame `frame` on. -/
  txq : List CanPacket
  frame : Nat
  attempts : Nat
  /-- Responses that wait for room (R347). -/
  waiting : List CanPacket
  /-- Responses to DISCOVER that wait for their random delay (R349): path, packets, and the cycle they are due. -/
  delayed : List (Path × List (List Byte) × Nat)
  /-- The boot announce has been sent and the latch had not come (R348). -/
  announceAtLatch : Bool
  resetFlag : Bool
  /-- BRS of the frame under transmission, where the clock has changed since its start (R341). -/
  started : Option Bool
  /-- The frame that the module sent last: identifier, BRS, data (R341, R345). -/
  sent : Option (BitVec 11 × Bool × List Byte)
deriving DecidableEq, Repr

/-- Firmware slot states, coded as FW_SLOT_s_STATE (R361). WORN is a flag beside them. -/
inductive FwState where
  | empty
  | writing
  | written
  | valid
  | verified
deriving DecidableEq, Repr

/-- One firmware slot (R355 to R367). -/
structure FwSlot where
  state : FwState
  worn : Bool
  header : List Byte
  body : List Byte
  /-- Slot A as it leaves the factory: its bytes are not given, and its checks pass (log 10). -/
  factory : Bool
  /-- The flash of the slot has been corrupted since it was written (R366). -/
  corrupted : Bool
  /-- Erases of each 64 KiB block. -/
  erases : Vector Nat 64
deriving DecidableEq, Repr

/-- Keeper firmware (R355 to R368). -/
structure Fw where
  slots : Vector FwSlot 2
  active : Fin 2
  trial : Bool
  tries : BitVec 2
  /-- The boot selector that flash still holds, slot, TRIAL and TRIES, while the bar of R62 keeps a commit of it waiting. -/
  stored : Option (Fin 2 × Bool × BitVec 2)
  recovery : Bool
  lastStart : BitVec 2
  floor : Word
  confirmTime : Half
  confirmLeft : Half
  events : Word
  /-- FW_WRITE_BEGIN under way: its blocks are being erased. -/
  erasing : List (CmdRef × Fin 2 × List Byte)
  verifying : List (CmdRef × Fin 2)
  /-- FW_SWITCH that waits for its boundary, with MODE 0 (true). -/
  switching : Option (CmdRef × Fin 2 × Bool)
  /-- The switchover whose boot runs. -/
  switched : Option CmdRef
  /-- Cause of the rollback whose boot runs. -/
  rollback : Option Byte
  /-- The boot check chose the other slot (R366). -/
  fallback : Bool
deriving DecidableEq, Repr

/-- An armed injection (R378). -/
structure Armed where
  det : BitVec 10
  unit : Byte
  arg : Word
  cmd : CmdRef
  /-- Checks still needed before it fires (Table 20-4: three scrubs, eight readings). A ledger write or a flash program and
  its repeat lie within one step and count as one check. -/
  left : Nat
deriving DecidableEq, Repr

/-- Deliberate fault injection (R375 to R380). -/
structure Inj where
  enable : Bool
  /-- A power-on reset has cleared ENABLE: INJ_DISABLED is due at the end of the boot (R377, log 150). -/
  lapsed : Bool
  /-- Model's clock at which DURATION ends. -/
  expiry : Nat
  armed : Vector (Option Armed) 16
  /-- Thermal conditions held by injection: DET 0x082 to 0x084. -/
  held : List (BitVec 10)
  /-- Marks of the units whose events carry INJECTED until they return to normal (R380). -/
  carry : List Nat
  real : List (Nat × Half)
  injected : List (Nat × Half)
  events : Word
deriving DecidableEq, Repr

end Sys2Proof.Machine
end

