-- ==== Sys2Proof/Machine/PartsAnalogue.lean ====
section
/-!
DEFINITION. The state of the sash, the analogue bays, the octet crossbar, converters, timers, groups, waveform DACs and
the calibration engine (04 to 08). Registers that software reads and writes whole are kept as words. Plain data only.
-/
namespace Sys2Proof.Machine

/-- Sash states, coded as SASH_STATUS.STATE (Table 4-2). -/
inductive SashState where
  | absent
  | partialMate
  | reading
  | present
  | idFault
  | mismatch
deriving DecidableEq, Repr

/-- The sensor sash (R73 to R87). -/
structure Sash where
  state : SashState
  /-- Presence pins: true when closed. -/
  pinL : Bool
  pinS : Bool
  /-- ID_FAULT was entered from ABSENT (R73). -/
  faultFromAbsent : Bool
  /-- STATE has been ABSENT since the previous counted mating (R80), and since the pages were last read. -/
  wasAbsent : Bool
  unread : Bool
  frozen : Bool
  retired : Byte
  events : Word
  expect : Word
  /-- Identity block as last read: 64 bytes. -/
  ident : List Byte
  setpoint : Vector (BitVec 12) 4
  rate : Byte
  /-- Output voltages in mV: a setpoint step is 25. -/
  out : Vector Nat 4
  current : Vector (BitVec 12) 4
  /-- No target is being approached. -/
  settled : Bool
  matings : Half
  biasS : Word
  charge : Word
  peakT : Half
  pageWrites : Vector (BitVec 20) 8
  /-- Running remainders: ms of bias below one second, and charge in units of 1 nC. -/
  biasMs : Nat
  chargeNc : Nat
  /-- Current page and SEQ of the current record. -/
  page : Option (Fin 8)
  seq : Word
  /-- The pages as last read or written, 64 bytes each (R81). -/
  pages : Vector (List Byte) 8
  /-- The write under way: its page, its bytes 0x00 to 0x3B, and whether it repeats a failed write (R82). -/
  writing : Option (Fin 8)
  record : List Byte
  again : Bool
  /-- The page of a failed write that is still to be repeated on the next live page. -/
  failedAt : Option (Fin 8)
  /-- Pages whose last write failed verification. -/
  failed : Byte
  /-- A write is due: held by NVW_DEFER or behind the one under way. -/
  due : Bool
  /-- Bias was on at the shutdown of this removal (Table 16-5, BIAS_WAS_ON). -/
  biasWasOn : Bool
  /-- MATING_LIMIT has been raised for this insertion. -/
  limitRaised : Bool
deriving DecidableEq, Repr

/-- A comparator with its threshold DAC (R90, R92 to R94, R133, R134). -/
structure Cmp where
  /-- THRESH, HYST and EDGE as written, as the next boundary loads them (not those staged by HOLD), and in effect. -/
  set : Word
  use : Word
  now : Word
  /-- THRESH before the last load. -/
  was : BitVec 12
  /-- Comparator output. -/
  out : Bool
  /-- Its 8 bits at the entry of the lintel crossbar in this cycle. -/
  feed : Byte
  /-- DOUBLE. -/
  double : Byte
deriving DecidableEq, Repr

/-- A channel slot (R88 to R96). -/
structure Slot where
  cfg : Word
  cfgNow : Word
  ovl : Bool
  masked : Bool
  lo : Cmp
  hi : Cmp
deriving DecidableEq, Repr

/-- A comparator's record on its way to the lintel crossbar (R93): the cycle in which it is presented, and its 8 bits. -/
structure FeedRec where
  due : Nat
  slot : Fin 8
  hi : Bool
  byte : Byte
deriving DecidableEq, Repr

/-- An analogue bay (R88 to R106). -/
structure ABay where
  slotEn : Byte
  sumCfg : Word
  mux : Word
  so : Word
  /-- Sum outputs and ASB inputs in effect (R100). -/
  soNow : Word
  asbNow : BitVec 4
  sumOvl : Bool
  events : Word
  hold : Bool
  /-- The model's clock at which the thresholds of the last load have settled (R133). -/
  settled : Nat
  /-- Records that have not reached the lintel crossbar. -/
  feedQ : List FeedRec
  /-- A bay reset waits for its boundary; the bay is in a bay reset. -/
  resetDue : Bool
  inReset : Bool
  slots : Vector Slot 8
deriving DecidableEq, Repr

/-- The driver of an ASB line (R99). -/
structure AsbDriver where
  bay : Fin 9
  so : Fin 2
  cls : Cls
deriving DecidableEq, Repr

/-- Octet crossbar: PRIMARY and SECONDARY of each octet as written and in effect, the ASB lines and the terminations. -/
structure Xbar where
  primary : Vector (BitVec 4) 8
  secondary : Vector (BitVec 4) 8
  primaryNow : Vector (BitVec 4) 8
  secondaryNow : Vector (BitVec 4) 8
  pending : Bool
  lines : Vector (Option AsbDriver) 4
  /-- Terminations in force, by sash input, coded as ZIN (R102). -/
  zin : Vector (BitVec 2) 64
deriving DecidableEq, Repr

/-- ADC states, coded as ADC_STATUS.STATE. -/
inductive AdcState where
  | disabled
  | idle
  | waitRef
  | delay
  | running
  | urgent
  | lent
deriving DecidableEq, Repr

/-- A result between its last sample and the queue (R123). -/
structure Sample where
  code : Half
  entry : Fin 16
  urgent : Bool
  shift : Bool
  unsettled : Bool
  late : Bool
  clip : Bool
  width : Half
  et : Et
deriving DecidableEq, Repr

/-- An ADC with its sequencer and queue (R107 to R131). -/
structure Adc where
  ctrl : Word
  urg : Word
  refSel : BitVec 2
  force : Bool
  refRdy : Bool
  state : AdcState
  entry : Fin 16
  /-- Results of the current entry that are complete; samples, sum and clip of the average that is open. -/
  done : Nat
  taken : Nat
  acc : Int
  clip : Bool
  unsettled : Bool
  shift : Bool
  late : Bool
  width : Half
  /-- A start held by R120 or R128. -/
  heldStart : Bool
  urgPend : Bool
  /-- An urgent conversion cut into a running sequence. -/
  urgCut : Bool
  cls : Cls
  /-- A user claim stood when an engine took the ADC (R127). -/
  displaced : Bool
  pipe : List Sample
  queue : List (List Byte)
  fullArmed : Bool
  /-- The window line WEV_n in this cycle (R122). -/
  wev : Bool
  tag : Half
  urgDrop : Byte
  startMiss : Byte
  lost : Byte
  startLate : Byte
  winCnt : Word
  events : Word
  entCfg : Vector Word 16
  entWin : Vector Word 16
  /-- Whether the previous result of the entry lay inside its band (R121). -/
  inside : Vector (Option Bool) 16
deriving DecidableEq, Repr

/-- A module timer (R114, R127). -/
structure Timer where
  en : Bool
  mode : Bool
  period : Word
  offset : Et
  cls : Cls
  displaced : Bool
  fired : Bool
  /-- EN, MODE, PERIOD, OFFSET before an engine took it. -/
  saved : Option (Bool × Bool × Word × Et)
deriving DecidableEq, Repr

structure Group where
  mask : BitVec 18
  ctrl : Word
  miss : Half
deriving DecidableEq, Repr

/-- Waveform DAC states, coded as WDAC_STATUS.STATE. -/
inductive WdacState where
  | stopped
  | waitStart
  | delay
  | running
  | lent
deriving DecidableEq, Repr

/-- A waveform DAC (R136 to R148). Table entries not listed hold the sine of R145. -/
structure Wdac where
  ctrl : Word
  div : Half
  static : Half
  state : WdacState
  cls : Cls
  displaced : Bool
  last : Half
  underrun : Half
  overflow : Half
  startMiss : Half
  startLate : Half
  events : Word
  queue : List Half
  ring : BitVec 10
  ringIdx : Nat
  ftw : Word
  phase0 : Word
  phase : Word
  amp : Word
  tblAddr : BitVec 12
  table : List (Nat × Half)
  underrunSeen : Bool
  stopPend : Bool
  heldStart : Bool
  /-- The wait is of a command start: WDAC_CMD.START or WDAC_CONTROL. -/
  cmdStart : Bool
  /-- OMODE and OUT_EN in WDAC_CTRL, and the output level, before a lent gap step (R139). -/
  saved : Option (Word × Half)
  /-- The job that has claimed the DAC: it takes the DAC at its next tick (R138). -/
  claim : Option (Fin 16)
  /-- Latched codes on their way out: the cycle in which the output begins to move, and the code it drives until then (R140). -/
  lag : List (Nat × Half)
deriving DecidableEq, Repr

/-- A WDAC_CONTROL that waits for its starts or stops (R147): which DACs are still open. -/
structure WdacWait where
  cmd : CmdRef
  mask : Byte
  stop : Bool
deriving DecidableEq, Repr

/-- Job states, coded as CAL_JOB_ST_j.STATE; free is the absence of a job. -/
inductive JobState where
  | queued
  | noticed
  | held
  | between
deriving DecidableEq, Repr

/-- A CAL_SYS_POINT of a GAP job whose samples are being taken: POINT 1 or 0, its expected code, and the steps left (R149,
R153). -/
structure SysPoint where
  cmd : CmdRef
  second : Bool
  expected : Half
  left : Nat
deriving DecidableEq, Repr

/-- A calibration job (R153 to R159). A job of the repair engine has no command. -/
structure Job where
  cmd : Option CmdRef
  type : BitVec 2
  index : BitVec 7
  kind : BitVec 4
  gap : Bool
  apply : Bool
  cls : Cls
  state : JobState
  steps : Nat
  /-- ADC_SYS points taken: expected code and measured mean in 1/16 code. -/
  point0 : Option (Half × Word)
  point1 : Option (Half × Word)
  pend : Option SysPoint
  /-- Released at the next frame boundary by CAL_ABORT. -/
  aborted : Bool
  /-- It ends with the step in progress: the keeper has restarted (R160). -/
  ending : Bool
deriving DecidableEq, Repr

/-- The coefficients of one unit (R150, R151). -/
structure Coef where
  valid : Byte
  dieT : Half
  et : Et
  body : List Byte
deriving DecidableEq, Repr

/-- The coefficient window of a partition (R162). -/
structure CoefWindow where
  type : BitVec 2
  index : BitVec 7
  addr : Byte
  staged : List (Nat × Byte)
deriving DecidableEq, Repr

/-- The CAL engine (R149 to R162). Units not listed in `coefs` are neutral; units are coded as in R376. -/
structure Cal where
  gapCfg : Word
  limits : Word
  events : Word
  steps : Half
  aborts : Half
  jobs : Vector (Option Job) 16
  coefs : List (Nat × Coef)
  pending : List (Nat × Coef)
  windows : Vector CoefWindow 32
deriving DecidableEq, Repr

end Sys2Proof.Machine
end

