-- ==== Sys2Proof/Machine/PartsDigital.lean ====
section
/-!
DEFINITION. The state of the digital bays, the lintel crossbar, memory blocks, I/O cells, the probe bus, configuration
with its store and scrubber, and the repair engine (09 to 12). Plain data only.
-/
namespace Sys2Proof.Machine

/-- A stored word with an upset (R182): one flipped bit of its 39, of which 32 to 38 are check bits, or more of
them, with none listed where a narrow write has kept the mark. A word not listed is clean. -/
inductive WordError where
  | single (bit : Fin 39)
  | double (bits : List (Fin 39))
deriving DecidableEq, Repr

/-- Data presented by a port, with ERR (R180, R182). -/
structure PortOut where
  data : Word
  err : Bool
deriving DecidableEq, Repr

/-- A LOOKBACK window: ring entry of its next word, words left, and cycles to go before the one that presents the first
word. In the cycle of LAST no word is left. -/
structure Window where
  entry : Nat
  left : Nat
  delay : Nat
deriving DecidableEq, Repr

/-- A write of an internal word: its cycle, its port, and what the word held before (R181). -/
structure Written where
  ck : Nat
  portB : Bool
  word : Nat
  old : Word
  err : Option WordError
deriving DecidableEq, Repr

/-- A memory block and its queue controller (R180 to R191). Its words lie in the machine's memory. -/
structure MemBlock where
  shape : BitVec 2
  mode : BitVec 2
  window : Bool
  scrub : Bool
  decim : BitVec 3
  af : BitVec 13
  ae : BitVec 13
  depth : BitVec 13
  /-- Settings in effect (R185). -/
  decimNow : BitVec 3
  afNow : BitVec 13
  aeNow : BitVec 13
  depthNow : BitVec 13
  /-- FIFO level, or FILL. -/
  level : Nat
  /-- FIFO head entry. -/
  head : Nat
  corr : Half
  uncorr : Half
  overflow : Byte
  underflow : Byte
  collide : Byte
  lbReject : Byte
  errAddr : BitVec 10
  errValid : Bool
  errors : List (Nat × WordError)
  /-- Writes of the cycle of the last write. -/
  wrote : List Written
  outA : PortOut
  outB : PortOut
  valid : Bool
  last : Bool
  reject : Bool
  /-- REJECT pulses in the next cycle (R189). -/
  rejectNext : Bool
  /-- DELAY: cycles still to come with VALID 0. -/
  quiet : Nat
  running : Option Window
  waiting : Option (BitVec 24 × Byte)
  scrubPos : Nat
  /-- The repair engine holds the window until this cycle of the model's clock (R191, R228). -/
  heldUntil : Nat
deriving DecidableEq, Repr

/-- Configuration states, coded as DBAY_CFG_STATUS.STATE. -/
inductive CfgState where
  | empty
  | loading
  | loaded
  | faulted
deriving DecidableEq, Repr

/-- A frame word that the scrubber has corrected on consecutive passes (R217). -/
structure Corrected where
  frame : Nat
  word : Fin 28
  pass : Nat
  times : Nat
deriving DecidableEq, Repr

/-- A digital bay (R175, R203 to R220). -/
structure DBay where
  /-- Causes of GSR: a load, a bay reset, FAULT_ACTION HOLD, a repair (R175, R218, R223, R237). -/
  gsrLoad : Bool
  gsrReset : Bool
  gsrHold : Bool
  gsrRepair : Bool
  /-- A bay reset waits for its boundary. -/
  resetDue : Bool
  untimed : Bool
  uclk : Bool
  slackFail : Bool
  events : Word
  resetCnt : Half
  cfg : CfgState
  cause : BitVec 2
  source : Byte
  frame : BitVec 10
  /-- The configuration frames that the bay holds: image bytes from 0x400 on. -/
  frames : List Byte
  design : BitVec 64
  corr : Half
  uncorr : Byte
  loads : Byte
  cfgEvents : Word
  faultAction : Bool
  memEvents : Word
  mems : Vector MemBlock 4
  peep : Vector Byte 2
  peepNow : Vector Byte 2
  /-- The output ports' flip-flops (R166). -/
  outPorts : BitVec 64
  corrected : List Corrected
deriving DecidableEq, Repr

/-- A staged route (R169). -/
structure Staged where
  dst : BitVec 12
  src : BitVec 12
  writer : Fin 32
  /-- Made by the repair engine. -/
  engine : Bool
  /-- Its writer has committed it and it waits for the boundary. -/
  committed : Bool
deriving DecidableEq, Repr

/-- A PWE line or the trigger accept line: its level in this cycle and the one before, and the length in CK of the pulse
that runs or was the last (R111). -/
structure Line where
  now : Bool
  was : Bool
  width : Half
deriving DecidableEq, Repr

/-- The lintel crossbar. Destinations not listed select 0xFFF. -/
structure Lin where
  active : List (Nat × BitVec 12)
  /-- Destinations that present 1 in this cycle, and those that will in the next (R166). -/
  out : List Nat
  pipe : List Nat
  /-- PWE0 to PWE15, and the trigger accept line. -/
  lines : Vector Line 17
  staged : List Staged
  pending : List (Fin 32)
  /-- LIN_ROUTE_SET commands with COMMIT that wait for the boundary. -/
  waits : List CmdRef
  events : Word
  offSrc : BitVec 12
deriving DecidableEq, Repr

/-- An I/O cell (R192 to R196). -/
structure IoCell where
  ctrl : Word
  ctrlNow : Word
  /-- The level that its source presents, and the last level sampled at its pin. -/
  sample : Bool
  pin : Bool
  /-- What leaves the pin in the two halves of this cycle; none at high impedance. -/
  drive : Option (Bool × Bool)
deriving DecidableEq, Repr

/-- The probe bus and capture memory (R197 to R200). -/
structure Prb where
  sel : Vector Word 8
  aux : Byte
  trig : BitVec 2
  pre : BitVec 10
  pattern : Byte
  mask : Byte
  et : Et
  state : BitVec 2
  trigEt : Et
  data : List Byte
  /-- The lines of the last four cycles, the latest first (R199). -/
  recent : Vector Byte 4
  events : Word
deriving DecidableEq, Repr

/-- A physical area of the image store (R210). -/
structure Area where
  data : List Byte
  erased : Bool
  erases : Nat
deriving DecidableEq, Repr

/-- A load that waits or runs (R213). A load of the repair engine has no command. -/
structure Load where
  cmd : Option CmdRef
  part : Fin 32
  bay : Fin 18
  source : Byte
deriving DecidableEq, Repr

/-- The load under way. -/
structure Loading where
  load : Load
  /-- The area of the image store that it reads; none for the buffer. -/
  area : Option (Fin 34)
  image : List Byte
  frame : Nat
  retried : Bool
deriving DecidableEq, Repr

/-- A save or an erase of the store under way. -/
inductive StoreJob where
  | save (cmd : CmdRef) (slot : Fin 32) (area : Fin 34) (data : List Byte)
  | erase (cmd : CmdRef) (slot : Fin 32) (area : Fin 34)
deriving DecidableEq, Repr

/-- Configuration buffer, image store, load queue and scrubber (R206 to R217). -/
structure Cfg where
  holder : Option (Fin 32)
  buf : List Byte
  valid : Bool
  slots : Vector (Option (Fin 34)) 32
  areas : Vector Area 34
  job : Option StoreJob
  queue : List Load
  running : Option Loading
  /-- Scrubber position, 0 to 18,359, and pass number. -/
  scrubPos : Nat
  pass : Nat
deriving DecidableEq, Repr

/-- Repair phases, coded as REP_r_STATE.PHASE; FREE is the absence of a repair. -/
inductive RepPhase where
  | recall
  | prepare
  | calibrate
  | warmup
  | compare
  | ready
  | cutover
  | retire
deriving DecidableEq, Repr

/-- An edge of a comparator that has not met its match (R230): which bay delivered it, and its time in bins of 1/64 CK. -/
structure Edge where
  spare : Bool
  slot : Fin 8
  hi : Bool
  time : Nat
deriving DecidableEq, Repr

/-- One repair (R224 to R240). Bays are numbered as domains: analogue a is a, digital d is 9 + d. -/
structure Repair where
  cmd : CmdRef
  digital : Bool
  cold : Bool
  orig : Nat
  spare : Nat
  owner : Fin 32
  auto : Bool
  onLoss : Bool
  noGap : Bool
  source : Byte
  calMask : Byte
  memCopy : BitVec 4
  warmup : Word
  effective : Word
  cmpFrames : Half
  missTol : Byte
  ftTol : BitVec 6
  mask : BitVec 64
  phase : RepPhase
  /-- The cut-over boundary F has passed. -/
  past : Bool
  unwarm : Bool
  /-- The load of the spare has found no place in the queue so far (R213). -/
  waitsLoad : Bool
  windows : Half
  mismatch : Word
  /-- Mismatches of the window under way; edges without a match so far; CRC-32s of records that the other bay has not
  reached yet (R230). -/
  missed : Nat
  edges : List Edge
  crcSpare : List Word
  crcOrig : List Word
  /-- REPAIR_CUTOVER has been received. -/
  cutRequested : Bool
  /-- The original's domain has left ON after WARMUP (ON_LOSS, R231). -/
  origLost : Bool
  lead : BitVec 7
  memLost : Byte
  /-- MEM_LOST before the MEM_COPY step under way (R228). -/
  memLostWas : Byte
  lost : Half
  /-- Steps of MEM_COPY done, 16 for each block set. -/
  copyStep : Nat
  /-- Records the spare has delivered and the original has committed since both ran. -/
  delivered : Nat
  committed : Nat
  /-- The spare's last 64 records that a SHADOW holds (R233): destination and payload. -/
  held : List (Half × List Byte)
  /-- The original's transfer still held the grant at F, and has not ended so far (R232). -/
  lastBeat : Bool
  /-- Calibrations still to do: unit and kind. -/
  calLeft : List (Nat × BitVec 4)
deriving DecidableEq, Repr

/-- The repair engine. -/
structure Rep where
  spares : BitVec 27
  loans : BitVec 27
  retired : BitVec 27
  events : Word
  slots : Vector (Option Repair) 3
  /-- Registers of a repair slot keep the last repair's record after it ends. -/
  ended : Vector (Option Repair) 3
deriving DecidableEq, Repr

end Sys2Proof.Machine
end

