-- ==== Sys2Proof/Machine/PartsLinks.lean ====
section
/-!
DEFINITION. The state of the Franum links, the reliable channel, the readout arbiter and the outbound record queues
(13, 14, 15). Plain data only.
-/
namespace Sys2Proof.Machine

/-- Training states, coded as LNK_STATUS.STATE (Table 13-4). -/
inductive PortState where
  | disabled
  | settle
  | seek
  | deskew
  | exchange
  | level
  | up
  | refused
deriving DecidableEq, Repr

/-- What a packet of the reliable channel is (Table 14-1 KIND). -/
inductive PktKind where
  | darem
  | record
deriving DecidableEq, Repr

/-- A packet held whole: in an ORQ, a forwarding buffer or the keeper's queues. The bytes are those its flits carry. -/
structure Packet where
  kind : PktKind
  bytes : List Byte
  /-- Indices of its poisoned flits (R271). -/
  poison : List Nat
  /-- Source number of a record that this module originated (R313), with its RSEQ. -/
  source : Option (Fin 32 × Half)
  /-- It came in on a link and is forwarded (R313). -/
  forwarded : Bool := false
deriving DecidableEq, Repr

/-- A flit held in a replay buffer (R266 to R268). -/
structure SentFlit where
  seq : BitVec 10
  kind : PktKind
  first : Bool
  last : Bool
  poison : Bool
  payload : List Byte
  acked : Bool
  due : Bool
  /-- Frame of its last departure, by the port's own count of frames. -/
  left : Nat
  /-- Counts as past the wait of R267, since the session was resumed (R274). -/
  old : Bool
  source : Option (Fin 32 × Half)
  forwarded : Bool := false
deriving DecidableEq, Repr

/-- A flit held in a reorder buffer (R265). -/
structure HeldFlit where
  seq : BitVec 10
  kind : PktKind
  first : Bool
  last : Bool
  poison : Bool
  payload : List Byte
deriving DecidableEq, Repr

/-- Where the packet under delivery goes (R269). -/
inductive Consumer where
  | none
  | localInput
  | forward (port : Fin 4)
  | discard
deriving DecidableEq, Repr

/-- A packet in a forwarding buffer, tagged with its port. -/
structure Forwarded where
  port : Fin 4
  packet : Packet
deriving DecidableEq, Repr

/-- One virtual channel of a port, both directions (R262 to R275). -/
structure VcState where
  nextSeq : BitVec 10
  replay : List SentFlit
  /-- Flits of the ORQ's head packet that have already been chosen. -/
  cursor : Nat
  /-- Latest ACK and SNAK received (R268). -/
  snakAck : BitVec 10
  snak : BitVec 16
  /-- Packets withdrawn at a new session that are resent whole, ahead of new traffic (R275). -/
  resend : List Packet
  /-- Receiver's ACK (E) and whether it is valid. -/
  e : BitVec 10
  ackv : Bool
  reorder : List HeldFlit
  consumer : Consumer
  /-- Flits of the packet under delivery that have been delivered. -/
  partialPkt : List HeldFlit
  fwd : List Forwarded
  /-- A SNAK has been received in this session. -/
  snakSeen : Bool
  /-- Flits of the ORQ's head packet whose slots an earlier session has released: it is resent whole (R275, R292). -/
  released : Nat
  /-- Slots of the ORQ, the forwarding buffer, the replay buffer and the reorder buffer that leave use after this cycle, and
  those that have left it and are not yet visible as free (R272, R292). -/
  orqLeaving : Nat
  orqHidden : Nat
  fwdLeaving : Nat
  fwdHidden : Nat
  replayLeaving : Nat
  replayHidden : Nat
  reorderLeaving : Nat
  reorderHidden : Nat
deriving DecidableEq, Repr

/-- A lane's alignment (R247). -/
structure Lane where
  phase : BitVec 6
  slip : BitVec 4
  offset : BitVec 4
  lock : Bool
  /-- Running disparity of the transmitter: positive (R241). -/
  disparity : Bool
deriving DecidableEq, Repr

/-- A link partner's record (R251). -/
structure Partner where
  valid : Bool
  node : Half
  port : BitVec 2
  type : Word
  die : BitVec 49
  serial : Word
deriving DecidableEq, Repr

/-- A latency record: FLIGHT, SKEW in 1/64 CK, DEPTH in CK (R250). -/
structure LatRec where
  flight : Half
  depth : BitVec 9
  skew : Half
  valid : Bool
deriving DecidableEq, Repr

/-- One link port (R241 to R278). -/
structure Port where
  en : Bool
  state : PortState
  lockLost : Bool
  /-- An injected loss of lock holds until this cycle (DET 0x180, ARG frames). -/
  lockHold : Nat
  latShift : Bool
  offTarget : Bool
  synthLock : Bool
  cause : BitVec 3
  session : BitVec 6
  latTarget : BitVec 7
  downTime : Half
  swing : BitVec 3
  emph : BitVec 3
  /-- SWING and EMPH in effect. -/
  swingNow : BitVec 3
  emphNow : BitVec 3
  txEn : Bool
  syncSel : BitVec 3
  gapSel : BitVec 3
  events : Word
  recd : LatRec
  now : LatRec
  latency : Byte
  /-- φ of the receive path, in 1/64 CK (R247). -/
  phi : BitVec 6
  codeErr : Half
  segCrc : Half
  lockLoss : Half
  downs : Half
  partner : Partner
  /-- LNK_PARTNER changed at this training's blocks. -/
  partnerNew : Bool
  lanes : Vector Lane 4
  /-- Round-trip samples of this training: flight in 1/64 CK (R249). -/
  samples : List Nat
  /-- Arrival of the last training frame against this module's boundary, 1/64 CK. -/
  arrival : Nat
  /-- Last good training block of this training. -/
  block : Option (List Byte)
  badBlocks : Nat
  /-- A session has run since retention SRAM was last lost (R252). -/
  sessionHeld : Bool
  /-- KEPT sent in this training, and whether the session will continue. -/
  keptSent : Bool
  newSession : Bool
  /-- The session number that entry to UP takes on. -/
  nextSession : BitVec 6
  mark : Half
  echo : Half
  /-- Arrival of ECHO's frame, in 1/64 CK of the model's cycle count; none before the first (Table 13-5). -/
  echoAt : Option Nat
  /-- Last segment delivered: s0 to s12, VALID, SYNC and GAP as taken. -/
  rxSeg : List Byte
  rxValid : Bool
  rxSync : Bool
  /-- SYNC of the segment delivered in the frame before (R19). -/
  rxSyncWas : Bool
  rxGap : Bool
  /-- GAP of the segment delivered in the frame before (R25). -/
  rxGapWas : Bool
  /-- User bits captured for the segment that departs next (R244). -/
  txUser : BitVec 96
  /-- Last frame departed: bytes 1 to 15, its comma (true K28.1), whether it was a training frame, and its flit or training
  block; then its symbols per lane in the order sent, bit a of each the most significant (R241). -/
  txSeg : List Byte
  txSuper : Bool
  txTrain : Bool
  txFlit : List Byte
  txLanes : Vector (List (BitVec 10)) 4
  /-- AVC of the next departing flit (R264). -/
  avcRsp : Bool
  /-- Frames counted by this port. -/
  frames : Nat
  req : VcState
  rsp : VcState
  timeout : Half
  flitCrc : Half
  sessionErr : Half
  retx : Half
  timeouts : Byte
  dup : Byte
  format : Byte
  torn : Byte
  withdrawn : Byte
  noroute : Byte
  rcEvents : Word
  /-- LNK_ENABLE commands that wait for SYNTH_LOCK (R254). -/
  enabling : List CmdRef
  /-- ORQ of this port (R291): packets committed per VC, slots reserved, peaks. -/
  orqReq : List Packet
  orqRsp : List Packet
  reservedReq : Nat
  reservedRsp : Nat
  peakReq : Nat
  peakRsp : Nat
deriving DecidableEq, Repr

/-- A waiting request (R283, R284). -/
structure Request where
  deadline : Et
  /-- Cycle in which it was raised (R285). -/
  raised : Nat
  /-- Bytes of the record or packet (R281). -/
  bytes : Nat
  /-- Beats after the A burst, less one: BLEN or XLEN. -/
  xlen : Nat
  dest : Half
  /-- A forwarding engine's request is for its RSP buffer. -/
  rsp : Bool
  /-- Order of stamping, for R405 between two stored values. -/
  stamped : Nat
deriving DecidableEq, Repr

/-- One requester and its source registers (R279 to R295). -/
structure Requester where
  cls : BitVec 2
  deadline : Half
  dest : Half
  srcnum : BitVec 5
  waiting : Option Request
  /-- DL as the readout port last presented it (R283). -/
  dl : Half
  /-- TORN and REFUSED of the readout port, in the next cycle and in this one (R288, R291). -/
  tornNext : Bool
  refusedNext : Bool
  tornOut : Bool
  refusedOut : Bool
  torn : Byte
  late : Byte
  noroute : Byte
  dropped : Byte
deriving DecidableEq, Repr

/-- The transfer on the spine. -/
structure Holder where
  k : Fin 32
  request : Request
  port : Fin 4
  rsp : Bool
  slots : Nat
  packet : Option Packet
  /-- The first cycle in which beat 0 can be taken. -/
  ck0 : Nat
  /-- The loads of ET since the decision: the cycle, and what the load has added to ET (R280, R286). -/
  jumps : List (Nat × Et)
deriving DecidableEq, Repr

/-- The readout arbiter (15). NEXT_RSEQ and skipped numbers are per source number. -/
structure Arb where
  bubbleMax : BitVec 4
  events : Word
  reqs : Vector Requester 32
  holder : Option Holder
  /-- The grant decided in the last beat of the transfer on the spine. -/
  next : Option Holder
  /-- The transfer that GSR or a trip has cut off last, until its ARB_TEAR says whether beat 0 was taken (R286, R290). -/
  cut : Option Holder
  /-- ARB_STATUS.HOLDER: the last holder while the spine is idle. -/
  lastHolder : Fin 32
  /-- Requesters whose bay was SUSPECT at the last frame boundary (Table 15-4). -/
  suspects : Word
  stampCount : Nat
  nextRseq : Vector Half 32
  skipped : Vector Nat 32
  /-- DECLARED 0xFFFF is due with the next record (R314). -/
  lostAll : Vector Bool 32
  /-- Stream buffers of the analogue bays: results of 16 bytes, at most 32 (R294). -/
  streams : Vector (List (List Byte)) 9
deriving DecidableEq, Repr

end Sys2Proof.Machine
end

