-- ==== Sys2Proof/Machine/State.lean ====
section
/-!
DEFINITION. The machine's state, its reasons to stop, and the state right after reset (R67, Table 3-4): the moment a
power-on reset of a module as manufactured releases keeper reset (log 4).
-/
namespace Sys2Proof.Machine

/-- The machine stops with a fault: no rule of the spec gives one, so nothing raises it (safe). -/
inductive Fault where
  /-- Raised by no command; kept so that the type is inhabited. Safe. -/
  | none
deriving DecidableEq, Repr

/-- A command is refused by the model. -/
inductive Refusal where
  /-- Raised by an arm of `exec` whose command has no meaning yet. Safe: nothing is claimed of it. -/
  | notModelled (mnemonic : String)
deriving DecidableEq, Repr

/-- A snapshot of a wide field (R5): partition, low word's address, value. -/
structure Snap where
  part : Fin 32
  addr : Nat
  value : Nat
deriving DecidableEq, Repr

/-- The state of the module: everything the spec gives it, the model's own counters, and the waiting commands. -/
structure State where
  clk : Clk
  node : Node
  pwr : Pwr
  sash : Sash
  abays : Vector ABay 9
  xbar : Xbar
  adcs : Vector Adc 18
  timers : Vector Timer 16
  tmrEvents : Word
  groups : Vector Group 8
  vrefIn : Bool
  /-- ADC_START commands wait for the frame boundary E with these masks (R110). -/
  adcStarts : List (CmdRef × Word)
  wdacs : Vector Wdac 8
  wdacWaits : List WdacWait
  cal : Cal
  dbays : Vector DBay 18
  lin : Lin
  /-- The memory windows' bytes, by byte address, in canonical form. -/
  mem : List Host.Cell
  io : Vector IoCell 24
  prb : Prb
  cfg : Cfg
  rep : Rep
  ports : Vector Port 4
  /-- Routing entries (R269): bit 2 EN, bits 1 to 0 PORT. -/
  routes : List (Nat × BitVec 3)
  arb : Arb
  ldg : Ledger
  log : Log
  part : Part
  keys : Keys
  can : Can
  fw : Fw
  inj : Inj
  /-- Packets for the keeper from the links (R270) and what it sends over them. -/
  keeperIn : List (Path × List Byte × Bool)
  keeperOut : List Packet
  /-- Accepted commands that have not started (R304). -/
  unstarted : List (CmdRef × Instr)
  /-- The next command executed is the start of an accepted one (log 17). -/
  resuming : Bool
  /-- The next command executed is a packet that the keeper takes from its local input (log 3). -/
  taken : Bool
  snaps : List Snap
  /-- Staged low words (R6), with their address. -/
  staged : List Snap
  /-- The model's clock: CK cycles since reset (log 3). -/
  ck : Nat
  /-- Counter of free values drawn (log 7). -/
  freeCtr : Nat
  /-- Status and value of the last single register access (log 8). -/
  acc : Byte × Word
  /-- Commands that wait, first in, first out. -/
  pending : List Instr
deriving DecidableEq, Repr

/-- CLK at power-on reset (Table 1-3). -/
def clkReset : Clk where
  lock := false
  freewheel := true
  refPresent := false
  etSuspect := true
  gap := false
  syncArmed := false
  holdSuspect := true
  events := 0
  et := 0
  syncValue := 0
  syncSrc := 0
  syncMode := 0
  gapSrc := 0
  gapActive := 0
  period := 0
  length := 0
  genPend := false
  genPeriod := 0
  genLength := 0
  genCount := 0
  lastLen := 0
  minLen := 0xFFFF
  gapStart := 0
  loads := 0
  missed := 0
  freewheelCnt := 0
  ferr := 0
  qualified := false
  syncDue := false
  syncCk := 0
  syncPin := false
  syncPinWas := false
  syncSeen := false
  syncNow := []

/-- KPR_NODE_ADDR at keeper reset release: the sampler starts its first set (R43). -/
def nodeReset : Node where
  addr := 0
  valid := false
  mismatch := false
  sampling := true
  sets := 0
  count := 0
  first := 0
  agree := true
  differ := 0

/-- A domain that is OFF (R54). -/
def domReset : Dom where
  state := .off
  tripKind := 0
  tripCount := 0
  v := 0
  i := 0
  wantOn := false
  good := false
  wantOff := false
  isolated := true
  switchOpen := true

/-- PWR at power-on reset, keeper reset released (Table 3-7, log 4). -/
def pwrReset : Pwr where
  doms := Vector.replicate 32 domReset
  req := 0
  suspect := 0
  dieT := 0
  warn := false
  nvwDefer := false
  peak := 0x8000
  cause := 0
  count := 0
  vin := 0
  iin := 0
  events := 0
  served := []
  phase := .booting
  boot := .power
  owed := none
  held := false
  inputGood := true
  presLow := true
  counting := false
  lossSeen := false
  hotSeen := false
  warmCmd := []
  underway := []

/-- SASH at power-on reset (Table 4-6). -/
def sashReset : Sash where
  state := .absent
  pinL := false
  pinS := false
  faultFromAbsent := false
  wasAbsent := true
  unread := true
  frozen := false
  retired := 0
  events := 0
  expect := 0
  ident := List.replicate 64 0
  setpoint := Vector.replicate 4 0
  rate := 10
  out := Vector.replicate 4 0
  current := Vector.replicate 4 0
  settled := true
  matings := 0
  biasS := 0
  charge := 0
  peakT := 0x8000
  pageWrites := Vector.replicate 8 0
  biasMs := 0
  chargeNc := 0
  page := none
  seq := 0
  pages := Vector.replicate 8 []
  writing := none
  record := []
  again := false
  failedAt := none
  failed := 0
  due := false
  biasWasOn := false
  limitRaised := false

/-- A comparator at reset: threshold 0xFFF (Table 5-3). -/
def cmpReset : Cmp where
  set := 0xFFF
  use := 0xFFF
  now := 0xFFF
  was := 0xFFF
  out := false
  feed := 0
  double := 0

/-- A channel slot at reset (Table 5-3). -/
def slotReset : Slot where
  cfg := 0
  cfgNow := 0
  ovl := false
  masked := false
  lo := cmpReset
  hi := cmpReset

/-- An analogue bay at reset (Table 5-3). -/
def abayReset : ABay where
  slotEn := 0
  sumCfg := 0
  mux := 0
  so := 0
  soNow := 0
  asbNow := 0
  sumOvl := false
  events := 0
  hold := false
  settled := 0
  feedQ := []
  resetDue := false
  inReset := false
  slots := Vector.replicate 8 slotReset

/-- The octet crossbar at reset: octet o on bay o (Table 5-4). -/
def xbarReset : Xbar where
  primary := Vector.ofFn fun o => BitVec.ofNat 4 o.val
  secondary := Vector.replicate 8 0xF
  primaryNow := Vector.ofFn fun o => BitVec.ofNat 4 o.val
  secondaryNow := Vector.replicate 8 0xF
  pending := false
  lines := Vector.replicate 4 none
  zin := Vector.replicate 64 0

/-- An ADC at reset (Table 6-5). -/
def adcReset : Adc where
  ctrl := 0
  urg := 0
  refSel := 0
  force := false
  refRdy := false
  state := .disabled
  entry := 0
  done := 0
  taken := 0
  acc := 0
  clip := false
  unsettled := false
  shift := false
  late := false
  width := 0
  heldStart := false
  urgPend := false
  urgCut := false
  cls := .user
  displaced := false
  pipe := []
  queue := []
  fullArmed := true
  wev := false
  tag := 0
  urgDrop := 0
  startMiss := 0
  lost := 0
  startLate := 0
  winCnt := 0
  events := 0
  entCfg := Vector.replicate 16 0
  entWin := Vector.replicate 16 0x1FFF2000
  inside := Vector.replicate 16 none

/-- A timer at reset (Table 6-6). -/
def timerReset : Timer where
  en := false
  mode := false
  period := 0
  offset := 0
  cls := .user
  displaced := false
  fired := false
  saved := none

/-- A waveform DAC at reset (Table 7-3). -/
def wdacReset : Wdac where
  ctrl := 0
  div := 1
  static := 0
  state := .stopped
  cls := .user
  displaced := false
  last := 0
  underrun := 0
  overflow := 0
  startMiss := 0
  startLate := 0
  events := 0
  queue := []
  ring := 0x3FF
  ringIdx := 0
  ftw := 0
  phase0 := 0
  phase := 0
  amp := 0x7FFF
  tblAddr := 0
  table := []
  underrunSeen := false
  stopPend := false
  heldStart := false
  cmdStart := false
  saved := none
  claim := none
  lag := []

/-- The CAL engine at reset: neutral coefficients (Table 8-4, R150). -/
def calReset : Cal where
  gapCfg := 0x0020000C
  limits := 0x00102010
  events := 0
  steps := 0
  aborts := 0
  jobs := Vector.replicate 16 none
  coefs := []
  pending := []
  windows := Vector.replicate 32 { type := 0, index := 0, addr := 0, staged := [] }

/-- A memory block at reset; its image fields have no reset value of their own (log 5). -/
def memReset : MemBlock where
  shape := 0
  mode := 0
  window := false
  scrub := false
  decim := 0
  af := 0
  ae := 0
  depth := 0
  decimNow := 0
  afNow := 0
  aeNow := 0
  depthNow := 0
  level := 0
  head := 0
  corr := 0
  uncorr := 0
  overflow := 0
  underflow := 0
  collide := 0
  lbReject := 0
  errAddr := 0
  errValid := false
  errors := []
  wrote := []
  outA := { data := 0, err := false }
  outB := { data := 0, err := false }
  valid := false
  last := false
  reject := false
  rejectNext := false
  quiet := 0
  running := none
  waiting := none
  scrubPos := 0
  heldUntil := 0

/-- A digital bay at reset (Tables 9-6, 10-5, 11-4). -/
def dbayReset : DBay where
  gsrLoad := false
  gsrReset := false
  gsrHold := false
  gsrRepair := false
  resetDue := false
  untimed := false
  uclk := false
  slackFail := false
  events := 0
  resetCnt := 0
  cfg := .empty
  cause := 0
  source := 0
  frame := 0
  frames := []
  design := 0
  corr := 0
  uncorr := 0
  loads := 0
  cfgEvents := 0
  faultAction := false
  memEvents := 0
  mems := Vector.replicate 4 memReset
  peep := Vector.replicate 2 0
  peepNow := Vector.replicate 2 0
  outPorts := 0
  corrected := []

/-- The lintel crossbar at reset: every destination selects 0xFFF (R168). -/
def linReset : Lin where
  active := []
  out := []
  pipe := []
  lines := Vector.replicate 17 { now := false, was := false, width := 0 }
  staged := []
  pending := []
  waits := []
  events := 0
  offSrc := 0xFFF

/-- The probe bus at reset (Table 10-6). -/
def prbReset : Prb where
  sel := Vector.replicate 8 0
  aux := 0
  trig := 0
  pre := 0
  pattern := 0
  mask := 0
  et := 0
  state := 0
  trigEt := 0
  data := []
  recent := Vector.replicate 4 0
  events := 0

/-- The configuration store as manufactured: no slot holds an image (log 9). -/
def cfgReset : Cfg where
  holder := none
  buf := []
  valid := false
  slots := Vector.replicate 32 none
  areas := Vector.replicate 34 { data := [], erased := true, erases := 0 }
  job := none
  queue := []
  running := none
  scrubPos := 0
  pass := 0

/-- The repair engine at reset: A8, D16 and D17 are spares (R221). -/
def repReset : Rep where
  spares := 0x6000100
  loans := 0
  retired := 0
  events := 0
  slots := Vector.replicate 3 none
  ended := Vector.replicate 3 none

/-- A virtual channel at reset (Table 14-5). -/
def vcReset : VcState where
  nextSeq := 0
  replay := []
  cursor := 0
  snakAck := 0x3FF
  snak := 0
  resend := []
  e := 0x3FF
  ackv := false
  reorder := []
  consumer := .none
  partialPkt := []
  fwd := []
  snakSeen := false
  orqLeaving := 0
  orqHidden := 0
  fwdLeaving := 0
  fwdHidden := 0
  released := 0
  replayLeaving := 0
  replayHidden := 0
  reorderLeaving := 0
  reorderHidden := 0

def latReset : LatRec := { flight := 0, depth := 0, skew := 0, valid := false }

/-- A link port at reset: enabled (R256, Tables 13-7, 14-5). -/
def portReset : Port where
  en := true
  state := .disabled
  lockLost := false
  lockHold := 0
  latShift := false
  offTarget := false
  synthLock := false
  cause := 0
  session := 0
  latTarget := 10
  downTime := 1024
  swing := 4
  emph := 2
  swingNow := 4
  emphNow := 2
  txEn := false
  syncSel := 0
  gapSel := 0
  events := 0
  recd := latReset
  now := latReset
  latency := 0
  phi := 0
  codeErr := 0
  segCrc := 0
  lockLoss := 0
  downs := 0
  partner := { valid := false, node := 0, port := 0, type := 0, die := 0, serial := 0 }
  partnerNew := false
  lanes := Vector.replicate 4 { phase := 0, slip := 0, offset := 0, lock := false, disparity := false }
  samples := []
  arrival := 0
  block := none
  badBlocks := 0
  sessionHeld := false
  keptSent := false
  newSession := false
  nextSession := 0
  mark := 0
  echo := 0
  echoAt := none
  rxSeg := List.replicate 13 0
  rxValid := false
  rxSync := false
  rxSyncWas := false
  rxGap := false
  rxGapWas := false
  txUser := 0
  txSeg := List.replicate 15 0
  txSuper := false
  txTrain := false
  txFlit := []
  txLanes := Vector.replicate 4 []
  avcRsp := false
  frames := 0
  req := vcReset
  rsp := vcReset
  timeout := 256
  flitCrc := 0
  sessionErr := 0
  retx := 0
  timeouts := 0
  dup := 0
  format := 0
  torn := 0
  withdrawn := 0
  noroute := 0
  rcEvents := 0
  enabling := []
  orqReq := []
  orqRsp := []
  reservedReq := 0
  reservedRsp := 0
  peakReq := 0
  peakRsp := 0

/-- Requester k at reset: CLASS 1, or 2 from the keeper on; DEADLINE 1,000; SRCNUM k (Table 15-6). -/
def requesterReset (k : Fin 32) : Requester where
  cls := if k.val < 27 then 1 else 2
  deadline := 1000
  dest := 0
  srcnum := BitVec.ofNat 5 k.val
  waiting := none
  dl := 0
  tornNext := false
  refusedNext := false
  tornOut := false
  refusedOut := false
  torn := 0
  late := 0
  noroute := 0
  dropped := 0

/-- The readout arbiter at reset (Table 15-6). -/
def arbReset : Arb where
  bubbleMax := 2
  events := 0
  reqs := Vector.ofFn requesterReset
  holder := none
  next := none
  cut := none
  lastHolder := 0
  suspects := 0
  stampCount := 0
  nextRseq := Vector.replicate 32 0
  skipped := Vector.replicate 32 0
  lostAll := Vector.replicate 32 false
  streams := Vector.replicate 9 []

/-- A ledger segment as manufactured: superblock and log segments fixed, one open, the rest free (R307). -/
def segmentReset (i : Fin 256) : Segment where
  state := if i.val < 6 then .fixed else if i.val = 6 then .live else .free
  used := 0
  writes := 0
  liveRecords := 0

/-- The ledger as manufactured (R314, Table 16-8). -/
def ldgReset : Ledger where
  state := 0
  entries := []
  floors := Vector.replicate 32 0
  useCount := 0
  segs := Vector.ofFn segmentReset
  openSeg := 6
  last := none
  ceil := Vector.replicate 32 4096
  ceilRec := Vector.replicate 32 none
  fixed := Vector.ofFn fun k => Fin.castLE (by decide) k
  superCopy := 0
  superDue := false
  snapshot := some { next := Vector.replicate 32 0, low := Vector.replicate 32 0, fwd := Vector.replicate 4 0 }
  deferred := []
  reruns := []
  accepted := 0
  rejected := 0
  repeats := 0
  poisoned := 0
  discarded := 0
  committed := 0
  rerun := 0
  interrupted := 0
  timeMs := 0
  events := 0

/-- The event log as manufactured: the first record has LSEQ 1 (R318). -/
def logReset : Log where
  next := 1
  ring := []
  waiting := []
  lost := 0
  lostBefore := false
  hwq := []
  hwLost := false
  rates := []
  subs := Vector.replicate 32 { node := 0, en := false, pseq := 0 }
  unverified := []
  kprEvents := 0
  rsCorr := 0
  rsUncorr := 0

/-- Partitions as manufactured: P0 owns everything, epoch 1, quotas 4 and 256 (R324, R326). -/
def partReset : Part where
  epoch := 1
  own := []
  loss := Vector.replicate 32 0
  quota := Vector.replicate 32 { min := 4, max := 256, auth := false }
  changes := []
  drains := []
  events := 0
  tableBlock := 0
  tableWrites := Vector.replicate 8 0

/-- Key slots as manufactured: empty, generation 0 (R333). -/
def keysReset : Keys where
  slots := Vector.replicate 32 { present := false, gen := 0, gens := [], kcv := 0, badMac := 0, writes := 0 }
  jobs := []
  events := 0
  blocks := Vector.replicate 2 { erased := true, copies := [], erases := 0 }
  active := 0

/-- The CAN block at reset (Table 18-4). TERM follows GA at the latch (R342). -/
def canReset : Can where
  en := true
  term := false
  brsEn := true
  retryMax := 64
  enNow := true
  termNow := false
  brsNow := true
  alone := false
  errPassive := false
  busOff := false
  dup := false
  tec := 0
  recErr := 0
  busOffs := 0
  txFrames := 0
  rxFrames := 0
  segErr := 0
  dropped := 0
  abandoned := 0
  discarded := 0
  events := 0
  rx := []
  txq := []
  frame := 0
  attempts := 0
  waiting := []
  delayed := []
  announceAtLatch := false
  resetFlag := false
  started := none
  sent := none

def fwSlotReset (factory : Bool) : FwSlot where
  state := if factory then .valid else .empty
  worn := false
  header := []
  body := []
  factory := factory
  corrupted := false
  erases := Vector.replicate 64 0

/-- Firmware as manufactured: slot A boots, floor 0 (log 10). -/
def fwReset : Fw where
  slots := #v[fwSlotReset true, fwSlotReset false]
  active := 0
  trial := false
  tries := 0
  stored := none
  recovery := false
  lastStart := 0
  floor := 0
  confirmTime := 600
  confirmLeft := 0
  events := 0
  erasing := []
  verifying := []
  switching := none
  switched := none
  rollback := none
  fallback := false

/-- Injection at reset: closed (R377). -/
def injReset : Inj where
  enable := false
  lapsed := false
  expiry := 0
  armed := Vector.replicate 16 none
  held := []
  carry := []
  real := []
  injected := []
  events := 0

/-- The machine right after reset. -/
def State.reset : State where
  clk := clkReset
  node := nodeReset
  pwr := pwrReset
  sash := sashReset
  abays := Vector.replicate 9 abayReset
  xbar := xbarReset
  adcs := Vector.replicate 18 adcReset
  timers := Vector.replicate 16 timerReset
  tmrEvents := 0
  groups := Vector.replicate 8 { mask := 0, ctrl := 0, miss := 0 }
  vrefIn := false
  adcStarts := []
  wdacs := Vector.replicate 8 wdacReset
  wdacWaits := []
  cal := calReset
  dbays := Vector.replicate 18 dbayReset
  lin := linReset
  mem := []
  io := Vector.replicate 24 { ctrl := 0, ctrlNow := 0, sample := false, pin := false, drive := none }
  prb := prbReset
  cfg := cfgReset
  rep := repReset
  ports := Vector.replicate 4 portReset
  routes := []
  arb := arbReset
  ldg := ldgReset
  log := logReset
  part := partReset
  keys := keysReset
  can := canReset
  fw := fwReset
  inj := injReset
  keeperIn := []
  keeperOut := []
  unstarted := []
  resuming := false
  taken := false
  snaps := []
  staged := []
  ck := 0
  freeCtr := 0
  acc := (0, 0)
  pending := []

end Sys2Proof.Machine
end

