-- ==== Sys2Proof/Machine/Events.lean ====
section
/-!
DEFINITION. The events: each with its CODE (Table 20-5 base plus its position in its chapter's touch list, R374) and its
latched bit.
-/
namespace Sys2Proof.Machine

/-- Where an event's latched bit lies. -/
inductive EvBlock where
  | none
  | clk
  | pwr
  | sash
  | abay
  | adc
  | tmr
  | wdac
  | cal
  | dbay
  | dbayMem
  | dbayCfg
  | lin
  | prb
  | rep
  | lnk
  | lnkRc
  | arb
  | ldg
  | part
  | key
  | can
  | fw
  | inj
  | kpr
deriving DecidableEq, Repr

/-- An event: its CODE, the block of its latched bit, and that bit's position (the first, where it is per unit). -/
structure Ev where
  code : Byte
  block : EvBlock
  pos : Nat
deriving DecidableEq, Repr

def Ev.refLost : Ev := ⟨0x0C, .clk, 0⟩
def Ev.pllLocked : Ev := ⟨0x0D, .clk, 1⟩
def Ev.etLoaded : Ev := ⟨0x0E, .clk, 2⟩
def Ev.etSlip : Ev := ⟨0x0F, .clk, 3⟩
def Ev.syncIgnored : Ev := ⟨0x10, .clk, 4⟩
def Ev.gapSourceChanged : Ev := ⟨0x11, .clk, 5⟩
def Ev.addrInvalid : Ev := ⟨0x18, .none, 0⟩
def Ev.addrChanged : Ev := ⟨0x19, .none, 0⟩
def Ev.pwrTrip : Ev := ⟨0x24, .pwr, 0⟩
def Ev.stateMismatch : Ev := ⟨0x25, .pwr, 1⟩
def Ev.thermWarn : Ev := ⟨0x26, .pwr, 2⟩
def Ev.thermNvDefer : Ev := ⟨0x27, .pwr, 3⟩
def Ev.thermNvResume : Ev := ⟨0x28, .pwr, 4⟩
def Ev.powerFail : Ev := ⟨0x29, .none, 0⟩
def Ev.resetReport : Ev := ⟨0x2A, .none, 0⟩
def Ev.safeReached : Ev := ⟨0x2B, .pwr, 5⟩
def Ev.sashPresent : Ev := ⟨0x30, .sash, 0⟩
def Ev.sashRemoved : Ev := ⟨0x31, .sash, 1⟩
def Ev.sashIdFault : Ev := ⟨0x32, .sash, 2⟩
def Ev.sashTypeMismatch : Ev := ⟨0x33, .sash, 3⟩
def Ev.sashBiasSettled : Ev := ⟨0x34, .sash, 4⟩
def Ev.sashLifeFrozen : Ev := ⟨0x35, .sash, 5⟩
def Ev.sashMatingLimit : Ev := ⟨0x36, .sash, 6⟩
def Ev.abayOverload : Ev := ⟨0x3C, .abay, 0⟩
def Ev.asbPreempted : Ev := ⟨0x3D, .abay, 1⟩
def Ev.adcWindow : Ev := ⟨0x48, .adc, 0⟩
def Ev.adcQueueFull : Ev := ⟨0x49, .adc, 1⟩
def Ev.adcPreempted : Ev := ⟨0x4A, .adc, 2⟩
def Ev.adcReleased : Ev := ⟨0x4B, .adc, 3⟩
def Ev.tmrPreempted : Ev := ⟨0x4C, .tmr, 0⟩
def Ev.tmrReleased : Ev := ⟨0x4D, .tmr, 16⟩
def Ev.wdacUnderrun : Ev := ⟨0x54, .wdac, 0⟩
def Ev.wdacPreempted : Ev := ⟨0x55, .wdac, 1⟩
def Ev.wdacReleased : Ev := ⟨0x56, .wdac, 2⟩
def Ev.calBegin : Ev := ⟨0x60, .cal, 0⟩
def Ev.calEnd : Ev := ⟨0x61, .cal, 1⟩
def Ev.calDrift : Ev := ⟨0x62, .cal, 2⟩
def Ev.selftestFail : Ev := ⟨0x63, .cal, 3⟩
def Ev.fabUntimed : Ev := ⟨0x6C, .dbay, 0⟩
def Ev.linSrcOff : Ev := ⟨0x6D, .lin, 0⟩
def Ev.memCorr : Ev := ⟨0x78, .dbayMem, 0⟩
def Ev.memUncorr : Ev := ⟨0x79, .dbayMem, 4⟩
def Ev.prbCaptured : Ev := ⟨0x7A, .prb, 0⟩
def Ev.cfgCorr : Ev := ⟨0x84, .dbayCfg, 0⟩
def Ev.cfgUncorr : Ev := ⟨0x85, .dbayCfg, 1⟩
def Ev.cfgStuck : Ev := ⟨0x86, .dbayCfg, 2⟩
def Ev.cfgLoaded : Ev := ⟨0x87, .dbayCfg, 3⟩
def Ev.cfgLoadFail : Ev := ⟨0x88, .dbayCfg, 4⟩
def Ev.repReady : Ev := ⟨0x90, .rep, 0⟩
def Ev.repMismatch : Ev := ⟨0x91, .rep, 1⟩
def Ev.repCutOver : Ev := ⟨0x92, .rep, 2⟩
def Ev.repRecordsLost : Ev := ⟨0x93, .rep, 3⟩
def Ev.loanRecalled : Ev := ⟨0x94, .rep, 4⟩
def Ev.lnkUp : Ev := ⟨0x9C, .lnk, 0⟩
def Ev.lnkDown : Ev := ⟨0x9D, .lnk, 1⟩
def Ev.lnkLockLost : Ev := ⟨0x9E, .lnk, 2⟩
def Ev.lnkLockRestored : Ev := ⟨0x9F, .lnk, 3⟩
def Ev.lnkLatShift : Ev := ⟨0xA0, .lnk, 4⟩
def Ev.lnkFlightChanged : Ev := ⟨0xA1, .lnk, 5⟩
def Ev.lnkPartnerNew : Ev := ⟨0xA2, .lnk, 6⟩
def Ev.lnkSessionNew : Ev := ⟨0xA3, .lnk, 7⟩
def Ev.lnkRefused : Ev := ⟨0xA4, .lnk, 8⟩
def Ev.lnkRcTimeout : Ev := ⟨0xA8, .lnkRc, 0⟩
def Ev.lnkFwdTorn : Ev := ⟨0xA9, .lnkRc, 1⟩
def Ev.lnkWithdrawn : Ev := ⟨0xAA, .lnkRc, 2⟩
def Ev.lnkNoRoute : Ev := ⟨0xAB, .lnkRc, 3⟩
def Ev.arbTorn : Ev := ⟨0xB4, .arb, 0⟩
def Ev.arbLate : Ev := ⟨0xB5, .arb, 1⟩
def Ev.arbNoroute : Ev := ⟨0xB6, .arb, 2⟩
def Ev.arbStreamDrop : Ev := ⟨0xB7, .arb, 3⟩
def Ev.ldgSegRetired : Ev := ⟨0xC0, .ldg, 0⟩
def Ev.ldgFull : Ev := ⟨0xC1, .ldg, 1⟩
def Ev.ldgRecovered : Ev := ⟨0xC2, .ldg, 2⟩
def Ev.ldgFwdLost : Ev := ⟨0xC3, .ldg, 3⟩
def Ev.partRevoked : Ev := ⟨0xCC, .part, 0⟩
def Ev.partDrained : Ev := ⟨0xCD, .part, 1⟩
def Ev.authFail : Ev := ⟨0xCE, .part, 2⟩
def Ev.keyWritten : Ev := ⟨0xCF, .key, 0⟩
def Ev.keyErased : Ev := ⟨0xD0, .key, 1⟩
def Ev.canAlone : Ev := ⟨0xD8, .can, 0⟩
def Ev.canJoined : Ev := ⟨0xD9, .can, 1⟩
def Ev.canBusOff : Ev := ⟨0xDA, .can, 2⟩
def Ev.canAddrDup : Ev := ⟨0xDB, .can, 3⟩
def Ev.fwSwitched : Ev := ⟨0xE4, .fw, 0⟩
def Ev.fwConfirmed : Ev := ⟨0xE5, .fw, 1⟩
def Ev.fwRollback : Ev := ⟨0xE6, .fw, 2⟩
def Ev.fwSlotWorn : Ev := ⟨0xE7, .fw, 3⟩
def Ev.fwBootFallback : Ev := ⟨0xE8, .fw, 4⟩
def Ev.injEnabled : Ev := ⟨0xF0, .inj, 0⟩
def Ev.injDisabled : Ev := ⟨0xF1, .inj, 1⟩
def Ev.rsramCorr : Ev := ⟨0xF2, .kpr, 0⟩
def Ev.rsramUncorr : Ev := ⟨0xF3, .kpr, 1⟩

/-- Change one analogue bay, ADC, timer, waveform DAC, digital bay or port. -/
def State.onAbay (s : State) (a : Fin 9) (f : ABay → ABay) : State := { s with abays := upd s.abays a f }
def State.onAdc (s : State) (n : Fin 18) (f : Adc → Adc) : State := { s with adcs := upd s.adcs n f }
def State.onTimer (s : State) (t : Fin 16) (f : Timer → Timer) : State := { s with timers := upd s.timers t f }
def State.onWdac (s : State) (n : Fin 8) (f : Wdac → Wdac) : State := { s with wdacs := upd s.wdacs n f }
def State.onDbay (s : State) (d : Fin 18) (f : DBay → DBay) : State := { s with dbays := upd s.dbays d f }
def State.onPort (s : State) (p : Fin 4) (f : Port → Port) : State := { s with ports := upd s.ports p f }
def State.onReq (s : State) (k : Fin 32) (f : Requester → Requester) : State :=
  { s with arb := { s.arb with reqs := upd s.arb.reqs k f } }
def State.onMem (s : State) (d : Fin 18) (m : Fin 4) (f : MemBlock → MemBlock) : State :=
  s.onDbay d fun b => { b with mems := upd b.mems m f }
def State.onSlot (s : State) (a : Fin 9) (k : Fin 8) (f : Slot → Slot) : State :=
  s.onAbay a fun b => { b with slots := upd b.slots k f }
def State.onDom (s : State) (i : Fin 32) (f : Dom → Dom) : State :=
  { s with pwr := { s.pwr with doms := upd s.pwr.doms i f } }

/-- Change the latched event register of a block; `inst` names the bay, ADC, DAC or port. -/
def State.onLatch (s : State) (b : EvBlock) (inst : Nat) (f : Word → Word) : State :=
  match b with
  | .none => s
  | .clk => { s with clk := { s.clk with events := f s.clk.events } }
  | .pwr => { s with pwr := { s.pwr with events := f s.pwr.events } }
  | .sash => { s with sash := { s.sash with events := f s.sash.events } }
  | .abay => match fin inst with
    | some a => s.onAbay a fun x => { x with events := f x.events }
    | none => s
  | .adc => match fin inst with
    | some n => s.onAdc n fun x => { x with events := f x.events }
    | none => s
  | .tmr => { s with tmrEvents := f s.tmrEvents }
  | .wdac => match fin inst with
    | some n => s.onWdac n fun x => { x with events := f x.events }
    | none => s
  | .cal => { s with cal := { s.cal with events := f s.cal.events } }
  | .dbay => match fin inst with
    | some d => s.onDbay d fun x => { x with events := f x.events }
    | none => s
  | .dbayMem => match fin inst with
    | some d => s.onDbay d fun x => { x with memEvents := f x.memEvents }
    | none => s
  | .dbayCfg => match fin inst with
    | some d => s.onDbay d fun x => { x with cfgEvents := f x.cfgEvents }
    | none => s
  | .lin => { s with lin := { s.lin with events := f s.lin.events } }
  | .prb => { s with prb := { s.prb with events := f s.prb.events } }
  | .rep => { s with rep := { s.rep with events := f s.rep.events } }
  | .lnk => match fin inst with
    | some p => s.onPort p fun x => { x with events := f x.events }
    | none => s
  | .lnkRc => match fin inst with
    | some p => s.onPort p fun x => { x with rcEvents := f x.rcEvents }
    | none => s
  | .arb => { s with arb := { s.arb with events := f s.arb.events } }
  | .ldg => { s with ldg := { s.ldg with events := f s.ldg.events } }
  | .part => { s with part := { s.part with events := f s.part.events } }
  | .key => { s with keys := { s.keys with events := f s.keys.events } }
  | .can => { s with can := { s.can with events := f s.can.events } }
  | .fw => { s with fw := { s.fw with events := f s.fw.events } }
  | .inj => { s with inj := { s.inj with events := f s.inj.events } }
  | .kpr => { s with log := { s.log with kprEvents := f s.log.kprEvents } }

end Sys2Proof.Machine
end

