-- ==== Sys2Proof/Machine/Ops.lean ====
section
/-!
DEFINITION. The named operations that every chapter shares: free values, ownership, domain state, events and the event
log (R317 to R320, R408), packets and their MAC (R296 to R298), responses (R302, R347), ledger records (R306 to R311),
and the firing of detectors and injections (R375 to R380).
-/
namespace Sys2Proof.Machine

/-- The outcome of a command. -/
abbrev Outcome := Host.Outcome State Fault Refusal

/-- Apply a change of state for each member of a list. -/
def State.each {α : Type} (s : State) (xs : List α) (f : State → α → State) : State := xs.foldl f s

/-! ### Free values -/

/-- The next free value, drawn with the model's counter (log 7). -/
def State.draw (s : State) : Word × State := (Config.freeWord s.freeCtr, { s with freeCtr := s.freeCtr + 1 })

/-- Whether a flash program that no row reports fails verification twice: a free value (log 149). -/
def State.drawFlash (s : State) : Bool × State := (Config.flashFails s.freeCtr, { s with freeCtr := s.freeCtr + 1 })

/-! ### The non-volatile write bar (R62, R63) -/

/-- A write may end: NVW_DEFER is clear, or the write was under way when it was set. -/
def State.mayWrite (s : State) (w : NvWrite) : Bool := !s.pwr.nvwDefer || s.pwr.underway.contains w

/-- A write has ended. -/
def State.endWrite (s : State) (w : NvWrite) : State := { s with pwr := { s.pwr with underway := s.pwr.underway.filter (· ≠ w) } }

/-- A gap opens at this boundary (R27). -/
def State.gapOpens (s : State) : Bool := s.clk.gap && s.clk.gapStart == s.ck

/-! ### Where the module stands -/

/-- The hardware behind the 12 V switch runs: clock, fabric, links. -/
def State.hw (s : State) : Bool := s.pwr.phase == .booting || s.pwr.phase == .running || s.pwr.phase == .silent

/-- The keeper runs: its firmware, or the boot ROM in RECOVERY. -/
def State.kpr (s : State) : Bool := s.pwr.phase == .running

/-- The keeper does more than the slow-control bus, which is all that the boot ROM runs in RECOVERY (R366). -/
def State.serves (s : State) : Bool := s.kpr && !s.fw.recovery

/-- The state of domain `i` (Table 3-1: 0 to 8 analogue, 9 to 26 digital, 27 to 30 links, 31 sash bias). -/
def State.dom (s : State) (i : Fin 32) : Dom := s.pwr.doms[i]

def domOfA (a : Fin 9) : Fin 32 := ⟨a.val, by omega⟩
def domOfD (d : Fin 18) : Fin 32 := ⟨9 + d.val, by omega⟩
def domOfL (p : Fin 4) : Fin 32 := ⟨27 + p.val, by omega⟩
def domSB : Fin 32 := 31

/-- The analogue bay of ADC n. -/
def bayOfAdc (n : Fin 18) : Fin 9 := ⟨n.val / 2, by omega⟩

/-- The domain is ON per the sequencer (R52). -/
def State.isOn (s : State) (i : Fin 32) : Bool := (s.dom i).state == .on

/-- The domain is SUSPECT (R58). -/
def State.isSuspect (s : State) (i : Fin 32) : Bool := testBit s.pwr.suspect i.val

/-- The domain drains and is not yet isolated (R54). -/
def State.draining (s : State) (i : Fin 32) : Bool := (s.dom i).state == .draining && !(s.dom i).isolated

/-- The digital bay is in global set-reset. A bay without an image is held in it (R175, log 20), once isolation has ended
what its requester sends (R54). -/
def State.gsr (s : State) (d : Fin 18) : Bool :=
  let b := s.dbays[d]
  b.gsrLoad || b.gsrReset || b.gsrHold || b.gsrRepair || (b.cfg == .empty && !s.draining (domOfD d))

/-! ### Ownership (R322) -/

/-- Whether Table 17-1 lists a resource code. -/
def codeListed (c : Nat) : Bool :=
  c < 9 || (0x10 ≤ c && c < 0x22) || (0x30 ≤ c && c < 0x38) || (0x40 ≤ c && c < 0x52) || (0x60 ≤ c && c < 0x68) ||
  (0x70 ≤ c && c < 0x88) || (0x90 ≤ c && c < 0xA0) || (0xA0 ≤ c && c < 0xB0) || c = 0xC0 || c = 0xC1 ||
  (0x100 ≤ c && c < 0x180 && c % 16 < 12) || (0x200 ≤ c && c < 0x340)

/-- The entry of the ownership table for a code; P0 owns what has not been granted. -/
def ownDefault : Own := { owner := 0, draining := false, lent := false }
def State.ownOf (s : State) (c : Nat) : Own := look ownDefault s.part.own c

/-- Partition `p` owns the resource. -/
def State.owns (s : State) (p : Fin 32) (c : Nat) : Bool := (s.ownOf c).owner == p

/-- Set an entry of the ownership table. -/
def State.setOwn (s : State) (c : Nat) (o : Own) : State :=
  { s with part := { s.part with own := store ownDefault s.part.own c o } }

/-- The resource code that owns a domain (Table 3-1); the link domains stay with P0. -/
def domCode (i : Fin 32) : Option Nat :=
  if i.val < 9 then some i.val else if i.val < 27 then some (0x10 + (i.val - 9)) else if i.val < 31 then none
  else some 0xC0

/-- The owner of a domain. -/
def State.domOwner (s : State) (i : Fin 32) : Fin 32 :=
  match domCode i with
  | some c => (s.ownOf c).owner
  | none => 0

/-- Commands in flight of a partition (R324). -/
def State.inFlight (s : State) (p : Fin 32) : Nat :=
  (s.ldg.entries.filter fun e => e.part == p && e.result.isNone).length

/-- All commands in flight. -/
def State.allInFlight (s : State) : Nat := (s.ldg.entries.filter fun e => e.result.isNone).length

/-- Pool slots not in use (R324); 0 while the pool is overdrawn. -/
def State.poolFree (s : State) : Nat :=
  let mins := (List.finRange 32).foldl (fun n p => n + s.part.quota[p].min) 0
  let used := (List.finRange 32).foldl (fun n p => n + (s.inFlight p - s.part.quota[p].min)) 0
  (256 - mins) - used

/-! ### Keys (R333, R334) -/

/-- The key of generation `g` of slot `p`, if held. -/
def State.keyGen (s : State) (p : Fin 32) (g : Half) : Option (List Byte) :=
  (s.keys.slots[p].gens.find? fun x => x.gen == g).map (·.key)

/-- The current generation of slot `p` and its key; none when the slot is empty. -/
def State.currentKey (s : State) (p : Fin 32) : Option (Half × List Byte) :=
  let k := s.keys.slots[p]
  if k.present then (s.keyGen p k.gen).map fun key => (k.gen, key) else none

/-- The key for a response: the generation of the check if still held, else the current one (R334). -/
def State.replyKey (s : State) (p : Fin 32) (g : Half) : Option (List Byte) :=
  match s.keyGen p g with
  | some k => some k
  | none => (s.currentKey p).map (·.2)

/-- Wipe old generations that hold no lease (R335). -/
def wipe (k : KeySlot) : KeySlot :=
  { k with gens := k.gens.filter fun g => (k.present && g.gen == k.gen) || !g.leases.isEmpty }

/-- A generation is leased. -/
def State.leased (s : State) (c : KeyCopy) : Bool :=
  s.keys.slots[c.slot].gens.any fun g => g.gen == c.gen && !g.leases.isEmpty

/-- The old block is erased once no lease remains on a generation that it alone holds, so that a wiped generation leaves
flash too (R335, R338); no erase starts under NVW_DEFER or while the keeper does not run (R62, R66). -/
def State.eraseOldKeys (s : State) : State :=
  let old : Fin 2 := s.keys.active + 1
  let b := s.keys.blocks[old]
  let alone := b.copies.filter fun c => !s.keys.blocks[s.keys.active].copies.contains c
  if b.erased || s.pwr.nvwDefer || !s.serves || alone.any s.leased then s
  else { s with keys := { s.keys with blocks := upd s.keys.blocks old fun x => { erased := true, copies := [], erases := x.erases + 1 } } }

/-- Take or end the lease of a command. -/
def State.lease (s : State) (p : Fin 32) (g : Half) (c : CmdRef) : State :=
  let take (k : KeySlot) : KeySlot :=
    { k with gens := k.gens.map fun x => if x.gen = g then { x with leases := x.leases ++ [{ cmd := c, taken := s.ck }] } else x }
  { s with keys := { s.keys with slots := upd s.keys.slots p take } }
def State.unlease (s : State) (c : CmdRef) : State :=
  let free (k : KeySlot) : KeySlot :=
    wipe { k with gens := k.gens.map fun x => { x with leases := x.leases.filter fun l => l.cmd ≠ c } }
  ({ s with keys := { s.keys with slots := upd s.keys.slots c.part free } } : State).eraseOldKeys

/-! ### Packets (R296 to R298) -/

/-- The path is the slow-control bus. -/
def Path.isCan : Sys2Proof.Path → Bool
  | .can _ => true
  | .link _ => false

/-- A packet's header bytes (Table 16-1). -/
def headerBytes (dest src : Half) (part : Fin 32) (kind : Nat) (op flags status : Byte) (id epoch : Word)
    (plen seg : Nat) (more : Bool) : List Byte :=
  le 2 dest ++ le 2 src ++ [BitVec.ofNat 8 (part.val + 32 * kind), op, flags, status] ++ le 4 id ++ le 4 epoch ++
    bytesOf 2 plen ++ [BitVec.ofNat 8 (seg + if more then 16 else 0), 0]

/-- Split a body into segments of at most `n` bytes, at most `k` of them, with their numbers. -/
def segments : Nat → Nat → Nat → List Byte → List (Nat × Bool × List Byte)
  | 0, _, _, _ => []
  | k + 1, n, i, bs =>
    if bs.length ≤ n then [(i, false, bs)] else (i, true, bs.take n) :: segments k n (i + 1) (bs.drop n)

/-- The packets of a response: at most four segments, each with its own header and MAC (R298). -/
def responsePackets (node src : Half) (part : Fin 32) (op flags status : Byte) (id epoch : Word)
    (key : Option (List Byte)) (body : List Byte) : List (List Byte) :=
  (segments 4 (if key.isSome then 476 else 492) 0 body).map fun x =>
    let m := headerBytes src node part 1 op flags status id epoch x.2.2.length x.1 x.2.1 ++ x.2.2
    match key with
    | some k => m ++ packetMac k m
    | none => m

/-- Routing entry number for a destination (R269). -/
def routeEntry (node dest : Half) : Nat :=
  if bits dest 8 8 = bits node 8 8 then 256 + (bits dest 0 6).toNat else (bits dest 8 8).toNat

/-- The enabled route to a destination: its port. -/
def State.route (s : State) (dest : Half) : Option (Fin 4) :=
  let e := look 0 s.routes (routeEntry s.node.addr dest)
  if testBit e 2 then some (bits e 0 2).toFin else none

/-! ### The slow-control bus's transmit queue (R343, R347) -/

/-- The module's GA for identifiers: 0x3F while the address is not valid. -/
def State.canGa (s : State) : BitVec 6 := if s.node.valid then bits s.node.addr 0 6 else 0x3F

/-- An identifier (Table 18-2). -/
def canId (cls : BitVec 3) (ga : BitVec 6) (ch : BitVec 2) : BitVec 11 := cls ++ ga ++ ch

/-- Queue a response: it waits for room (R347). -/
def State.canRespond (s : State) (p : CanPacket) : State :=
  if s.can.txq.length < 8 && s.can.waiting.isEmpty then { s with can := { s.can with txq := s.can.txq ++ [p] } }
  else { s with can := { s.can with waiting := s.can.waiting ++ [p] } }

/-- Queue an event: it is dropped when the queue is full (R347). -/
def State.canEvent (s : State) (p : CanPacket) : State :=
  if s.can.txq.length < 8 then { s with can := { s.can with txq := s.can.txq ++ [p] } }
  else { s with can := { s.can with dropped := satInc s.can.dropped } }

/-- Send response packets by the path on which the command arrived (R347). -/
def State.sendOn (s : State) (path : Path) (packets : List (List Byte)) : State :=
  match path with
  | .link _ =>
    { s with keeperOut := s.keeperOut ++ packets.map fun b => { kind := .darem, bytes := b, poison := [], source := none } }
  | .can ch =>
    packets.foldl (fun s b => s.canRespond { id := canId 1 s.canGa (BitVec.ofFin ch), raw := false, bytes := b }) s

/-! ### Events (R317 to R320, R408) -/

/-- How an event is limited: not at all; one record per unit and 250,000 CK with later occurrences in its REPEAT; the same
with one record for all units (R291, R294); the same with later occurrences in the next record's REPEAT (R122); one record
per unit and scrub pass (R217). -/
inductive Limit where
  | free
  | ms
  | msAny
  | msNext
  | pass (k : Nat)
deriving DecidableEq, Repr

/-- An occurrence of an event. `inst` selects the latched bit's block, `off` its bit beyond the event's position. -/
structure Occ where
  ev : Ev
  det : BitVec 10 := 0
  inst : Nat := 0
  off : Nat := 0
  unit : Byte := 0
  part : Fin 32 := 0
  args : List Byte := []
  flags : Byte := 0
  injected : Bool := false
  limit : Limit := .free
  /-- Further occurrences in the same cycle. -/
  more : Nat := 0
  /-- The marks of what it can follow from (R380). -/
  marks : List Nat := []

/-- The 16-byte event record (Table 16-5). -/
def recBytes (r : Rec) : List Byte :=
  le 6 r.et ++ le 2 (r.det.setWidth 16 ||| BitVec.ofNat 16 (r.part.val * 1024)) ++ [r.unit, r.code, r.flags, 0] ++ le 2 r.rep ++ le 2 r.arg0

/-- The event packet for a subscriber (R320); none when a MAC is due and no key is held (R297). -/
def State.eventPacket (s : State) (p : Fin 32) (node : Half) (r : Rec) (pseq : Half) (args : List Byte) :
    Option (List Byte) :=
  let body := recBytes r ++ le 2 pseq ++ args.take 32
  let auth := s.part.quota[p].auth
  let m := headerBytes node s.node.addr p 2 r.code (if auth then 1 else 0) 0 r.lseq s.part.epoch body.length 0 false ++ body
  if auth then (s.currentKey p).map fun k => m ++ packetMac k.2 m else some m

/-- The path of an event packet: an enabled route to the subscriber, else the slow-control bus (R320, R347). -/
def State.post (s : State) (node : Half) (b : List Byte) : State :=
  if (s.route node).isSome then
    { s with keeperOut := s.keeperOut ++ [{ kind := .darem, bytes := b, poison := [], source := none }] }
  else if s.can.en then s.canEvent { id := canId 3 s.canGa 0, raw := false, bytes := b }
  else s

/-- PSEQ of a partition's subscription advances with each event packet (R320). -/
def State.nextPseq (s : State) (p : Fin 32) : State :=
  { s with log := { s.log with subs := upd s.log.subs p fun x => { x with pseq := x.pseq + 1 } } }

/-- Send an event to one partition's subscription (R320, R347). -/
def State.sendEvent (s : State) (p : Fin 32) (r : Rec) (args : List Byte) : State :=
  if s.log.subs[p].en then
    match s.eventPacket p s.log.subs[p].node r (s.log.subs[p].pseq + 1) args with
    | none => s
    | some b => (s.nextPseq p).post s.log.subs[p].node b
  else s

/-- The LSEQ after `l`: LSEQ 0 is never given (R318). -/
def nextLseq (l : Word) : Word := if l = 0xFFFFFFFF then 1 else l + 1

/-- The segment of the log, 0 to 3, that holds a record (log 167). -/
def logSeg (l : Word) : Fin 4 := ⟨l.toNat / 256 % 4, by omega⟩

/-- A record is written to the log: its segment is to be verified. -/
def Log.written (x : Log) (l : Word) : Log :=
  { x with unverified := if x.unverified.contains (logSeg l) then x.unverified else x.unverified ++ [logSeg l] }

/-- Keep a record: in the ring, or in keeper memory while NVW_DEFER is set; a record beyond 64 there is lost (R318).
The second part is the record as it is sent: LSEQ 0 when lost. -/
def State.keepRec (s : State) (r : Rec) : Rec × State :=
  let flagged := if s.log.lostBefore then { r with flags := r.flags ||| 8, lseq := s.log.next } else { r with lseq := s.log.next }
  if s.pwr.nvwDefer then
    if s.log.waiting.length < 64 then
      (flagged, { s with log := { s.log with waiting := s.log.waiting ++ [flagged], next := nextLseq s.log.next, lostBefore := false } })
    else
      ({ r with lseq := 0 }, { s with log := { s.log with lost := satInc s.log.lost, lostBefore := true } })
  else
    let ring := s.log.ring ++ [flagged]
    (flagged, { s with log := { s.log.written flagged.lseq with
      ring := ring.drop (ring.length - 1024), next := nextLseq s.log.next, lostBefore := false } })

/-- Log a record and send it to the subscription of its PART and to P0's (R318, R320). -/
def State.logRec (s : State) (r : Rec) (args : List Byte) : Word × State :=
  let (r, s) := s.keepRec r
  let s := s.sendEvent r.part r args
  (r.lseq, if r.part = 0 then s else s.sendEvent 0 r args)

/-- Fold `n` further occurrences into the record with this LSEQ. -/
def State.foldRec (s : State) (l : Word) (n : Nat) : State :=
  let f (r : Rec) : Rec := if r.lseq = l then { r with rep := satAdd r.rep n } else r
  { s with log := { s.log with ring := s.log.ring.map f, waiting := s.log.waiting.map f } }

/-- A rate entry still limits: the same event within its millisecond or pass. -/
def Rate.holds (x : Rate) (ck : Nat) (l : Limit) : Bool :=
  match l with
  | .free => false
  | .pass k => x.since == k
  | _ => ck < x.since + 250000

def Rate.same (x : Rate) (o : Occ) (inj : Bool) : Bool :=
  x.code == o.ev.code && (o.limit = .msAny || x.unit == o.unit) && x.injected == inj

/-- The queued record that limits is a record of this rate entry. -/
def HwEvent.of (x : HwEvent) (r : Rate) : Bool :=
  x.record.code == r.code && x.record.unit == r.unit && testBit x.record.flags 0 == r.injected

/-- Change the last of a list that meets a condition. -/
def onLast {α : Type} (p : α → Bool) (f : α → α) (xs : List α) : List α :=
  (xs.foldr (fun x (b, ys) => if !b && p x then (true, f x :: ys) else (b, x :: ys)) (false, [])).2

/-- Fold `n` further occurrences into the record of a rate entry, logged or waiting for the keeper (R408). -/
def State.foldRate (s : State) (x : Rate) (n : Nat) : State :=
  if x.lseq = 0 then
    let add (h : HwEvent) : HwEvent := { h with record := { h.record with rep := satAdd h.record.rep n } }
    { s with log := { s.log with hwq := onLast (·.of x) add s.log.hwq } }
  else s.foldRec x.lseq n

/-- A record is due: the keeper logs and sends it, or it waits for the keeper, in a queue of 64 (R408). The LSEQ is 0 for a
record that waits or is lost. -/
def State.emit (s : State) (r : Rec) (args : List Byte) : Word × State :=
  if s.serves then s.logRec r args
  else if s.log.hwq.length < 64 then
    let r := if s.log.hwLost then { r with flags := r.flags ||| 8 } else r
    (0, { s with log := { s.log with hwq := s.log.hwq ++ [{ record := r, args := args.take 2 }], hwLost := false } })
  else (0, { s with log := { s.log with lost := satInc s.log.lost, hwLost := true } })

/-- An occurrence makes a record, or is added to the record that limits it. -/
def State.limited (s : State) (o : Occ) (inj : Bool) (r : Rec) : State :=
  let rest := s.log.rates.filter fun x => !x.same o inj
  let keep (s : State) (x : Rate) : State := { s with log := { s.log with rates := rest ++ [x] } }
  let fresh (rep : Half) : State :=
    let (n, s) := s.emit { r with rep := satAdd rep o.more } o.args
    keep s {
      code := o.ev.code, unit := o.unit, injected := inj, lseq := n, rep := 0
      since := match o.limit with | .pass k => k | _ => s.ck }
  if o.limit = .free then (s.emit r o.args).2
  else match s.log.rates.find? fun x => x.same o inj with
    | some x =>
      if x.holds s.ck o.limit then
        if o.limit = .msNext then keep s { x with rep := satAdd x.rep (o.more + 1) } else s.foldRate x (o.more + 1)
      else fresh x.rep
    | none => fresh 0

/-! A mark stands for an injected condition that lasts (R380): a domain's number for its trip or mismatch, a link's domain
for its lost lanes, and the numbers below. -/

/-- The configuration of the digital bay with domain `i`. -/
def cfgMark (i : Nat) : Nat := 0x40 + i
/-- The reference, the write bar, HOT STOP, and the keeper's watchdog. -/
def refMark : Nat := 0x80
def barMark : Nat := 0x83
def hotMark : Nat := 0x84
def dogMark : Nat := 0x200
/-- A life page of the sash. -/
def pageMark (p : Fin 8) : Nat := 0x1C0 + p.val
/-- What a restart or a boot can follow from. -/
def bootMarks : List Nat := [dogMark, hotMark]

/-- The marks of a unit whose domain has tripped. -/
def State.tripMark (s : State) (i : Fin 32) : List Nat := if (s.dom i).state = .tripped then [i.val] else []

/-- The event follows from an injection (R380). -/
def State.carries (s : State) (marks : List Nat) : Bool := marks.any s.inj.carry.contains

/-- Raise an event: latch its bit, and log and send it, or hold it for the keeper (R408). -/
def State.raise (s : State) (o : Occ) : State :=
  let inj := o.injected || s.carries o.marks
  let s := s.onLatch o.ev.block o.inst fun w => setBit w (o.ev.pos + o.off)
  s.limited o inj {
    lseq := 0, et := s.clk.et, det := o.det, part := o.part, unit := o.unit, code := o.ev.code, rep := 0,
    flags := o.flags ||| (if inj then 1 else 0), arg0 := rd 16 o.args 0 2 }

/-! ### Ledger records (R306 to R311) -/

/-- The free segment with the fewest writes (R308). -/
def State.freshSeg (s : State) : Option (Fin 256) :=
  (List.finRange 256).foldl (fun best i =>
    if s.ldg.segs[i].state = .free then
      match best with
      | some (b : Fin 256) => if s.ldg.segs[i].writes < s.ldg.segs[b].writes then some i else best
      | none => some i
    else best) none

def State.onSeg (s : State) (i : Nat) (f : Segment → Segment) : State :=
  match fin i with
  | some i => { s with ldg := { s.ldg with segs := upd s.ldg.segs i f } }
  | none => s

/-- A segment whose last live record is superseded leaves the live count (R308). -/
def State.supersede (s : State) (i : Nat) : State :=
  s.onSeg i fun g =>
    if g.liveRecords = 1 && g.state = .live then { g with liveRecords := 0, state := .erasing }
    else { g with liveRecords := g.liveRecords - 1 }

/-- Bytes used of the open segment; one that is being cleaned has no room left. -/
def State.openUsed (s : State) : Nat :=
  match fin s.ldg.openSeg with
  | some (i : Fin 256) => if s.ldg.segs[i].state = .live then s.ldg.segs[i].used else 4096
  | none => 4096

/-- The other copy of the superblock is written when the journal moves on (log 166). -/
def Ledger.superWrite (x : Ledger) : Ledger := { x with superCopy := x.superCopy + 1, superDue := true }

/-- Open a segment for the journal. -/
def State.openAt (s : State) (i : Fin 256) : State :=
  { s with ldg := { s.ldg.superWrite with
    openSeg := i.val, segs := upd s.ldg.segs i fun g => { g with state := .live, used := 0, liveRecords := 0 } } }

/-- Size of the next record: a free value, at most `n` (log 12). -/
def State.recordSize (s : State) (n : Nat) : Nat × State :=
  (min n (Config.recordSize s.freeCtr + 1), { s with freeCtr := s.freeCtr + 1 })

/-- What the journal record and the result of a command take together, at most (R309). -/
def chargeBytes : Nat := 1664

/-- Free space: free segments, the open segment's tail and released results (R309). -/
def State.freeBytes (s : State) : Nat :=
  let free := (List.finRange 256).foldl (fun n i => if s.ldg.segs[i].state = .free then n + 4096 else n) 0
  let tail := 4096 - s.openUsed
  let released := s.ldg.entries.foldl (fun n e => if e.released && e.result.isSome then n + e.size else n) 0
  free + tail + released

/-- Charged space: 1,664 bytes for each command in flight (R309). -/
def State.charged (s : State) : Nat := chargeBytes * s.allInFlight

/-- Unreleased results and in-flight commands together. -/
def State.unreleased (s : State) : Nat := (s.ldg.entries.filter fun e => e.result.isNone || !e.released).length

/-- New commands are refused with LEDGER_FULL (R309). -/
def State.ledgerFull (s : State) : Bool := s.freeBytes < s.charged + chargeBytes || s.unreleased ≥ 4096

/-- Keep LDG_STATUS.STATE and raise LDG_FULL on entry to FULL (R309). -/
def State.watchLedger (s : State) : State :=
  if s.ldg.state = 0 then s
  else if s.ledgerFull then
    if s.ldg.state = 2 then s
    else ({ s with ldg := { s.ldg with state := 2 } }).raise { ev := .ldgFull }
  else { s with ldg := { s.ldg with state := 1 } }

/-- The released result that was used least recently (R306). -/
def State.lru (s : State) : Option Entry :=
  s.ldg.entries.foldl (fun best e =>
    if e.released && e.result.isSome then
      match best with
      | some b => if e.used < b.used then some e else best
      | none => some e
    else best) none

/-- Evict a released result: FLOOR rises to its CMD_ID if that is higher (R306). One 2^31 away is the lower, since it was
stored before the FLOOR that it meets (R405). -/
def State.evict (s : State) (e : Entry) : State :=
  let s := { s with ldg := { s.ldg with
    entries := s.ldg.entries.filter fun x => !(x.part == e.part && x.id == e.id)
    floors := upd s.ldg.floors e.part fun f => if serialLt f e.id then e.id else f } }
  s.supersede e.seg

/-- Room without the released results, once the segments under erasure are free. -/
def State.room (s : State) : Nat :=
  (List.finRange 256).foldl (fun n i => match s.ldg.segs[i].state with | .free | .erasing => n + 4096 | _ => n) (4096 - s.openUsed)

/-- Evict while room is needed, at most `n` results (R306). -/
def State.evictFor : Nat → State → State
  | 0, s => s
  | n + 1, s =>
    if s.room < s.charged + chargeBytes || s.ldg.entries.length ≥ 4096 then
      match s.lru with
      | some e => State.evictFor n (s.evict e)
      | none => s
    else s

/-- The ledger entry of a command. -/
def State.entry (s : State) (c : CmdRef) : Option Entry := s.ldg.entries.find? fun e => e.part == c.part && e.id == c.id

def State.onEntry (s : State) (c : CmdRef) (f : Entry → Entry) : State :=
  { s with ldg := { s.ldg with entries := s.ldg.entries.map fun e => if e.part == c.part && e.id == c.id then f e else e } }

/-! ### Appending to the journal (R307, R308, log 166) -/

/-- A record of the journal stands in another segment. -/
def State.moveRecord (s : State) (r : LdgRec) (i : Nat) : State :=
  match r with
  | .command c => s.onEntry c fun e => { e with seg := i }
  | .ceiling k => { s with ldg := { s.ldg with ceilRec := upd s.ldg.ceilRec k fun x => x.map fun y => (i, y.2) } }

/-- The live records that stand in a segment, with their sizes. -/
def State.liveIn (s : State) (i : Nat) : List (LdgRec × Nat) :=
  (s.ldg.entries.filter fun e => e.seg = i).map (fun e => (.command { part := e.part, id := e.id }, e.size)) ++
    (List.finRange 32).filterMap fun k => s.ldg.ceilRec[k].bind fun x => if x.1 = i then some (.ceiling k, x.2) else none

def State.liveBytes (s : State) (i : Nat) : Nat := ((s.liveIn i).map (·.2)).sum

/-- The segment to be cleaned: of the live ones but the open one, that with the fewest live bytes, if they are at most `n`. -/
def State.victim (s : State) (n : Nat) : Option (Fin 256) :=
  (List.finRange 256).foldl (fun best i =>
    if s.ldg.segs[i].state = .live && i.val ≠ s.ldg.openSeg && s.liveBytes i.val ≤ n then
      match best with
      | some (b : Fin 256) => if s.liveBytes i.val < s.liveBytes b.val then some i else best
      | none => some i
    else best) none

/-- A segment is cleaned: its live records are written again in the open one, and its erase is due. -/
def State.cleanSeg (s : State) (v : Fin 256) : State :=
  let moved := s.liveIn v.val
  let n := s.liveBytes v.val
  let s := moved.foldl (fun s r => s.moveRecord r.1 s.ldg.openSeg) s
  let s := s.onSeg s.ldg.openSeg fun g => { g with
    used := g.used + n, writes := g.writes + moved.length, liveRecords := g.liveRecords + moved.length }
  s.onSeg v.val fun g => { g with state := .erasing, liveRecords := 0 }

/-- Free segments. -/
def State.freeSegs (s : State) : Nat := ((List.finRange 256).filter fun i => s.ldg.segs[i].state = .free).length

/-- The open segment has no room for `n` bytes: a free one is opened. The last free one takes what is live in a segment that
is cleaned; with none free, what the open one can still take is cleaned. -/
def State.openNext (s : State) (n : Nat) : State :=
  match s.freshSeg with
  | some i =>
    match if s.freeSegs < 2 then s.victim (4096 - n) else none with
    | some v => (s.openAt i).cleanSeg v
    | none => s.openAt i
  | none =>
    match s.victim (4096 - s.openUsed) with
    | some v => s.cleanSeg v
    | none => s

/-- Append a record of `n` bytes: to the open segment, or to another when it does not fit. None when there is no room until
an erase has been verified. -/
def State.append (s : State) (n : Nat) : Option Nat × State :=
  let s := if s.openUsed + n ≤ 4096 then s else s.openNext n
  if s.openUsed + n ≤ 4096 then
    (some s.ldg.openSeg, s.onSeg s.ldg.openSeg fun g => { g with used := g.used + n, writes := g.writes + 1, liveRecords := g.liveRecords + 1 })
  else (none, s)

/-- The packets of a response to a command. No MAC is made without a key (R297): then none is sent. -/
def State.replyPackets (s : State) (src : Half) (part : Fin 32) (op : Byte) (id epoch : Word) (auth : Bool) (gen : Half)
    (final jnl : Bool) (r : Reply) : List (List Byte) :=
  let flags : Byte := (if auth then 1 else 0) ||| (if final then 16 else 0) ||| (if jnl then 32 else 0)
  if auth then
    match s.replyKey part gen with
    | some k => responsePackets s.node.addr src part op flags r.status id epoch (some k) r.body
    | none => []
  else responsePackets s.node.addr src part op flags r.status id epoch none r.body

/-- Send a response on the path of its command (R302, R347). -/
def State.respondTo (s : State) (path : Path) (src : Half) (part : Fin 32) (op : Byte) (id epoch : Word) (auth : Bool)
    (gen : Half) (final jnl : Bool) (r : Reply) : State :=
  s.sendOn path (s.replyPackets src part op id epoch auth gen final jnl r)

/-- Commit a final result, release the slot and send the response unless NORESP is set (R302, R306, R310). A result for which
the ledger has no room yet waits (log 166). -/
def State.commitResult (s : State) (c : CmdRef) (r : Reply) (send : Bool) : State :=
  match s.entry c with
  | none => s
  | some e =>
    if e.result.isSome then s else
    let (n, s) := s.recordSize (chargeBytes - e.size)
    match s.append n with
    | (none, s) => { s with ldg := { s.ldg with deferred := s.ldg.deferred ++ [(c, r)] } }
    | (some g, s) =>
    let s := match s.entry c with | some e => s.supersede e.seg | none => s
    let s := s.onEntry c fun x => { x with result := some r, seg := g, size := n, used := s.ldg.useCount }
    let s := { s with ldg := { s.ldg with useCount := s.ldg.useCount + 1, last := some (.command c) } }
    let s := if send && !testBit e.flags 2 then
        s.respondTo e.path e.src e.part e.op e.id e.epoch (testBit e.flags 0) e.keyGen true true r
      else s
    (s.unlease c).watchLedger

/-! ### Detectors and injection (R375 to R380) -/

/-- Count a firing (R375). -/
def State.countDet (s : State) (det : BitVec 10) (injected : Bool) : State :=
  if injected then { s with inj := { s.inj with injected := store 0 s.inj.injected det.toNat (satInc (look 0 s.inj.injected det.toNat)) } }
  else { s with inj := { s.inj with real := store 0 s.inj.real det.toNat (satInc (look 0 s.inj.real det.toNat)) } }

/-- The armed injection on a detector and unit, with an argument that the check meets. -/
def State.armedOn (s : State) (det : BitVec 10) (unit : Byte) (ok : Word → Bool := fun _ => true) : Option (Fin 16 × Armed) :=
  (List.finRange 16).findSome? fun j =>
    match s.inj.armed[j] with
    | some a => if a.det = det && a.unit = unit && ok a.arg then some (j, a) else none
    | none => none

/-- A result that is due: committed at once, or once the keeper runs and NVW_DEFER is clear (R63). -/
def State.finishNow (s : State) (c : CmdRef) (r : Reply) : State :=
  if s.kpr && !s.pwr.nvwDefer then s.commitResult c r true
  else { s with ldg := { s.ldg with deferred := s.ldg.deferred ++ [(c, r)] } }

/-- One check of an armed injection: it counts towards firing, and on the last one INJECT completes with the ET and
MASKED (R378). -/
def State.consume (s : State) (j : Fin 16) (a : Armed) (real : Bool) : State :=
  if a.left ≤ 1 then
    let s := { s with inj := { s.inj with armed := s.inj.armed.set j none } }
    s.finishNow a.cmd { status := 0, body := le 6 s.clk.et ++ [if real then 1 else 0] }
  else { s with inj := { s.inj with armed := s.inj.armed.set j (some { a with left := a.left - 1 }) } }

/-- The check of a detector: whether it sees its condition, whether only an injection makes it, and the state with the
firing counted. -/
def State.check (s : State) (det : BitVec 10) (unit : Byte) (real : Bool) (ok : Word → Bool := fun _ => true) :
    Bool × Bool × State :=
  match s.armedOn det unit ok with
  | some (j, a) =>
    let s := s.consume j a real
    (true, !real, if a.left ≤ 1 || real then s.countDet det (!real) else s)
  | none => if real then (true, false, s.countDet det false) else (false, false, s)

/-- Set a mark of an injected condition, and end it when the unit returns to normal (R380). -/
def State.carry (s : State) (mark : Nat) (injected : Bool) : State :=
  if injected && !s.inj.carry.contains mark then { s with inj := { s.inj with carry := s.inj.carry ++ [mark] } } else s
def State.normal (s : State) (mark : Nat) : State := { s with inj := { s.inj with carry := s.inj.carry.filter (· ≠ mark) } }

/-- The record written last, where it still stands in the open segment, with its size. -/
def State.lastRecord (s : State) : Option (LdgRec × Nat) :=
  match s.ldg.last with
  | some (.command c) => (s.entry c).bind fun e => if e.seg = s.ldg.openSeg then some (.command c, e.size) else none
  | some (.ceiling k) => s.ldg.ceilRec[k].bind fun x => if x.1 = s.ldg.openSeg then some (.ceiling k, x.2) else none
  | none => none

/-- The segment that was open is retired, and the record written last is written again in a fresh one (R308). -/
def State.retireOpen (s : State) : State :=
  let last := s.lastRecord
  let s := s.onSeg s.ldg.openSeg fun g => { g with state := .retired, liveRecords := g.liveRecords - 1 }
  match s.freshSeg, last with
  | some k, some (r, n) =>
    let s := { s with ldg := { s.ldg with openSeg := k.val } }
    let s := s.onSeg k.val fun g => { g with state := .live, used := n, writes := g.writes + 1, liveRecords := 1 }
    s.moveRecord r k.val
  | _, _ => s

/-- A segment of the superblock or the log is retired: a fresh one takes its place, with what was written (R308). -/
def State.retireFixed (s : State) (k : Fin 6) : State :=
  let s := s.onSeg s.ldg.fixed[k].val fun g => { g with state := .retired }
  match s.freshSeg with
  | some i => ({ s with ldg := { s.ldg with fixed := s.ldg.fixed.set k i } }).onSeg i.val fun g => { g with state := .fixed, writes := g.writes + 1 }
  | none => s

/-- What a ledger write goes to: the journal, or a fixed segment. -/
inductive LdgPlace where
  | journal
  | fixed (k : Fin 6)
deriving DecidableEq, Repr

def State.placeSeg (s : State) : LdgPlace → Nat
  | .journal => s.ldg.openSeg
  | .fixed k => s.ldg.fixed[k].val

/-- A ledger write has failed verification twice (R308): LDG_SEG_RETIRED names the segment. -/
def State.retireSeg (s : State) (x : LdgPlace) (injected : Bool) : State :=
  let t := match x with | .journal => s.retireOpen | .fixed k => s.retireFixed k
  (t.raise { ev := .ldgSegRetired, det := 0x1C0, unit := BitVec.ofNat 8 (s.placeSeg x), injected := injected }).watchLedger

/-- A ledger write and its repeat meet detector 0x1C0: the segment is retired and the record is written again in a fresh
one (R308). -/
def State.verifyAt (s : State) (x : LdgPlace) : State :=
  match s.armedOn 0x1C0 (BitVec.ofNat 8 (s.placeSeg x)) with
  | none => s
  | some (j, a) => ((s.countDet 0x1C0 true).retireSeg x true).consume j a false

def State.verifyLedger (s : State) : State := s.verifyAt .journal

/-- The fixed segments with a write that is yet to be verified. -/
def State.unverified (s : State) : List (Fin 6) :=
  (if s.ldg.superDue then [Fin.castLE (by decide) s.ldg.superCopy] else []) ++ s.log.unverified.map fun k => ⟨2 + k.val, by omega⟩

/-- The writes of the superblock and the log are verified (R308, log 167). -/
def State.verifyWrites (s : State) : State :=
  ({ s with ldg := { s.ldg with superDue := false }, log := { s.log with unverified := [] } }).each s.unverified fun s k => s.verifyAt (.fixed k)

/-! ### Sequence ceilings (R293, R294, R314) -/

/-- The ceiling for a NEXT_RSEQ: 4,096 more whenever that is within 2,048 of it, or beyond it under
R405: a ceiling 2^15 away was stored earlier, and so is the lesser. -/
def ceilingFor : Nat → Half → Half → Half
  | 0, c, _ => c
  | n + 1, c, next => if (c - next).toNat ≤ 2048 || serialLt c next || c - next = 0x8000 then ceilingFor n (c + 4096) next else c

/-- The keeper raises the ceiling of a source, with a record in the journal, unless the bar of R62 holds its write back. -/
def State.raiseCeiling (s : State) (src : Fin 32) : State :=
  let c := ceilingFor 16 s.ldg.ceil[src] s.arb.nextRseq[src]
  if !s.serves || s.pwr.nvwDefer || c = s.ldg.ceil[src] then s
  else
    let (n, s) := s.recordSize chargeBytes
    match s.append n with
    | (none, s) => s
    | (some g, s) =>
    let s := match s.ldg.ceilRec[src] with | some x => s.supersede x.1 | none => s
    (({ s with ldg := { s.ldg with
      ceil := s.ldg.ceil.set src c, ceilRec := s.ldg.ceilRec.set src (some (g, n)), last := some (.ceiling src) } }).watchLedger).verifyLedger
def State.raiseCeilings (s : State) : State := (List.finRange 32).foldl State.raiseCeiling s

/-- Records of a source are lost before acceptance: its NEXT_RSEQ advances and the next record declares them. -/
def State.skipRseq (s : State) (k : Fin 32) (n : Nat) : State :=
  let src : Fin 32 := s.arb.reqs[k].srcnum.toFin
  ({ s with arb := { s.arb with
    nextRseq := upd s.arb.nextRseq src fun q => q + BitVec.ofNat 16 n, skipped := upd s.arb.skipped src fun m => m + n } }).raiseCeiling src

/-- A command reaches its final code (R306); a result that is committed is verified. -/
def State.finish (s : State) (c : CmdRef) (r : Reply) : State :=
  let t := s.finishNow c r
  if s.kpr && !s.pwr.nvwDefer then t.verifyLedger else t

/-! ### Requests that the sequencer serves (R406) -/

/-- Whether the sequencer has the domain on or on its way there, as the keeper's table records a request (log 21). -/
def State.seqOn (s : State) (i : Fin 32) : Bool :=
  let d := s.dom i
  (d.state == .on || d.state == .ramping || d.wantOn) && !d.wantOff

/-- The outcome of a PWR_DOMAIN_SET that is being served, once it is known: FAULT with the first domain that tripped or
that lost its request on the way, DONE when every domain has reached its state (R406, log 37). -/
def State.servedReply (s : State) (x : DomReq) : Option Reply :=
  let failedOn := (List.finRange 32).filter fun i => (testBit x.on i.val && !s.seqOn i) || (testBit x.off i.val && (s.dom i).state == .tripped)
  let open0 := (List.finRange 32).filter fun i =>
    (testBit x.on i.val && (s.dom i).state != .on) || (testBit x.off i.val && (s.dom i).state != .off)
  match failedOn, open0 with
  | i :: _, _ => some { status := 0x70, body := [BitVec.ofNat 8 i.val] }
  | [], [] => some { status := 0, body := [] }
  | [], _ => none

/-- Complete each PWR_DOMAIN_SET whose outcome is known. One run with IDEMP is answered directly. -/
def State.settleServed (s : State) : State :=
  let known := s.pwr.served.filter fun x => (s.servedReply x).isSome
  let replies := known.map fun x => (x, (s.servedReply x).getD { status := 0, body := [] })
  let s := { s with pwr := { s.pwr with served := s.pwr.served.filter fun x => (s.servedReply x).isNone } }
  replies.foldl (fun s xr => match xr.1.direct with
    | some e => if e.noresp then s else s.respondTo e.path e.src e.part e.op e.id e.epoch e.auth e.gen true false xr.2
    | none => s.finish xr.1.cmd xr.2) s

/-- Final codes used by every chapter (Table 16-3). -/
def done (body : List Byte) : Reply := { status := 0x00, body := body }
def failed (status : Byte) (body : List Byte := []) : Reply := { status := status, body := body }

namespace Status
def done : Byte := 0x00
def accepted : Byte := 0x01
def duplicate : Byte := 0x02
def reread : Byte := 0x03
def notReady : Byte := 0x10
def busy : Byte := 0x11
def deferred : Byte := 0x12
def denied : Byte := 0x20
def badMac : Byte := 0x21
def keyAbsent : Byte := 0x22
def staleEpoch : Byte := 0x23
def conflict : Byte := 0x30
def outOfRange : Byte := 0x31
def badOpcode : Byte := 0x32
def ledgerFull : Byte := 0x40
def quota : Byte := 0x41
def hwMismatch : Byte := 0x50
def badImage : Byte := 0x51
def unitMismatch : Byte := 0x52
def slotWorn : Byte := 0x53
def partnerChanged : Byte := 0x60
def interrupted : Byte := 0x61
def fault : Byte := 0x70
def aborted : Byte := 0x71
end Status

/-! ### The audit (R58) -/

/-- The domain that holds the unit of a resource code. -/
def codeDom (c : Nat) : Option (Fin 32) :=
  if c < 9 then fin c else if 0x10 ≤ c && c < 0x22 then fin (c - 0x10 + 9)
  else if 0x40 ≤ c && c < 0x52 then fin ((c - 0x40) / 2) else if c = 0xC0 then some domSB else none

/-- The code of a domain state (PWR_DOM_CTRL_i.STATE). -/
def domStateCode : DomState → Nat
  | .off => 0
  | .ramping => 1
  | .on => 2
  | .draining => 3
  | .tripped => 4

/-- What the audit does with a difference: the table takes the sequencer's state, and the domain is SUSPECT (R58). -/
def State.mistrust (s : State) (i : Fin 32) : State :=
  { s with pwr := { s.pwr with
    req := if s.seqOn i then setBit s.pwr.req i.val else clearBit s.pwr.req i.val
    suspect := setBit s.pwr.suspect i.val } }

/-- STATE_MISMATCH of a domain (Table 3-4); `table` is what the table said. The two states are laid out as in log 179. -/
def State.mismatch (s : State) (i : Fin 32) (table injected : Bool) : Occ := {
  ev := .stateMismatch, det := 0x201, unit := BitVec.ofNat 8 i.val, part := s.domOwner i, marks := [i.val],
  injected := injected, args := [if table then 2 else 0, BitVec.ofNat 8 (domStateCode (s.dom i).state)] }

/-- Audit one domain: a difference is copied into the table, sets SUSPECT and raises STATE_MISMATCH (R58). -/
def State.auditDom (s : State) (i : Fin 32) : State :=
  let table := testBit s.pwr.req i.val
  match s.check 0x201 (BitVec.ofNat 8 i.val) (table ≠ s.seqOn i) with
  | (true, injected, s) => ((s.mistrust i).carry i.val injected).raise (s.mismatch i table injected)
  | (false, _, s) => s

/-- The audit before a command that addresses units in domains (R58). -/
def State.auditCodes (s : State) (codes : List Nat) : State :=
  codes.foldl (fun s c => match codeDom c with | some i => s.auditDom i | none => s) s

/-- Finish every command of a list with one reply. -/
def State.finishAll (s : State) (cs : List CmdRef) (r : Reply) : State := cs.foldl (fun s c => s.finish c r) s

/-- The hardware runs: apply; otherwise the moment cannot come and nothing changes (log 2). -/
def whenHw (s : State) (f : State → State) : Outcome := .next (if s.hw then f s else s)

/-- The keeper runs its firmware: apply; otherwise nothing changes (log 2). -/
def whenKpr (s : State) (f : State → State) : Outcome := .next (if s.serves then f s else s)

/-- The keeper runs, in RECOVERY too: the slow-control bus and the firmware commands (R366). -/
def whenRom (s : State) (f : State → State) : Outcome := .next (if s.kpr then f s else s)

end Sys2Proof.Machine
end

