-- ==== Sys2Proof/Machine/Darem.lean ====
section
/-!
DEFINITION. How a Darem command is checked, journalled, run, answered and answered again (R299 to R306, R324, R327,
R332, R409): one pipeline for every opcode.
-/
namespace Sys2Proof

/-- Flag of Table 16-2. -/
def Header.auth (h : Header) : Bool := Machine.testBit h.flags 0
/-- Flag of Table 16-2. -/
def Header.idemp (h : Header) : Bool := Machine.testBit h.flags 1
/-- Flag of Table 16-2. -/
def Header.noresp (h : Header) : Bool := Machine.testBit h.flags 2
/-- Flag of Table 16-2. -/
def Header.force (h : Header) : Bool := Machine.testBit h.flags 3

/-- The header's bytes as they arrived (Table 16-1). -/
def Header.bytes (h : Header) (op : Byte) : List Byte :=
  Machine.le 2 h.dest ++ Machine.le 2 h.src ++ [BitVec.ofNat 8 (h.part.val + 32 * h.pkind.toNat), op, h.flags, h.status] ++
    Machine.le 4 h.cmdId ++ Machine.le 4 h.epoch ++ Machine.le 2 h.plen ++ [h.seg, h.rsvd]

end Sys2Proof

namespace Sys2Proof.Machine

/-- What Table 16-6 and the opcode's chapter say of an opcode: its code, whether the parameters fit its layout (R409),
whether the sender passes the Who column, the resource codes it names, and its marks D, I and L. -/
structure OpSpec where
  op : Byte
  layout : Bool := true
  allowed : Bool := true
  codes : List Nat := []
  /-- Domains of units that it addresses and that no code names (R58). -/
  doms : List (Fin 32) := []
  durable : Bool := false
  idem : Bool := false
  /-- It is run as IDEMP whatever its flag says (R348). -/
  always : Bool := false
  long : Bool := false
  /-- The effect belongs to the cycle of acceptance, whatever waits before it (R31). -/
  now : Bool := false
  /-- The body of ACCEPTED, when the command starts as it is accepted (Table 12-2). -/
  acceptBody : State → List Byte := fun _ => []

/-- What a command does when it runs: the new state, and its final code unless that comes later. -/
abbrev Run := State → State × Option Reply

def refOf (h : Header) : CmdRef := { part := h.part, id := h.cmdId }

/-- The packet as it arrived. -/
def packetOf (h : Header) (op : Byte) (params : List Byte) : List Byte := h.bytes op ++ params ++ h.mac

/-- Step 1 of Table 16-4. -/
def wellSized (h : Header) (params : List Byte) : Bool :=
  h.plen.toNat == params.length && 20 + params.length + h.mac.length ≤ 512 &&
  h.mac.length == (if testBit h.flags 0 then 16 else 0) && bits h.flags 4 4 == 0 && h.pkind == 0 && h.status == 0 &&
  h.seg == 0 && h.rsvd == 0

/-- Answer a packet at once: a reject, an interim code, a repeated outcome or an IDEMP outcome; nothing with NORESP. -/
def State.answer (s : State) (h : Header) (op : Byte) (epoch : Word) (final jnl : Bool) (r : Reply) : State :=
  if h.noresp then s
  else s.respondTo h.path h.src h.part op h.cmdId epoch h.auth
    (match s.currentKey h.part with | some k => k.1 | none => 0) final jnl r

/-- Refuse a packet before the journal (R300). -/
def State.reject (s : State) (h : Header) (op : Byte) (status : Byte) (body : List Byte := []) : State :=
  let s := { s with ldg := { s.ldg with rejected := satInc s.ldg.rejected } }
  s.answer h op s.part.epoch true false { status := status, body := body }

/-- Send an interim code for a journalled command (R302). -/
def State.interim (s : State) (c : CmdRef) (r : Reply) : State :=
  match s.entry c with
  | some e =>
    if testBit e.flags 2 then s
    else s.respondTo e.path e.src e.part e.op e.id e.epoch (testBit e.flags 0) e.keyGen false false r
  | none => s

/-- A failed MAC check: counted, and AUTH_FAIL at most once per partition and millisecond (R332). -/
def State.badMac (s : State) (p : Fin 32) (injected : Bool) : State :=
  let s := { s with keys := { s.keys with slots := upd s.keys.slots p fun k => { k with badMac := satInc k.badMac } } }
  s.raise { ev := .authFail, det := 0x202, unit := BitVec.ofNat 8 p.val, part := p, injected := injected, limit := .ms }

/-- The epoch is refused (R327). -/
def State.staleEpoch (s : State) (h : Header) : Bool :=
  let ahead := (h.epoch - s.part.epoch).toNat
  let behind := (s.part.loss[h.part] - h.epoch).toNat
  h.epoch ≠ 0 && ((0 < ahead && ahead ≤ 2 ^ 31) || (s.part.loss[h.part] ≠ 0 && 0 < behind && behind ≤ 2 ^ 31))

/-- A retry of a known pair (R305). -/
def State.retry (s : State) (h : Header) (op : Byte) (params : List Byte) (e : Entry) : State :=
  let s := { s with ldg := { s.ldg with repeats := satInc s.ldg.repeats } }
  if crc32 (op :: params) ≠ crc32 (e.op :: e.params) then
    s.answer h op e.epoch true false { status := Status.duplicate, body := [1] }
  else match e.result with
    | none =>
      let code := if e.op = 0x26 && e.started then Status.deferred else Status.accepted
      let slot := (List.finRange 3).filter fun r => match s.rep.slots[r] with | some x => x.cmd == refOf h | none => false
      s.answer h op e.epoch false false { status := code, body := slot.map fun r => BitVec.ofNat 8 r.val }
    | some r =>
      let s := s.onEntry (refOf h) fun x => { x with used := s.ldg.useCount }
      let s := { s with ldg := { s.ldg with useCount := s.ldg.useCount + 1 } }
      s.answer h op e.epoch true true { status := Status.reread, body := r.status :: r.body }

/-- No slot for the partition (R324). -/
def State.noSlot (s : State) (p : Fin 32) : Bool :=
  let n := s.inFlight p
  n ≥ s.part.quota[p].max || (n ≥ s.part.quota[p].min && s.poolFree = 0)

/-- An earlier command of the partition that is unfinished and either not marked L or not yet started: commands start in
acceptance order (R304). In RECOVERY only those accepted since the keeper stays in the boot ROM count: what was open before
waits for its recovery (R366, log 174). -/
def State.blocked (s : State) (c : CmdRef) : Bool :=
  (s.ldg.entries.takeWhile fun e => !(e.part == c.part && e.id == c.id)).any fun e =>
    e.part == c.part && e.result.isNone && !(e.long && e.started) &&
      (!s.fw.recovery || s.unstarted.any fun x => x.1.part == e.part && x.1.id == e.id)

/-- The audit before a command's effect (R58). PWR_SUSPECT_ACK makes its own (R60). -/
def State.auditFor (s : State) (c : CmdRef) : State :=
  match s.entry c with
  | some e => if e.op = 0x22 then s else s.auditCodes e.codes
  | none => s

/-- An accepted command has started and its audit is made. -/
def State.begun (s : State) (c : CmdRef) : State := (s.onEntry c fun e => { e with started := true }).auditFor c

/-- Start an accepted command: its audit, its effect, and its final code unless that comes later. -/
def State.start (s : State) (c : CmdRef) (run : Run) : State :=
  match run (s.begun c) with
  | (s, some r) => s.finish c r
  | (s, none) => s

/-- Step 13: the journal record commits, the epoch is stamped, the slot is taken (R301, R310). None when no segment can take
the record before an erase has been verified (log 166). -/
def State.journal (s : State) (h : Header) (sp : OpSpec) (params : List Byte) : Option State :=
  let (n, s) := s.recordSize (chargeBytes - 1)
  match s.append n with
  | (none, _) => none
  | (some g, s) =>
  let key := if h.auth then (match s.currentKey h.part with | some k => k.1 | none => 0) else 0
  let e : Entry := {
    part := h.part, id := h.cmdId, op := sp.op, params := params, flags := h.flags, src := h.src, path := h.path,
    epoch := s.part.epoch, keyGen := key, codes := sp.codes, durable := sp.durable, long := sp.long, started := false,
    result := none, released := false, used := s.ldg.useCount, seg := g, size := n }
  let s := { s with ldg := { s.ldg with entries := s.ldg.entries ++ [e], last := some (.command (refOf h)), accepted := satInc s.ldg.accepted } }
  some (if h.auth then s.lease h.part key (refOf h) else s).watchLedger.verifyLedger

/-- Steps 6 to 13 for a packet whose MAC is good and whose pair is not known. -/
def State.accept (s : State) (i : Instr) (h : Header) (sp : OpSpec) (params : List Byte) (run : Run) : State :=
  if !sp.layout then s.reject h sp.op Status.outOfRange
  else if s.staleEpoch h then s.reject h sp.op Status.staleEpoch
  else if !sp.allowed then s.reject h sp.op Status.denied
  else if h.dest = 0xFFFF || (h.idemp && sp.idem) || sp.always then
    let (s, r) := run (s.auditCodes sp.codes)
    match r with
    | some r => s.answer h sp.op s.part.epoch true false r
    | none => s
  else if s.pwr.nvwDefer then s.reject h sp.op Status.deferred
  else if s.noSlot h.part then s.reject h sp.op Status.quota
  else
    if s.ledgerFull then s.reject h sp.op Status.ledgerFull
    else
      match (s.evictFor s.ldg.entries.length).journal h sp params with
      | none => s.reject h sp.op Status.ledgerFull
      | some s =>
      let waits := s.blocked (refOf h) && !sp.now
      let s := if sp.long then
          s.interim (refOf h) { status := Status.accepted, body := if waits then [] else sp.acceptBody (s.begun (refOf h)) }
        else s
      if waits then { s with unstarted := s.unstarted ++ [(refOf h, i)] }
      else s.start (refOf h) run

/-- Steps 1 to 5, then the rest (Table 16-4). Broadcasts skip steps 4 and 5 (R299). -/
def State.checkPacket (s : State) (h : Header) (op : Byte) (params : List Byte) (rest : State → State) : State :=
  if !wellSized h params then s.reject h op Status.outOfRange
  else if (s.part.quota[h.part].auth || h.auth) && (s.currentKey h.part).isNone then s.reject h op Status.keyAbsent
  else
    let bad := match s.currentKey h.part with
      | some k => if h.auth then h.mac ≠ packetMac k.2 (h.bytes op ++ params) else s.part.quota[h.part].auth
      | none => false
    let (seen, injected, s) := if h.auth || s.part.quota[h.part].auth then s.check 0x202 (BitVec.ofNat 8 h.part.val) bad
      else (false, false, s)
    if seen then (s.badMac h.part injected).reject h op Status.badMac
    else if h.dest = 0xFFFF then rest s
    else match s.entry (refOf h) with
      | some e => s.retry h op params e
      | none =>
        if carriedLe h.cmdId s.ldg.floors[h.part] then
          s.reject h op Status.duplicate [0]
        else rest s

/-- A packet reaches the keeper: what is dropped before the check order (R44, R271, R299, R344, R350, R366). -/
def State.receive (s : State) (h : Header) (op : Byte) (params : List Byte) (rest : State → State) : State :=
  let low := op.toNat ≤ 0x0F
  let onCan := match h.path with | .can _ => true | .link _ => false
  if onCan && (s.can.dup || !s.can.enNow || s.can.busOff) then s
  else if h.dest ≠ 0xFFFF && (!s.node.valid || h.dest ≠ s.node.addr) then
    if onCan then { s with can := { s.can with discarded := satInc s.can.discarded } } else s
  else if h.poisoned then { s with ldg := { s.ldg with poisoned := satInc s.ldg.poisoned } }
  else if h.dest = 0xFFFF && !low then { s with ldg := { s.ldg with discarded := satInc s.ldg.discarded } }
  else if s.fw.recovery && !((low || (0x80 ≤ op.toNat && op.toNat ≤ 0x84)) && h.part == 0 && h.auth) then
    s.reject h op Status.notReady
  else s.checkPacket h op params rest

/-- A packet waits in the local command input: one from a link while the keeper is down or in RECOVERY (R366), and any while
earlier packets of its path wait there (R270, R304). The slow-control bus is one path. -/
def State.mustWait (s : State) (h : Header) : Bool :=
  match h.path with
  | .link _ => !s.kpr || (!s.resuming && (s.fw.recovery || (!s.taken && s.keeperIn.any fun x => x.1 == h.path)))
  | .can _ => s.kpr && !s.resuming && !s.taken && s.keeperIn.any fun x => Path.isCan x.1

/-- A Darem command: it waits in the local command input (R270), is lost on the slow-control bus while the keeper is down
(R353), starts if it was accepted before (R304), or is received. -/
def darem (i : Instr) (h : Header) (sp : OpSpec) (params : List Byte) (run : Run) (s : State) : Outcome :=
  let run : Run := fun s => run (sp.doms.foldl State.auditDom s)
  .next (
    if s.mustWait h then
      if s.hw then { s with keeperIn := s.keeperIn ++ [(h.path, packetOf h sp.op params, h.poisoned)] } else s
    else if !s.kpr then s
    else if s.resuming then ({ s with resuming := false }).start (refOf h) run
    else ({ s with taken := false }).receive h sp.op params fun s => s.accept i h sp params run)

/-- A command that completes with one reply and changes nothing. -/
def answerOnly (r : State → Reply) : Run := fun s => (s, some (r s))

/-- A run that ends in a code without a change. -/
def stop (status : Byte) (body : List Byte := []) : Run := fun s => (s, some { status := status, body := body })

end Sys2Proof.Machine
end

