-- ==== Sys2Proof/Machine/Access.lean ====
section
/-!
DEFINITION. One register access (R3 to R6, R105, R400 to R403): what a word reads as, who may write it, what is in
range, what the owning chapter's state rules refuse, and the write's effect.
-/
namespace Sys2Proof

/-- Order of the fixed precedence: repair, blocking calibration, user, gap calibration (R99). -/
def Cls.rank : Cls → Nat
  | .gap => 0
  | .user => 1
  | .blocking => 2
  | .repair => 3

/-- The code of a class (XBAR_ASB.DRV_CLASS). -/
def Cls.code : Cls → Nat
  | .user => 0
  | .gap => 1
  | .blocking => 2
  | .repair => 3

end Sys2Proof

namespace Sys2Proof.Machine

/-- A register word as its chapter gives it, for one accessing partition. `mask` marks the bits that read defined: the
others are reserved or WO and read as a free value (R3, R4). `rule` gives the code that a state rule answers. The
option in `rule` and `act` is the staged lower word of a wide field (R6). -/
structure Access where
  val : Word
  mask : Word := 0xFFFFFFFF
  writable : Bool := false
  who : Word → Bool := fun _ => false
  doms : Word → List (Fin 32) := fun _ => []
  range : Word → Bool := fun _ => true
  rule : Option Word → Word → Option Byte := fun _ _ => none
  act : Option Word → Word → State → State := fun _ _ s => s

/-- A register whose fields are all RO. -/
def roReg (val : Word) (mask : Word := 0xFFFFFFFF) : Access := { val := val, mask := mask }

/-- A register of latched event bits: 1 clears (R3). -/
def w1cReg (who : Bool) (val mask : Word) (b : EvBlock) (inst : Nat) (doms : List (Fin 32) := []) : Access :=
  { val := val, mask := mask, writable := true, who := fun _ => who, doms := fun _ => doms
    act := fun _ v s => s.onLatch b inst fun w => w &&& ~~~(v &&& mask) }

/-- A clear register: WO, writing 1 to bit 0 acts. -/
def clearReg (who : Bool) (f : State → State) (doms : List (Fin 32) := []) : Access :=
  { val := 0, mask := 0, writable := true, who := fun _ => who, doms := fun _ => doms
    act := fun _ v s => if testBit v 0 then f s else s }

/-- A plain RW register: a write in range sets its defined bits. -/
def rwReg (val mask : Word) (who : Bool) (set : Word → State → State) (range : Word → Bool := fun _ => true)
    (doms : List (Fin 32) := []) : Access :=
  { val := val, mask := mask, writable := true, who := fun _ => who, doms := fun _ => doms, range := range
    act := fun _ v s => set (v &&& mask) s }

/-- What a read of a word returns: its defined bits, and free bits elsewhere (log 7). -/
def State.readWord (s : State) (a : Access) : Word × State :=
  if a.mask = 0xFFFFFFFF then (a.val, s)
  else
    let (w, s) := s.draw
    ((a.val &&& a.mask) ||| (w &&& ~~~a.mask), s)

/-- The checks of R401 from step 2 on, then the effect. -/
def State.writeWord (s : State) (a : Access) (lo : Option Word) (v : Word) : Byte × State :=
  if !a.writable then (Status.done, s)
  else if !a.who v then (Status.denied, s)
  else
    let s := (a.doms v).foldl State.auditDom s
    if (a.doms v).any s.isSuspect then (Status.hwMismatch, s)
    else if !a.range v then (Status.outOfRange, s)
    else match a.rule lo v with
      | some c => (c, s)
      | none => (Status.done, a.act lo v s)

/-- A write access ends the staging of the partition (R6). -/
def State.unstage (s : State) (p : Fin 32) : State := { s with staged := s.staged.filter fun x => x.part ≠ p }

/-- A write access to one register that has a row of its own; the outcome is the access's status (log 8). -/
def State.writeOne (s : State) (p : Fin 32) (a : State → Access) (v : Word) : State :=
  let s := s.unstage p
  let (c, s) := s.writeWord (a s) none v
  { s with acc := (c, 0) }

/-- A frame boundary opens: the phase of ET is 0 (R18). -/
def Clk.atBoundary (c : Clk) : Bool := bits c.et 0 3 == 0

/-- Generator settings within R26. -/
def genValid (period length : Half) : Bool := 2 ≤ period.toNat && 1 ≤ length.toNat && length.toNat < period.toNat

/-- CLK_STATUS.GEN_INVALID: the settings in effect. -/
def Clk.genInvalid (c : Clk) : Bool := !genValid c.genPeriod c.genLength

/-! ### Units held by the engines -/

/-- The unit of a job, coded as in R376. -/
def Job.unit (j : Job) : Nat := j.index.toNat + (if j.type = 0 then 0 else if j.type = 1 then 0x20 else 0x70)

/-- A job holds the unit: its outage or a step runs (R154). -/
def State.unitHeld (s : State) (u : Nat) : Bool := s.cal.jobs.toList.any fun j =>
  match j with
  | some j => j.unit == u && j.state == .held
  | none => false

/-- A job holds the unit or has it queued (R152). -/
def State.unitBusy (s : State) (u : Nat) : Bool := s.cal.jobs.toList.any fun j =>
  match j with
  | some j => j.unit == u
  | none => false

/-- A gap step that holds the unit is abandoned: the step is repeated in a later gap (R156, R157). -/
def State.abandonUnit (s : State) (u : Nat) : State :=
  s.each (List.finRange 16) fun s j =>
    match s.cal.jobs[j] with
    | some x =>
      if x.unit = u && x.gap && x.state = .held then
        let left : Option Job := if x.ending then none else some { x with state := .between }
        { s with cal := { s.cal with jobs := s.cal.jobs.set j left, aborts := satInc s.cal.aborts } }
      else s
    | none => s

/-- The bay takes part in a repair (R225); bays are numbered as domains. -/
def State.inRepair (s : State) (i : Nat) : Bool := s.rep.slots.toList.any fun r =>
  match r with
  | some r => r.orig == i || r.spare == i
  | none => false

/-- The coefficients of a unit: neutral unless listed (R150). -/
def neutralBody (u : Nat) : List Byte :=
  let unity : List Byte := [0x00, 0x80]
  if u < 0x20 then (List.replicate 3 unity).flatten ++ List.replicate 6 0
  else if u < 0x70 then
    (List.replicate 6 unity).flatten ++ List.replicate 4 0 ++ [0x80, 0x01] ++ List.replicate 30 0 ++
      (List.replicate 2 ((List.range 64).map (BitVec.ofNat 8))).flatten
  else List.replicate 63 0 ++ (List.replicate 4 unity).flatten ++ List.replicate 8 0
def neutralCoef (u : Nat) : Coef := { valid := 0, dieT := 0, et := 0, body := neutralBody u }
def State.coef (s : State) (u : Nat) : Coef := look (neutralCoef u) s.cal.coefs u

end Sys2Proof.Machine
end

