-- ==== Sys2Proof/Machine/Spine.lean ====
section
/-!
DEFINITION. The requesters of the readout spine, their masks, and how a mask or a tear ends a transfer (15 R279, R288,
R290, R292). Loads, resets and trips use it.
-/
namespace Sys2Proof.Machine

def Vc.bit : Vc → Bool
  | .req => false
  | .rsp => true
def vcOf (b : Bool) : Vc := if b then .rsp else .req

/-! ### Requesters (R279, R295) -/

/-- The bay of a requester, numbered as a domain; none for the keeper and the forwarding engines. -/
def reqBay (k : Fin 32) : Option (Fin 32) := if k.val < 18 then fin (9 + k.val) else if k.val < 27 then fin (k.val - 18) else none

/-- The requester of a bay numbered as a domain. -/
def bayReq (i : Nat) : Fin 32 := if h : i < 9 then ⟨18 + i, by omega⟩ else ⟨(i - 9) % 18, by omega⟩

/-- The partition that owns a requester: the owner of the bay, or P0. -/
def State.reqOwner (s : State) (k : Fin 32) : Fin 32 := match reqBay k with | some i => s.domOwner i | none => 0

def reqDoms (k : Fin 32) : List (Fin 32) := (reqBay k).toList

/-- A repair holds back what its bays' own readout ports ask for: the spare's in SHADOW until F and the
last beat of what the original then had on the spine, the original's from F on (R232, R290). -/
def State.repairMasks (s : State) (i : Nat) : Bool := s.rep.slots.toList.any fun r =>
  match r with
  | some r => (!r.cold && r.spare == i && (!r.past || r.lastBeat)) || (r.orig == i && r.past)
  | none => false

/-- A SUSPECT bay is masked from the frame boundary that found it so (R59, Table 15-4). -/
def State.suspectMasks (s : State) (k : Fin 32) (i : Fin 32) : Bool := s.isSuspect i && testBit s.arb.suspects k.val

/-- The requester is masked (Table 15-4). -/
def State.reqMasked (s : State) (k : Fin 32) : Bool :=
  match reqBay k with
  | none => false
  | some i =>
    !s.isOn i || s.suspectMasks k i || s.repairMasks i.val ||
      (match (fin k.val : Option (Fin 18)) with | some d => s.gsr d | none => false)

/-- The requester is that of a SHADOW's spare, whose port the engine serves while the repair lasts (Table 15-4). -/
def State.isShadowSpare (s : State) (k : Fin 32) : Bool :=
  match reqBay k with
  | none => false
  | some i => s.rep.slots.toList.any fun r => match r with | some r => !r.cold && r.spare == i.val | none => false

/-- ARB_MASK bit k (R290). What the engine offers for a SHADOW's spare after F is not held back by its bit (R233, log
171). -/
def State.maskBit (s : State) (k : Fin 32) : Bool := s.reqMasked k || s.isShadowSpare k

/-! ### ORQ slots (R291, R292) -/

/-- Reserve or return ORQ slots. -/
def Port.reserve (x : Port) (v : Vc) (f : Nat → Nat) : Port :=
  match v with
  | .req => { x with reservedReq := f x.reservedReq }
  | .rsp => { x with reservedRsp := f x.reservedRsp }

def VcState.tornSlots (n : Nat) (x : VcState) : VcState := { x with orqLeaving := x.orqLeaving + n }

/-- A torn transfer's reservation is returned in the cycle after (Table 15-5). -/
def Port.giveBack (x : Port) (v : Vc) (n : Nat) : Port :=
  match v with
  | .req => { x with req := x.req.tornSlots n }
  | .rsp => { x with rsp := x.rsp.tornSlots n }

/-- Slots that were being released in the cycle before are visible as free, and what left in it is released now (R272,
R292). -/
def VcState.tick (x : VcState) : VcState :=
  { x with orqHidden := x.orqLeaving, orqLeaving := 0, fwdHidden := x.fwdLeaving, fwdLeaving := 0
           replayHidden := x.replayLeaving, replayLeaving := 0, reorderHidden := x.reorderLeaving, reorderLeaving := 0 }
def Port.tick (x : Port) : Port :=
  { x with
    reservedReq := x.reservedReq - x.req.orqLeaving, reservedRsp := x.reservedRsp - x.rsp.orqLeaving
    req := x.req.tick, rsp := x.rsp.tick }

/-! ### Tears (R288) -/

/-- The spine is free for the grant that was decided in the last beat. -/
def State.nextHolder (s : State) : State :=
  { s with arb := { s.arb with
    holder := s.arb.next, next := none, lastHolder := match s.arb.next with | some h => h.k | none => s.arb.lastHolder } }

/-- The transfer that a SHADOW's original had on the spine at F ends; committed, its copy is not sent again (R232, R233, log 187). -/
def State.lastBeatOf (s : State) (k : Fin 32) (committed : Bool) : State :=
  let f (x : Repair) : Repair :=
    if x.lastBeat && reqBay k == fin x.orig then { x with lastBeat := false, held := if committed then x.held.drop 1 else x.held } else x
  { s with rep := { s.rep with slots := s.rep.slots.map fun (x : Option Repair) => x.map f } }

/-- A transfer that was granted is torn: its reservation goes back, and TORN pulses in the next cycle. -/
def State.dropTransfer (s : State) (h : Holder) : State :=
  ((s.onPort h.port fun x => x.giveBack (vcOf h.rsp) h.slots).onReq h.k fun x => { x with
    torn := satInc x.torn, tornNext := true }).lastBeatOf h.k false

/-- The marks of what cuts off a requester's bay: the domain's trip, and a fault of a digital bay's configuration. -/
def State.reqMarks (s : State) (k : Fin 32) : List Nat :=
  match reqBay k with
  | some i => s.tripMark i ++ (if 9 ≤ i.val then [cfgMark i.val] else [])
  | none => []

/-- The event of a tear. -/
def State.tornOcc (s : State) (h : Holder) (cause : Nat) (injected : Bool) : Occ := {
  ev := .arbTorn, det := if cause = 0 then 0x240 else 0, unit := BitVec.ofNat 8 h.k.val, part := s.reqOwner h.k, injected := injected
  args := bytesOf 2 cause, marks := if cause = 0 then [] else s.reqMarks h.k }

/-- The transfer on the spine is torn. Its packet, if it has one, still lies in its buffer. -/
def State.tear (s : State) (h : Holder) (cause : Nat) (injected : Bool) : State :=
  (s.dropTransfer h).nextHolder.raise (s.tornOcc h cause injected)

/-- The grant decided in the last beat is torn before its transfer starts. -/
def State.tearNext (s : State) (h : Holder) (cause : Nat) : State :=
  let t := s.dropTransfer h
  ({ t with arb := { t.arb with next := none } }).raise (s.tornOcc h cause false)

/-! ### Masks (R290) -/

/-- ET of a cycle since a transfer's decision: what ET has been loaded with after that cycle does not count. -/
def State.etOf (s : State) (h : Holder) (c : Nat) : Et :=
  h.jumps.foldl (fun et j => if c < j.1 then et - j.2 else et) (s.clk.et + BitVec.ofNat 48 c - BitVec.ofNat 48 s.ck)

/-- ET of the cycle in which beat 0 is taken: bubbles before it come after the decision (R286, R288). -/
def State.beatZero (s : State) (h : Holder) (lead : Nat) : Et := s.etOf h (h.ck0 + lead)

/-- A load of ET while transfers stand adds this much to it (R21). -/
def State.jumpEt (s : State) (d : Et) : State :=
  let f (h : Option Holder) : Option Holder := h.map fun h => { h with jumps := h.jumps ++ [(s.ck, d)] }
  { s with arb := { s.arb with holder := f s.arb.holder, next := f s.arb.next, cut := f s.arb.cut } }

/-- Raise an event that belongs to a cycle before this one. -/
def State.raiseAt (s : State) (et : Et) (o : Occ) : State :=
  let t := ({ s with clk := { s.clk with et := et } }).raise o
  { t with clk := { t.clk with et := s.clk.et } }

/-- Beat 0 was taken after the deadline (R286): found out when the transfer ends, and dated in its cycle (log 138). -/
def State.checkLate (s : State) (h : Holder) (lead : Nat) : State :=
  let et := s.beatZero h lead
  if h.request.deadline ≠ et && passed h.request.deadline et then
    (s.onReq h.k fun x => { x with late := satInc x.late }).raiseAt et {
      ev := .arbLate, unit := BitVec.ofNat 8 h.k.val, part := s.reqOwner h.k, limit := .ms }
  else s

/-- GSR or a trip masks a requester in the cycle of its assertion: what it holds is torn, and its waiting request is
dropped. The transfer's ARB_TEAR in that cycle says when beat 0 was taken (log 138). -/
def State.cutOff (s : State) (k : Fin 32) (cause : Nat) : State :=
  let s := s.onReq k fun x => { x with waiting := none }
  let s := match s.arb.next with
    | some h => if h.k = k then s.tearNext h cause else s
    | none => s
  match s.arb.holder with
  | some h =>
    if h.k = k then
      let t := s.tear h cause false
      { t with arb := { t.arb with cut := if h.ck0 ≤ s.ck then some h else t.arb.cut } }
    else s
  | none => s

/-- A masked requester's waiting request is dropped. -/
def State.dropMasked (s : State) : State :=
  s.each (List.finRange 32) fun s k => if s.reqMasked k then s.onReq k fun x => { x with waiting := none } else s

/-- A frame boundary takes the masks of SUSPECT bays (Table 15-4). -/
def State.takeSuspects (s : State) : State :=
  let bad (k : Fin 32) : Bool := match reqBay k with | some i => s.isSuspect i | none => false
  let w := wordOfBits (((List.finRange 32).filter bad).map fun k => k.val)
  ({ s with arb := { s.arb with suspects := w } }).dropMasked

end Sys2Proof.Machine
end

