-- ==== Sys2Proof/Machine/Analogue.lean ====
section
/-!
DEFINITION. Analogue bays, the octet crossbar and the threshold DACs (05; 07 R133 to R135).
-/
namespace Sys2Proof.Machine

/-! ### Sum outputs and ASB lines (R97 to R100) -/

/-- Fields of ABAY_SO for sum output `k`: source, line, enable. -/
def soSrc (w : Word) (k : Fin 2) : Nat := (bits w (8 * k.val) 5).toNat
def soLine (w : Word) (k : Fin 2) : Fin 4 := (bits w (8 * k.val + 5) 2).toFin
def soEn (w : Word) (k : Fin 2) : Bool := testBit w (8 * k.val + 7)

/-- The lines a sum output drives its line from: those of SUM_ASB when its source is the sum node. -/
def feeds (sumCfg : Word) (so : Word) (k : Fin 2) : List Nat := if soSrc so k = 17 then bitList 4 (bits sumCfg 20 4) else []

/-- The lines that line `n` depends on directly, given each line's driver. -/
def lineDeps (lines : Vector (Option AsbDriver) 4) (cfg : Fin 9 → Word × Word) (n : Nat) : List Nat :=
  match (fin n : Option (Fin 4)) with
  | some i => match lines[i] with
    | some d => feeds (cfg d.bay).1 (cfg d.bay).2 d.so
    | none => []
  | none => []

/-- Lines reached from a set in `k` more hops. -/
def lineReach (lines : Vector (Option AsbDriver) 4) (cfg : Fin 9 → Word × Word) : Nat → List Nat → List Nat
  | 0, ls => ls
  | k + 1, ls => lineReach lines cfg k (ls ++ ls.flatMap (lineDeps lines cfg))

/-- A line depends on itself through sum nodes (R100). -/
def asbLoop (lines : Vector (Option AsbDriver) 4) (cfg : Fin 9 → Word × Word) : Bool :=
  (List.range 4).any fun n => (lineReach lines cfg 3 (lineDeps lines cfg n)).contains n

/-- SUM_CFG and SO of every bay, with one bay's replaced. -/
def State.sumConf (s : State) (a : Fin 9) (sumCfg so : Word) (b : Fin 9) : Word × Word :=
  if b = a then (sumCfg, so) else (s.abays[b].sumCfg, s.abays[b].so)

/-- Claim a line: the new drivers, or none when an equal or higher claim stands (R99). -/
def claimLine (lines : Vector (Option AsbDriver) 4) (d : AsbDriver) (n : Fin 4) : Option (Vector (Option AsbDriver) 4) :=
  match lines[n] with
  | some x =>
    if x.bay = d.bay && x.so = d.so then some (lines.set n (some d))
    else if d.cls.rank > x.cls.rank then some (lines.set n (some d)) else none
  | none => some (lines.set n (some d))

/-- Release every line that a sum output drives. -/
def releaseLines (lines : Vector (Option AsbDriver) 4) (a : Fin 9) (k : Fin 2) : Vector (Option AsbDriver) 4 :=
  lines.map fun x => match x with
    | some d => if d.bay = a && d.so = k then none else some d
    | none => none

/-- The drivers after one sum output of a user's ABAY_SO write. -/
def soClaim (old new : Word) (a : Fin 9) (lines : Option (Vector (Option AsbDriver) 4)) (k : Fin 2) :
    Option (Vector (Option AsbDriver) 4) :=
  match lines with
  | none => none
  | some ls =>
    if soEn new k then
      if soEn old k && soLine old k = soLine new k then some ls
      else claimLine (releaseLines ls a k) { bay := a, so := k, cls := .user } (soLine new k)
    else some (releaseLines ls a k)

/-- The claims of one write of ABAY_SO: SO0 is checked before SO1 (R99, log 185). -/
def soLines (s : State) (a : Fin 9) (new : Word) : Option (Vector (Option AsbDriver) 4) :=
  soClaim s.abays[a].so new a (soClaim s.abays[a].so new a (some s.xbar.lines) 0) 1

/-- Disable sum outputs that drive no line any more, raising ASB_PREEMPTED to their owners (R99). -/
def State.displaceSums (s : State) (before : Vector (Option AsbDriver) 4) : State :=
  s.each (List.finRange 4) fun s n =>
    match before[n] with
    | some d =>
      match s.xbar.lines[n] with
      | some x =>
        if x = d || (x.bay = d.bay && x.so = d.so) then s else
        let s := s.onAbay d.bay fun b => { b with so := clearBit b.so (8 * d.so.val + 7) }
        s.raise { ev := .asbPreempted, inst := d.bay.val, unit := BitVec.ofNat 8 d.bay.val, part := (s.ownOf d.bay.val).owner,
                  marks := s.tripMark (domOfA d.bay), args := [BitVec.ofNat 8 n.val, BitVec.ofNat 8 d.so.val] }
      | none => s
    | none => s

/-! ### Connections (R101) -/

def isBay (c : BitVec 4) : Bool := c.toNat < 9

/-- The bays an octet's written entry names. -/
def octBays (pri sec : BitVec 4) : List Nat := ([pri, sec].filter isBay).map (·.toNat)

/-- The octet and role in which a bay is connected. -/
def State.octetOf (s : State) (a : Fin 9) : Option (Fin 8) :=
  (List.finRange 8).find? fun o => s.xbar.primaryNow[o].toNat = a.val || s.xbar.secondaryNow[o].toNat = a.val
def State.isSecondary (s : State) (a : Fin 9) : Bool :=
  (List.finRange 8).any fun o => s.xbar.secondaryNow[o].toNat = a.val

/-- Full scale of the comparator input and of a preamplifier's output, in µV (R89). -/
def fullScale : Int := 1000000

/-- What comes through from an input of a bay: 0 V in a bay that no octet names (R101). -/
def State.comes (s : State) (a : Fin 9) (v : Int) : Int := if (s.octetOf a).isSome then v else 0

/-! ### Comparator feed (R92 to R95, R154) -/

/-- The slot delivers its comparators' outputs: enabled, not masked, domain ON, no bay reset, not held by a job. -/
def State.delivers (s : State) (a : Fin 9) (k : Fin 8) : Bool :=
  let b := s.abays[a]
  testBit b.slotEn k.val && !b.slots[k].masked && s.isOn (domOfA a) && !b.inReset && !s.unitHeld (0x20 + 8 * a.val + k.val)

/-- A slot's comparator c: LO, or HI. -/
def Slot.cmp (x : Slot) (hi : Bool) : Cmp := if hi then x.hi else x.lo
def Slot.onCmp (x : Slot) (hi : Bool) (f : Cmp → Cmp) : Slot := if hi then { x with hi := f x.hi } else { x with lo := f x.lo }
def Slot.onCmps (x : Slot) (f : Cmp → Cmp) : Slot := { x with lo := f x.lo, hi := f x.hi }
def ABay.onCmps (b : ABay) (f : Cmp → Cmp) : ABay := { b with slots := b.slots.map fun x => x.onCmps f }

/-- The byte a comparator presents to the analogue feed (log 130). -/
def State.feed (s : State) (a : Fin 9) (k : Fin 8) (hi : Bool) : Byte :=
  if s.delivers a k then (s.abays[a].slots[k].cmp hi).feed else 0

/-- Bit `n` of a bay's analogue feed: comparator c of slot s has the bits 16s + 8c to 16s + 8c + 7 (R92). -/
def State.feedBit (s : State) (a : Fin 9) (n : Nat) : Bool :=
  match (fin (n / 16) : Option (Fin 8)) with
  | some k => testBit (s.feed a k (n / 8 % 2 = 1)) (n % 8)
  | none => false

/-- A new CK cycle: the records that are due are presented, and an edge stands for one cycle (R92, R93). -/
def ABay.feedTick (b : ABay) (ck : Nat) : ABay :=
  let due := (b.feedQ.filter fun r => r.due ≤ ck).reverse
  let shown (k : Fin 8) (hi : Bool) (c : Cmp) : Cmp :=
    { c with feed := match due.find? fun r => r.slot = k && r.hi = hi with | some r => r.byte | none => c.feed &&& 1 }
  { b with
    feedQ := b.feedQ.filter fun r => ck < r.due
    slots := Vector.ofFn fun k => { b.slots[k] with lo := shown k false b.slots[k].lo, hi := shown k true b.slots[k].hi } }

/-- The interpolators are idle: no edge is on its way or presented (R95). -/
def ABay.idleFine (b : ABay) : ABay :=
  { b.onCmps fun c => { c with feed := c.feed &&& 1 } with feedQ := b.feedQ.map fun r => { r with byte := r.byte &&& 1 } }

/-- The FT delivered for a raw bin: FT_MAP of the slot's coefficients (R150). -/
def State.ftMap (s : State) (a : Fin 9) (k : Fin 8) (hi : Bool) (bin : BitVec 6) : BitVec 6 :=
  ((s.coef (0x20 + 8 * a.val + k.val)).body.getD (48 + (if hi then 64 else 0) + bin.toNat) 0).setWidth 6

/-- The threshold code in force. While it settles it lies between the old and the new one, give or take 1 LSB (R133). -/
def Cmp.code (c : Cmp) (settled ck : Nat) : Int :=
  let new := (bits c.now 0 12).toNat
  let old := c.was.toNat
  if settled ≤ ck || old = new then new
  else (min old new : Nat) - 1 + (Config.settling ck % (max old new - min old new + 3) : Nat)

/-- Threshold and hysteresis in µV at the comparator input (R90, Table 5-1). -/
def Cmp.threshold (c : Cmp) (settled ck : Nat) : Int := (c.code settled ck - 2048) * 500
def Cmp.hysteresis (c : Cmp) : Int := (bits c.now 16 5).toNat * 1250

/-- The sum of the trims of the first `n` upper unit elements of a DAC, in 1/16 LSB (R150). -/
def elements (body : List Byte) (i n : Nat) : Int := ((body.drop i).take n).foldl (fun (v : Int) b => v + b.toInt) 0

/-- What a slot's coefficients add to a comparator's threshold, in 1/4 µV: TDAC_ELEM of the unit elements that the code
turns on, less CMP_OFFSET, which is added to the input (R150, log 168). -/
def State.cmpTrim (s : State) (a : Fin 9) (k : Fin 8) (hi : Bool) : Int :=
  let b := s.abays[a]
  let body := (s.coef (0x20 + 8 * a.val + k.val)).body
  let on := min 15 ((b.slots[k].cmp hi).code b.settled s.ck / 256).toNat
  125 * elements body (18 + if hi then 15 else 0) on - 250 * (rd 16 body (12 + if hi then 2 else 0) 2).toInt

/-- The changes of a comparator's output along its input, each with its bin and the new output: it rises above the
threshold, and falls below the threshold minus the hysteresis (R90). -/
def crossings (thr low : Int) : Bool → List (BitVec 6 × Int) → List (BitVec 6 × Bool)
  | _, [] => []
  | out, (bin, v) :: rest =>
    let next := if thr < v then true else if v < low then false else out
    if next = out then crossings thr low out rest else (bin, next) :: crossings thr low next rest

/-- EDGE lets a change of the output be reported (Table 5-1). -/
def Cmp.reports (c : Cmp) (rising : Bool) : Bool :=
  let e := bits c.now 24 2
  e = 2 || (e = 0 && rising) || (e = 1 && !rising)

/-! ### Octet crossbar (R101 to R104) -/

/-- ZIN of the two bays agrees in every slot (R102). -/
def State.sameZin (s : State) (a b : Nat) : Bool :=
  match (fin a : Option (Fin 9)), (fin b : Option (Fin 9)) with
  | some a, some b => (List.finRange 8).all fun k => bits s.abays[a].slots[k].cfg 4 2 = bits s.abays[b].slots[k].cfg 4 2
  | _, _ => true

/-- What XBAR_OCT_o refuses with CONFLICT. -/
def State.octConflict (s : State) (o : Fin 8) (pri sec : BitVec 4) : Bool :=
  let oldP := s.xbar.primary[o]
  let oldS := s.xbar.secondary[o]
  let named := octBays pri sec
  (named.any fun b => (List.finRange 8).any fun x => x ≠ o && (octBays s.xbar.primary[x] s.xbar.secondary[x]).contains b) ||
  (!isBay pri && isBay sec) ||
  (isBay pri && isBay sec && pri = oldS && sec = oldP && !s.sameZin pri.toNat sec.toNat) ||
  ((named ++ octBays oldP oldS).any s.inRepair)

/-- Every termination follows ZIN in effect of the octet's primary bay; without a primary bay it stays (R102, log 131). -/
def State.terminate (s : State) : State :=
  let zin (i : Fin 64) : BitVec 2 :=
    match (fin s.xbar.primaryNow[i.val / 8].toNat : Option (Fin 9)) with
    | some a => bits s.abays[a].slots[i.val % 8].cfgNow 4 2
    | none => s.xbar.zin[i]
  { s with xbar := { s.xbar with zin := Vector.ofFn zin } }

/-- Mask every slot of a bay (R103). -/
def State.maskBay (s : State) (a : Fin 9) : State :=
  s.onAbay a fun b => { b with slots := b.slots.map fun k => { k with masked := true } }

/-- The crossbar's written entries take effect; newly connected bays are masked (R103). -/
def State.applyXbar (s : State) : State :=
  let fresh := (List.finRange 9).filter fun a => (List.finRange 8).any fun o =>
    (octBays s.xbar.primary[o] s.xbar.secondary[o]).contains a.val &&
    !(octBays s.xbar.primaryNow[o] s.xbar.secondaryNow[o]).contains a.val
  let s := { s with xbar := { s.xbar with
    primaryNow := s.xbar.primary, secondaryNow := s.xbar.secondary, pending := false } }
  (s.each fresh State.maskBay).terminate

/-! ### Registers (Tables 5-3, 5-4) -/

inductive AbayReg where
  | status
  | slotEn
  | sumCfg
  | mux
  | so
  | events
  | clear
  | thrCtrl
  | slotCfg (k : Fin 8)
  | cmpLo (k : Fin 8)
  | cmpHi (k : Fin 8)
  | slotCnt (k : Fin 8)
deriving DecidableEq, Repr

def slotWord (x : Slot) : Word := flag x.ovl 0 ||| field x.lo.double 8 ||| field x.hi.double 16

def abayStatus (s : State) (a : Fin 9) : Word :=
  flag (s.isOn (domOfA a)) 0 ||| flag (s.isSecondary a) 1 |||
  field (match s.octetOf a with | some o => BitVec.ofNat 4 o.val | none => (0xF : BitVec 4)) 2 |||
  wordOfBits (((List.finRange 8).filter fun k => s.abays[a].slots[k].masked).map fun k => 8 + k.val) |||
  flag s.abays[a].sumOvl 16

def cmpMask : Word := 0x031F0FFF
def cmpRange (w : Word) : Bool := (bits w 16 5).toNat ≤ 16 && (bits w 24 2).toNat ≤ 2

/-- The settings of a comparator: refused while an engine holds it (R135), staged while HOLD is 1 (R134). -/
def cmpAccess (s : State) (a : Fin 9) (k : Fin 8) (hi own : Bool) : Access where
  val := (s.abays[a].slots[k].cmp hi).set
  mask := cmpMask
  writable := true
  who := fun _ => own
  doms := fun _ => [domOfA a]
  range := cmpRange
  rule := fun _ _ => if s.unitHeld (0x20 + 8 * a.val + k.val) || s.inRepair a.val then some Status.conflict else none
  act := fun _ v s =>
    let w := v &&& cmpMask
    let hold := s.abays[a].hold
    s.onSlot a k fun x => x.onCmp hi fun c => { c with set := w, use := if hold then c.use else w }

def abayAccess (p : Fin 32) (a : Fin 9) (r : AbayReg) (s : State) : Access :=
  let b := s.abays[a]
  let own := s.owns p a.val
  let doms := [domOfA a]
  let reps : Option Byte := if s.inRepair a.val then some Status.conflict else none
  match r with
  | .status =>
    { val := abayStatus s a, mask := 0x0001FF3F, writable := true, who := fun _ => own, doms := fun _ => doms
      act := fun _ v s => s.onAbay a fun b => { b with sumOvl := b.sumOvl && !testBit v 16 } }
  | .slotEn => rwReg (field b.slotEn 0) 0xFF own (doms := doms) fun v s => s.onAbay a fun b => { b with slotEn := bits v 0 8 }
  | .sumCfg =>
    { val := b.sumCfg, mask := 0x00F3FFFF, writable := true, who := fun _ => own, doms := fun _ => doms
      rule := fun _ v => if asbLoop s.xbar.lines (s.sumConf a v b.so) then some Status.conflict else none
      act := fun _ v s => s.onAbay a fun b => { b with sumCfg := v &&& 0x00F3FFFF } }
  | .mux =>
    { val := b.mux, mask := 0x1F1F, writable := true, who := fun _ => own, doms := fun _ => doms
      range := fun v => (bits v 0 5).toNat ≤ 22 && (bits v 8 5).toNat ≤ 22
      rule := fun _ _ => reps
      act := fun _ v s => s.onAbay a fun b => { b with mux := v &&& 0x1F1F } }
  | .so =>
    { val := b.so, mask := 0xFFFF, writable := true, who := fun _ => own, doms := fun _ => doms
      range := fun v => [0, 1].all fun k => soSrc v k ≤ 17 || soSrc v k = 22
      rule := fun _ v =>
        if reps.isSome then reps
        else match soLines s a v with
          | some ls => if asbLoop ls (s.sumConf a b.sumCfg v) then some Status.conflict else none
          | none => some Status.conflict
      act := fun _ v s =>
        match soLines s a v with
        | some ls =>
          let before := s.xbar.lines
          let s := { s with xbar := { s.xbar with lines := ls } }
          (s.onAbay a fun b => { b with so := v &&& 0xFFFF }).displaceSums before
        | none => s }
  | .events => w1cReg own b.events 3 .abay a.val doms
  | .clear => clearReg own (doms := doms) fun s =>
      s.onAbay a fun b => b.onCmps fun c => { c with double := 0 }
  | .thrCtrl => rwReg (bit b.hold) 1 own (doms := doms) fun v s => s.onAbay a fun b =>
      if testBit v 0 then { b with hold := true } else { b.onCmps fun c => { c with use := c.set } with hold := false }
  | .slotCfg k => rwReg b.slots[k].cfg 0x071F0737 own (doms := doms)
      (range := fun v => (bits v 0 3).toNat ≤ 5 && (bits v 4 2).toNat ≤ 2 && (bits v 8 3).toNat ≤ 4)
      fun v s => s.onSlot a k fun x => { x with cfg := v }
  | .cmpLo k => cmpAccess s a k false own
  | .cmpHi k => cmpAccess s a k true own
  | .slotCnt k =>
    { val := slotWord b.slots[k], mask := 0x00FFFF01, writable := true, who := fun _ => own, doms := fun _ => doms
      act := fun _ v s => s.onSlot a k fun x => { x with ovl := x.ovl && !testBit v 0 } }

inductive XbarReg where
  | oct (o : Fin 8)
  | status
  | asb
deriving DecidableEq, Repr

/-- XBAR_ASB: driving bay, sum output and class of each line. -/
def asbWord (s : State) : Word :=
  (List.finRange 4).foldl (fun (w : Word) n =>
    match s.xbar.lines[n] with
    | some d => w ||| BitVec.ofNat 32 ((d.bay.val + 16 * d.so.val + 32 * d.cls.code) * 2 ^ (8 * n.val))
    | none => w ||| BitVec.ofNat 32 (0xF * 2 ^ (8 * n.val))) 0

def xbarAccess (p : Fin 32) (r : XbarReg) (s : State) : Access :=
  match r with
  | .oct o =>
    let old := octBays s.xbar.primary[o] s.xbar.secondary[o]
    let new (v : Word) := octBays (bits v 0 4) (bits v 4 4)
    let moved (v : Word) := (new v).filter (fun b => !old.contains b) ++ old.filter (fun b => !(new v).contains b)
    { val := field s.xbar.primary[o] 0 ||| field s.xbar.secondary[o] 4, mask := 0xFF, writable := true
      who := fun v => s.owns p (0x30 + o.val) && (moved v).all (s.owns p)
      doms := fun v => (new v ++ old).filterMap fin
      range := fun v =>
        let pri := bits v 0 4
        let sec := bits v 4 4
        (isBay pri || pri = 0xF) && (isBay sec || sec = 0xF) && !(isBay pri && pri = sec)
      rule := fun _ v => if s.octConflict o (bits v 0 4) (bits v 4 4) then some Status.conflict else none
      act := fun _ v s => { s with xbar := { s.xbar with
        primary := s.xbar.primary.set o (bits v 0 4), secondary := s.xbar.secondary.set o (bits v 4 4), pending := true } } }
  | .status => roReg (bit s.xbar.pending) 1
  | .asb => roReg (asbWord s) 0x7F7F7F7F

/-! ### Meanings -/

/-- SLOT_SETTINGS_APPLY (R91): at the boundary the slot's settings apply; a change masks the slot. -/
def execSlotSettingsApply (a : Fin 9) (k : Fin 8) (s : State) : Outcome :=
  whenHw s fun s =>
    if s.isOn (domOfA a) then
      (s.onSlot a k fun x => { x with cfgNow := x.cfg, masked := x.masked || x.cfg ≠ x.cfgNow }).terminate
    else s

/-- SLOT_MASK_END (R91): 16 frames after, the slot delivers again. -/
def execSlotMaskEnd (a : Fin 9) (k : Fin 8) (s : State) : Outcome :=
  whenHw s fun s => s.onSlot a k fun x => { x with masked := false }

/-- The input of a slot: 0 V in a bay that no octet names, and disconnected while a job holds the slot (R101, R154). -/
def State.slotPin (s : State) (a : Fin 9) (k : Fin 8) (input : Int) : Int :=
  if s.unitHeld (0x20 + 8 * a.val + k.val) then 0 else s.comes a input

/-- The preamplifier's output leaves its linear range (R89): `input` is in µV at the sash pin, and PREAMP_GAIN trims the gain
(R150, log 168). -/
def State.overloads (s : State) (a : Fin 9) (k : Fin 8) (input : Int) : Bool :=
  let g := (bits s.abays[a].slots[k].cfgNow 0 3).toNat
  let trim := (rd 16 (s.coef (0x20 + 8 * a.val + k.val)).body (2 * g) 2).toNat
  decide (fullScale * 32768 < (s.slotPin a k input * 2 ^ g * trim).natAbs)

/-- SLOT_OVERLOAD_DETECT (R96): OVL is latched; the first latch raises ABAY_OVERLOAD. -/
def execSlotOverloadDetect (a : Fin 9) (k : Fin 8) (input : Int) (s : State) : Outcome :=
  whenHw s fun s =>
    if s.isOn (domOfA a) then
      let unit := BitVec.ofNat 8 (8 * a.val + k.val)
      let (seen, injected, s) := s.check 0x0C0 unit (s.overloads a k input)
      if seen && !s.abays[a].slots[k].ovl then
        (s.onSlot a k fun x => { x with ovl := true }).raise {
          ev := .abayOverload, det := 0x0C0, inst := a.val, unit := unit, part := (s.ownOf a.val).owner, injected := injected
          args := [BitVec.ofNat 8 a.val, BitVec.ofNat 8 k.val] }
      else s
    else s

/-- A voltage of a bay that an operand gives (log 169): 0 V in a bay that no octet names (R101). -/
def State.bayVolt (s : State) (volts : List Int) (a : Fin 9) (i : Nat) : Int := s.comes a (volts.getD (16 * a.val + i) 0)

/-- A slot's input of the sum node: 0 while a job holds the slot (R97, R154). -/
def State.slotIn (s : State) (volts : List Int) (a : Fin 9) (k : Fin 8) : Int :=
  if s.unitHeld (0x20 + 8 * a.val + k.val) then 0 else s.bayVolt volts a k.val

/-- The sum node before SUM_GAIN and saturation, in µV, from the slots' filter outputs and the ASB lines in effect (R97). -/
def State.sumNode (s : State) (volts : List Int) (lines : Fin 4 → Int) (a : Fin 9) : Int :=
  let b := s.abays[a]
  let slots := ((List.finRange 8).filter fun k => testBit b.sumCfg k.val).map fun k =>
    (if testBit b.sumCfg (8 + k.val) then -1 else 1) * s.slotIn volts a k
  (slots ++ ((List.finRange 4).filter fun n => testBit b.asbNow n.val).map lines).foldl (· + ·) 0

/-- SUM_GAIN divides by 2 to its code (R97). -/
def ABay.sumDiv (b : ABay) : Nat := 2 ^ (bits b.sumCfg 16 2).toNat

/-- The output of the sum node: it saturates at ±1.0 V (R97). -/
def State.sumOut (s : State) (volts : List Int) (lines : Fin 4 → Int) (a : Fin 9) : Int :=
  clip (-fullScale) fullScale (roundDiv (s.sumNode volts lines a) s.abays[a].sumDiv)

/-- The signal that the switch matrix of a bay passes for a code of Table 5-2, in µV (R98). -/
def State.switched (s : State) (volts : List Int) (lines : Fin 4 → Int) (a : Fin 9) (code : Nat) : Int :=
  if code = 0 then 0
  else if code ≤ 16 then s.bayVolt volts a (code - 1)
  else if code = 17 then s.sumOut volts lines a
  else match (fin (code - 18) : Option (Fin 4)) with
    | some n => lines n
    | none => 0

/-- What an ASB line carries: what its driver puts on it, and 0 V from an output that is not in effect and from a bay that is
not ON (R98 to R100). The lines are followed back through `k` sum nodes; a chain of four that goes on passes through itself,
and the operand gives that line (log 169). -/
def State.lineVolt (s : State) (volts : List Int) : Nat → Fin 4 → Int
  | 0, n => volts.getD (144 + n.val) 0
  | k + 1, n => match s.xbar.lines[n] with
    | some d =>
      let so := s.abays[d.bay].soNow
      if soEn so d.so && soLine so d.so = n && s.isOn (domOfA d.bay) then s.switched volts (s.lineVolt volts k) d.bay (soSrc so d.so) else 0
    | none => 0

/-- What each ASB line carries. -/
def State.line (s : State) (volts : List Int) : Fin 4 → Int := s.lineVolt volts 4

/-- The sum leaves the range of the output (R97). -/
def ABay.saturates (b : ABay) (sum : Int) : Bool := decide (fullScale * b.sumDiv < sum.natAbs)

/-- SUM_SATURATION (R97): voltages that saturate the sum node latch SUM_OVL. -/
def execSumSaturation (a : Fin 9) (volts : List Int) (s : State) : Outcome :=
  whenHw s fun s =>
    if s.isOn (domOfA a) && s.abays[a].saturates (s.sumNode volts (s.line volts) a) then s.onAbay a fun b => { b with sumOvl := true }
    else s

/-- Claim an ASB line for a sum output at a class (R99): the winner drives it, or CONFLICT is the access's outcome. -/
def State.claimAsb (s : State) (a : Fin 9) (k : Fin 2) (line : Fin 4) (cls : Cls) : State :=
  match claimLine (releaseLines s.xbar.lines a k) { bay := a, so := k, cls := cls } line with
  | some ls =>
    let so := setBit ((s.abays[a].so &&& ~~~(ones (8 * k.val + 5) 2)) ||| BitVec.ofNat 32 (line.val * 2 ^ (8 * k.val + 5)))
      (8 * k.val + 7)
    if asbLoop ls (s.sumConf a s.abays[a].sumCfg so) then { s with acc := (Status.conflict, 0) }
    else
      let before := s.xbar.lines
      let s := { s with xbar := { s.xbar with lines := ls }, acc := (Status.done, 0) }
      (s.onAbay a fun b => { b with so := so }).displaceSums before
  | none => { s with acc := (Status.conflict, 0) }

/-- ASB_LINE_CLAIM (R99, R104). -/
def execAsbLineClaim (a : Fin 9) (k : Fin 2) (line : Fin 4) (cls : Cls) (s : State) : Outcome :=
  whenHw s fun s =>
    if s.inRepair a.val && cls ≠ .repair then { s with acc := (Status.conflict, 0) } else s.claimAsb a k line cls

/-- SUM_OUTPUT_APPLY (R100): sum outputs and ASB inputs act at the boundary. -/
def execSumOutputApply (a : Fin 9) (s : State) : Outcome :=
  whenHw s fun s => s.onAbay a fun b => { b with soNow := b.so, asbNow := bits b.sumCfg 20 4 }

/-- XBAR_APPLY (R103). -/
def execXbarApply (s : State) : Outcome := whenHw s State.applyXbar

/-- The comparator input in 1/4 µV, by bin: within its range of ±1.0 V, and 0 V in a bay that is not connected (R89, R101). -/
def State.cmpInput (s : State) (a : Fin 9) (input : List (BitVec 6 × Int)) : List (BitVec 6 × Int) :=
  input.map fun x => (x.1, 4 * clip (-fullScale) fullScale (s.comes a x.2))

/-- COMPARATOR_CROSSING (R90, R92 to R94): `input` is the comparator input in µV along this cycle, by bin. The record
carries the first reportable edge, and each further one counts in DOUBLE; it is presented six cycles later. -/
def execComparatorCrossing (a : Fin 9) (k : Fin 8) (hi : Bool) (input : List (BitVec 6 × Int)) (s : State) : Outcome :=
  whenHw s fun s =>
    if s.isOn (domOfA a) then
      let c := s.abays[a].slots[k].cmp hi
      let thr := 4 * c.threshold s.abays[a].settled s.ck + s.cmpTrim a k hi
      let changes := crossings thr (thr - 4 * c.hysteresis) c.out (s.cmpInput a input)
      let out := match changes.getLast? with | some x => x.2 | none => c.out
      let rep := if s.delivers a k then changes.filter fun x => c.reports x.2 else []
      let byte : Byte := (if out then 1 else 0) ||| match rep with
        | e :: _ => 2 ||| ((s.ftMap a k hi e.1).setWidth 8 <<< 2)
        | [] => 0
      let s := s.onSlot a k fun x => x.onCmp hi fun c => { c with out := out, double := satAdd c.double (rep.length - 1) }
      s.onAbay a fun b => { b with feedQ := b.feedQ ++ [{ due := s.ck + 6, slot := k, hi := hi, byte := byte }] }
    else s

/-- A load of a comparator's THRESH, HYST and EDGE. -/
def Cmp.load (c : Cmp) : Cmp := { c with was := bits c.now 0 12, now := c.use }

/-- Load a bay's thresholds, of each slot that no job holds (R133 to R135). They settle in 8 CK. -/
def State.loadThresholds (s : State) (a : Fin 9) : State :=
  let s := s.onAbay a fun b => { b with settled := s.ck + 8 }
  s.each (List.finRange 8) fun s k =>
    if s.unitHeld (0x20 + 8 * a.val + k.val) then s else s.onSlot a k fun x => x.onCmps Cmp.load

/-- THRESHOLD_LOAD (R133, R134): at the boundary; values staged by HOLD wait for its release. -/
def execThresholdLoad (a : Fin 9) (s : State) : Outcome :=
  whenHw s fun s => if s.isOn (domOfA a) then s.loadThresholds a else s

end Sys2Proof.Machine
end

