-- ==== Sys2Proof/Machine/Converters.lean ====
section
/-!
DEFINITION. Converters: entries, starts, urgent requests, references, windows, results, groups and timers (06).
-/
namespace Sys2Proof.Machine

/-! ### Fields -/

def adcEn (c : Word) : Bool := testBit c 0
def adcEdge (c : Word) : Bool := testBit c 1
def adcSrc (c : Word) : Nat := (bits c 2 6).toNat
def adcDest (c : Word) : Nat := (bits c 20 2).toNat
def adcFullMode (c : Word) : Bool := testBit c 22
def adcGapYield (c : Word) : Bool := testBit c 23
def adcLoop (c : Word) : Bool := testBit c 24
def adcWinEvt (c : Word) : Bool := testBit c 25

def entAvg (c : Word) : Nat := (bits c 5 3).toNat
def entCount (c : Word) : Nat := (bits c 8 8).toNat + 1
def entLast (c : Word) : Bool := testBit c 26
def winLow (w : Word) : Int := (bits w 0 14).toInt
def winHigh (w : Word) : Int := (bits w 16 14).toInt

def adcUnit (n : Fin 18) : Byte := BitVec.ofNat 8 n.val
def adcDom (n : Fin 18) : Fin 32 := domOfA (bayOfAdc n)
def State.adcOwner (s : State) (n : Fin 18) : Fin 32 := (s.ownOf (0x40 + n.val)).owner

/-- The sequencer's state: DISABLED while the bay's domain is not ON or the bay is in reset (R129). -/
def State.adcState (s : State) (n : Fin 18) : AdcState :=
  if s.isOn (adcDom n) && !s.abays[bayOfAdc n].inReset then s.adcs[n].state else .disabled

/-- The group an ADC is a member of (R115). -/
def State.groupOf (s : State) (n : Fin 18) : Option (Fin 8) := (List.finRange 8).find? fun g => testBit s.groups[g].mask n.val

/-- The members of a mask. -/
def members (m : BitVec 18) : List (Fin 18) := (List.finRange 18).filter fun n => testBit m n.val

def adcStateCode : AdcState → Nat
  | .disabled => 0
  | .idle => 1
  | .waitRef => 2
  | .delay => 3
  | .running => 4
  | .urgent => 5
  | .lent => 6

/-! ### Sequencing (R107 to R112, R117 to R120) -/

/-- No sequence: a partly averaged result is discarded without a tag (R127, R129). -/
def Adc.stopped (x : Adc) (st : AdcState) : Adc :=
  { x with
    state := st, done := 0, taken := 0, acc := 0, clip := false, unsettled := false, shift := false, late := false
    heldStart := false, urgCut := false, urgPend := x.pipe.any (·.urgent) }

/-- A start begins entry 0 in DELAY, or is held while the reference is not ready (R110, R120). -/
def Adc.begin (x : Adc) (width : Half) (late : Bool) : Adc :=
  let x := { x.stopped .delay with entry := 0, width := width, late := late, urgPend := x.urgPend }
  if x.refRdy || x.force then x else { x with state := .waitRef, heldStart := true }

def State.startMiss (s : State) (n : Fin 18) : State := s.onAdc n fun x => { x with startMiss := satInc x.startMiss }

/-- A start reaches an enabled ADC (R110, R112, R120, R128). A start with EN 0 is ignored (log 186). -/
def State.adcBegin (s : State) (n : Fin 18) (width : Half) : State :=
  if !adcEn s.adcs[n].ctrl then s
  else match s.adcState n with
    | .idle => s.onAdc n fun x => x.begin width false
    | .lent =>
      if s.adcs[n].cls = .gap && !s.adcs[n].heldStart then s.onAdc n fun x => { x with heldStart := true, width := width }
      else s.startMiss n
    | _ => s.startMiss n

/-- A code with a unit's GAIN (0x8000 is 1) and OFFSET (1/16 code) applied, rounded half away from zero (R150, log 76). -/
def trimmed (gain : Half) (offset : Half) (code : Int) : Int := roundDiv (code * gain.toNat + offset.toInt * 2048) 32768

/-- Result code: the mean of the samples, rounded half away from zero (R107), with the gain and offset of the current
reference (R150). -/
def adcCode (coef : List Byte) (refSel : BitVec 2) (sum : Int) (avg : Nat) : Int :=
  trimmed (rd 16 coef (2 * refSel.toNat) 2) (rd 16 coef (6 + 2 * refSel.toNat) 2) (roundDiv sum (2 ^ avg))

def clip14 (v : Int) : Int := clip (-8192) 8191 v

/-- The entry in hand has its COUNT of results. -/
def Adc.ended (x : Adc) : Bool := x.taken = 0 && entCount x.entCfg[x.entry] ≤ x.done

/-- The entry in hand is the last of the sequence (R108). -/
def Adc.atLast (x : Adc) : Bool := entLast x.entCfg[x.entry] || x.entry = 15

/-- From an entry that has ended: the next entry, or with LOOP a wait for the restart, or IDLE (R108). -/
def Adc.moveOn (x : Adc) : Adc :=
  if !x.ended then x
  else if !x.atLast then { x with entry := x.entry + 1, done := 0, shift := false }
  else if adcLoop x.ctrl then x
  else { x.stopped .idle with urgPend := x.urgPend }

/-- The source of Table 5-2 that an entry converts: its own, or with code 31 the one that ABAY_MUX names (R98, R107). -/
def State.adcSource (s : State) (n : Fin 18) (e : Fin 16) : Nat :=
  let k := (bits s.adcs[n].entCfg[e] 0 5).toNat
  if k = 31 then (bits s.abays[bayOfAdc n].mux (8 * (n.val % 2)) 5).toNat else k

/-- The voltage at the ADC's input, in µV: what the switch matrix passes for its source (R98, R101). -/
def State.adcVolt (s : State) (n : Fin 18) (e : Fin 16) (volts : List Int) : Int :=
  s.switched volts (s.line volts) (bayOfAdc n) (s.adcSource n e)

/-- A voltage in µV in codes of a reference (Table 6-2), rounded half away from zero; `vref` is VREF_EXT in µV. -/
def inCodes (refSel : BitVec 2) (vref : Nat) (v : Int) : Int :=
  match refSel.toNat with
  | 0 => roundDiv v 125
  | 1 => roundDiv (v * 16384) vref
  | _ => roundDiv (v * 16384) 2500000

/-- The raw sample of the entry's source: its voltage in codes, and the deviation of this conversion (log 169). -/
def State.adcInput (s : State) (n : Fin 18) (e : Fin 16) (w : Analog) : Int :=
  inCodes s.adcs[n].refSel w.vref (s.adcVolt n e w.volts) + w.dev

/-- One sample of entry `e`: the result that it completes, if any, and the ADC (R107 to R109). -/
def State.adcSample (s : State) (n : Fin 18) (raw : Int) : State :=
  let x := s.adcs[n]
  let c := x.entCfg[x.entry]
  let x : Adc := { x with
    state := .running, urgCut := false, acc := x.acc + clip14 raw, clip := x.clip || clip14 raw ≠ raw
    unsettled := x.unsettled || !x.refRdy, taken := x.taken + 1 }
  let x : Adc :=
    if x.taken < 2 ^ entAvg c then x
    else
      let v := adcCode (s.coef n.val).body x.refSel x.acc (entAvg c)
      let r : Sample := {
        code := BitVec.ofInt 16 (clip14 v), entry := x.entry, urgent := false, shift := x.shift, unsettled := x.unsettled
        late := x.late, clip := x.clip || clip14 v ≠ v, width := x.width, et := s.clk.et }
      { x with pipe := x.pipe ++ [r], done := x.done + 1, taken := 0, acc := 0, clip := false, unsettled := false }
  s.onAdc n fun _ => x.moveOn

/-! ### Results (R121 to R126) -/

/-- Table 6-3. -/
def resultBytes (r : Sample) (tag : Half) (win : Bool) : List Byte :=
  le 2 r.code ++ le 2 tag ++ [BitVec.ofNat 8 r.entry.val,
    BitVec.setWidth 8 (flag win 0 ||| flag r.urgent 1 ||| flag r.shift 2 ||| flag r.unsettled 3 ||| flag r.late 4 ||| flag r.clip 5)] ++
    le 2 r.width ++ le 6 r.et ++ [0, 0]

/-- The bay's result stream takes a result, or drops it when its 32 places are full (R294). -/
def State.stream (s : State) (a : Fin 9) (rec : List Byte) : State :=
  let (full, injected, s) := s.check 0x241 (BitVec.ofNat 8 a.val) (s.arb.streams[a].length ≥ 32)
  if full then
    let s := (s.onReq ⟨18 + a.val, by omega⟩ fun q => { q with dropped := satInc q.dropped }).skipRseq ⟨18 + a.val, by omega⟩ 1
    s.raise { ev := .arbStreamDrop, det := 0x241, unit := BitVec.ofNat 8 a.val, part := (s.ownOf a.val).owner, injected := injected,
              limit := .msAny }
  else { s with arb := { s.arb with streams := upd s.arb.streams a fun q => q ++ [rec] } }

/-- The result queue takes a result; at 64 one is discarded (R124). -/
def State.enqueue (s : State) (n : Fin 18) (rec : List Byte) : State :=
  let x := s.adcs[n]
  if x.queue.length ≥ 64 then
    s.onAdc n fun x => { x with lost := satInc x.lost, queue := if adcFullMode x.ctrl then x.queue.drop 1 ++ [rec] else x.queue }
  else
    let s := s.onAdc n fun x => { x with queue := x.queue ++ [rec] }
    if x.queue.length = 63 && x.fullArmed then
      (s.onAdc n fun x => { x with fullArmed := false }).raise {
        ev := .adcQueueFull, inst := n.val, unit := adcUnit n, part := s.adcOwner n, marks := s.tripMark (adcDom n) }
    else s

/-- Remove `k` results; the full event is armed again below 32 (R124). -/
def State.dequeue (s : State) (n : Fin 18) (k : Nat) : State :=
  s.onAdc n fun x => { x with queue := x.queue.drop k, fullArmed := x.fullArmed || x.queue.length - k < 32 }

/-- Window comparison: the firing and the new inside state (R121). -/
def windowFires (cfg win : Word) (inside : Option Bool) (code : Half) : Bool × Option Bool :=
  if testBit cfg 24 then
    let now := decide (winLow win ≤ code.toInt) && decide (code.toInt ≤ winHigh win)
    (match inside with
      | some true => !now
      | some false => now && testBit cfg 25
      | none => false, some now)
  else (false, inside)

/-- The oldest completed result is tagged, compared with its band and queued or streamed (R121 to R124). -/
def State.deliver (s : State) (n : Fin 18) : State :=
  match s.adcs[n].pipe with
  | [] => s
  | r :: rest =>
    let x := s.adcs[n]
    let (win, inside) := windowFires x.entCfg[r.entry] x.entWin[r.entry] x.inside[r.entry] r.code
    let rec16 := resultBytes r x.tag win
    let st := if r.urgent && x.state = .urgent then (if x.urgCut then AdcState.running else .idle) else x.state
    let s := s.onAdc n fun x => { x with
      pipe := rest, tag := x.tag + 1, inside := x.inside.set r.entry inside, state := st
      urgPend := x.urgPend && !r.urgent, wev := x.wev || win, winCnt := if win then satInc x.winCnt else x.winCnt }
    let s := if win && adcWinEvt x.ctrl then
        s.raise { ev := .adcWindow, inst := n.val, unit := adcUnit n, part := s.adcOwner n, limit := .msNext }
      else s
    let s := if adcDest x.ctrl ≠ 1 then s.enqueue n rec16 else s
    if adcDest x.ctrl ≠ 0 then s.stream (bayOfAdc n) rec16 else s

/-! ### Claims (R127 to R129) -/

/-- What holds an ADC or a timer now: an engine's class, user class while EN is set, or nothing. -/
def holderRank (cls : Cls) (en : Bool) : Option Nat :=
  if cls ≠ .user then some cls.rank else if en then some (Cls.rank .user) else none

/-- A claimant of higher class takes the resource (R127). -/
def outranks (cls held : Cls) (en : Bool) : Bool :=
  cls ≠ .user && (match holderRank held en with | some r => r < cls.rank | none => true)

/-- An ADC goes to state LENT under an engine's class (R127, R128). -/
def State.lendAdc (s : State) (n : Fin 18) (cls : Cls) : State :=
  let s := if s.adcs[n].heldStart && s.adcs[n].cls = .gap then s.startMiss n else s
  let en := adcEn s.adcs[n].ctrl
  s.onAdc n fun x => { x.stopped .lent with cls := cls, displaced := x.displaced || (en && cls ≠ .gap) }

/-- An engine claims an ADC at its class: whether it gets it (R127, R157). Gap calibration does so in gap frames (R128). -/
def State.takeAdc (s : State) (n : Fin 18) (cls : Cls) : Bool × State :=
  let x := s.adcs[n]
  if cls = .gap && !s.clk.gap then (false, s)
  else if cls = .gap && x.cls = .user && adcEn x.ctrl then
    (if adcGapYield x.ctrl && s.adcState n = .idle then (true, s.lendAdc n .gap) else (false, s))
  else if outranks cls x.cls (adcEn x.ctrl) then
    let s := s.abandonUnit n.val
    let s := s.lendAdc n cls
    (true,
      if adcEn x.ctrl && !x.displaced && cls ≠ .gap then
        s.raise { ev := .adcPreempted, inst := n.val, unit := adcUnit n, part := s.adcOwner n, marks := s.tripMark (adcDom n) }
      else s)
  else (false, s)

/-- An engine releases an ADC: IDLE again; a start held during a lent step proceeds with LATE (R127, R128). -/
def State.giveAdc (s : State) (n : Fin 18) : State :=
  let x := s.adcs[n]
  if x.cls = .user then s
  else
    let s := s.onAdc n fun x => { x with cls := .user, displaced := false, state := .idle, heldStart := false }
    let s := if x.heldStart then s.onAdc n fun y => { y with startLate := satInc y.startLate }.begin y.width true else s
    if x.displaced then
      s.raise { ev := .adcReleased, inst := n.val, unit := adcUnit n, part := s.adcOwner n, marks := s.tripMark (adcDom n) }
    else s

/-- The bay's domain becomes ON: IDLE, and the reference settles anew (R119, R129). -/
def State.adcsOn (s : State) (a : Fin 9) : State :=
  s.each [2 * a.val, 2 * a.val + 1] fun s n =>
    match fin n with
    | some n => s.onAdc n fun x => { x with state := if x.state = .lent then .lent else .idle, refRdy := false }
    | none => s

/-- The bay's domain leaves ON, or the bay enters a bay reset: a running sequence stops (R129). -/
def State.adcsOff (s : State) (a : Fin 9) : State :=
  s.each [2 * a.val, 2 * a.val + 1] fun s n =>
    match fin n with
    | some n => s.onAdc n fun x => x.stopped (if x.state = .lent then .lent else .idle)
    | none => s

/-! ### Registers (Tables 6-5, 6-6) -/

inductive AdcReg where
  | ctrl
  | urg
  | ref
  | status
  | tag
  | cnt
  | winCnt
  | events
  | cntClear
  | res (j : Fin 4)
  | resPop
  | entCfg (e : Fin 16)
  | entWin (e : Fin 16)
deriving DecidableEq, Repr

def adcStatus (s : State) (n : Fin 18) : Word :=
  let x := s.adcs[n]
  BitVec.ofNat 32 (adcStateCode (s.adcState n) + 16 * x.entry.val + 256 * x.queue.length + 65536 * x.cls.code) ||| flag x.urgPend 18

def adcCnt (x : Adc) : Word := field x.urgDrop 0 ||| field x.startMiss 8 ||| field x.lost 16 ||| field x.startLate 24
def adcRef (x : Adc) : Word := field x.refSel 0 ||| flag x.force 2 ||| flag x.refRdy 8

/-- The head record as a 128-bit field (R126). -/
def Adc.head (x : Adc) : List Byte := x.queue.headD []

/-- START_SRC names a timer or a PWE line that partition `p` does not own (R113). -/
def State.foreignSrc (s : State) (p : Fin 32) (src : Nat) : Bool :=
  (1 ≤ src && src ≤ 16 && !s.owns p (0x90 + (src - 1))) || (17 ≤ src && src ≤ 32 && !s.owns p (0xA0 + (src - 17)))

/-- A write of ADC_CTRL: a rise of EN claims at user class, a fall ends the claim (R121, R127). -/
def State.setAdcCtrl (s : State) (n : Fin 18) (v : Word) : State :=
  s.onAdc n fun x =>
    let rise := adcEn v && !adcEn x.ctrl
    let x := if adcEn x.ctrl && !adcEn v && x.state ≠ .lent then x.stopped (if x.state = .disabled then .disabled else .idle) else x
    let x := if rise && x.cls = .gap then { x.stopped .idle with cls := .user } else x
    { x with ctrl := v, inside := if rise then Vector.replicate 16 none else x.inside }

def clearAdcCnt (x : Adc) : Adc := { x with urgDrop := 0, startMiss := 0, lost := 0, startLate := 0, winCnt := 0 }

def adcAccess (p : Fin 32) (n : Fin 18) (r : AdcReg) (s : State) : Access :=
  let x := s.adcs[n]
  let own := s.owns p (0x40 + n.val)
  let doms := [adcDom n]
  match r with
  | .ctrl =>
    { val := x.ctrl, mask := 0x03FFFFFF, writable := true, who := fun v => own && !s.foreignSrc p (adcSrc v), doms := fun _ => doms
      range := fun v => adcSrc v ≤ 33 && adcDest v ≤ 2
      rule := fun _ v =>
        if adcEn v && !adcEn x.ctrl && x.cls ≠ .user && x.cls.rank ≥ Cls.rank .user then some Status.conflict else none
      act := fun _ v s =>
        let s := if adcEn v && !adcEn s.adcs[n].ctrl && s.adcs[n].cls = .gap then s.abandonUnit n.val else s
        s.setAdcCtrl n (v &&& 0x03FFFFFF) }
  | .urg => rwReg x.urg 0xFFF own (doms := doms) (range := fun v => (bits v 2 6).toNat ≤ 33) fun v s =>
      s.onAdc n fun x => { x with urg := v }
  | .ref =>
    { val := adcRef x, mask := 0x107, writable := true, who := fun _ => own, doms := fun _ => doms
      range := fun v => (bits v 0 2).toNat ≤ 2
      rule := fun _ _ => if s.adcState n = .disabled || s.adcState n = .idle then none else some Status.conflict
      act := fun _ v s => s.onAdc n fun x => { x with
        refSel := bits v 0 2, force := testBit v 2, refRdy := false
        inside := if bits v 0 2 = x.refSel then x.inside else Vector.replicate 16 none } }
  | .status => roReg (adcStatus s n) 0x00077FF7
  | .tag => roReg (field x.tag 0) 0xFFFF
  | .cnt => roReg (adcCnt x)
  | .winCnt => roReg x.winCnt
  | .events => w1cReg own x.events 0xF .adc n.val doms
  | .cntClear => clearReg own (doms := doms) fun s => s.onAdc n clearAdcCnt
  | .res j => roReg (rd 32 x.head (4 * j.val) 4)
  | .resPop =>
    { val := 0, mask := 0, writable := true, who := fun _ => own, doms := fun _ => doms
      act := fun _ v s =>
        if !s.adcs[n].queue.isEmpty && rd 16 s.adcs[n].head 2 2 = bits v 0 16 then s.dequeue n 1 else s }
  | .entCfg e => rwReg x.entCfg[e] 0x07FFFFFF own (doms := doms)
      (range := fun v => ((bits v 0 5).toNat ≤ 22 || (bits v 0 5).toNat = 31) && entAvg v ≤ 4) fun v s =>
        s.onAdc n fun x => { x with
          entCfg := x.entCfg.set e v, inside := if v = x.entCfg[e] then x.inside else x.inside.set e none }
  | .entWin e => rwReg x.entWin[e] 0x3FFF3FFF own (doms := doms) (range := fun v => decide (winLow v ≤ winHigh v)) fun v s =>
        s.onAdc n fun x => { x with
          entWin := x.entWin.set e v, inside := if v = x.entWin[e] then x.inside else x.inside.set e none }

inductive ConvReg where
  | grp (g : Fin 8)
  | grpCtrl (g : Fin 8)
  | grpCnt (g : Fin 8)
  | tmrCtrl (t : Fin 16)
  | tmrPeriod (t : Fin 16)
  | tmrOffLo (t : Fin 16)
  | tmrOffHi (t : Fin 16)
  | tmrEvents
deriving DecidableEq, Repr

/-- A member of a mask belongs to another group (R115). -/
def State.otherGroup (s : State) (g : Fin 8) (m : BitVec 18) : Bool :=
  (List.finRange 8).any fun x => x ≠ g && (s.groups[x].mask &&& m) ≠ 0

/-- A partition owns every member of a mask. -/
def State.ownsAll (s : State) (p : Fin 32) (m : BitVec 18) : Bool := (members m).all fun n => s.owns p (0x40 + n.val)

def memberDoms (m : BitVec 18) : List (Fin 32) := (members m).map adcDom

def tmrWord (x : Timer) : Word := flag x.en 0 ||| flag x.mode 1 ||| BitVec.ofNat 32 (16 * x.cls.code)

/-- EN of a timer rises while an engine of equal or higher class holds it (R127). -/
def Timer.claimRefused (x : Timer) (en : Bool) : Bool := en && !x.en && x.cls ≠ .user && x.cls.rank ≥ Cls.rank .user

/-- A user sets a timer; enabling it takes it from a lower class. -/
def Timer.set (x : Timer) (en mode : Bool) (period : Word) (offset : Et) : Timer :=
  { x with en := en, mode := mode, period := period, offset := offset, cls := if en && x.cls = .gap then .user else x.cls
           saved := if en && x.cls = .gap then none else x.saved }

def convAccess (p : Fin 32) (r : ConvReg) (s : State) : Access :=
  match r with
  | .grp g =>
    { val := field s.groups[g].mask 0, mask := 0x3FFFF, writable := true
      who := fun v => s.ownsAll p (bits v 0 18) && s.ownsAll p s.groups[g].mask
      doms := fun v => memberDoms (bits v 0 18)
      rule := fun _ v => if s.otherGroup g (bits v 0 18) then some Status.conflict else none
      act := fun _ v s => { s with groups := upd s.groups g fun x => { x with mask := bits v 0 18 } } }
  | .grpCtrl g => rwReg s.groups[g].ctrl 0x000FFF7F (s.ownsAll p s.groups[g].mask) (doms := memberDoms s.groups[g].mask)
      (range := fun v => (bits v 0 6).toNat ≤ 33) fun v s => { s with groups := upd s.groups g fun x => { x with ctrl := v } }
  | .grpCnt g => roReg (field s.groups[g].miss 0) 0xFFFF
  | .tmrCtrl t =>
    let x := s.timers[t]
    { val := tmrWord x, mask := 0x33, writable := true, who := fun _ => s.owns p (0x90 + t.val)
      rule := fun _ v =>
        if (x.en && testBit v 0 && testBit v 1 ≠ x.mode) || x.claimRefused (testBit v 0) then some Status.conflict else none
      act := fun _ v s => s.onTimer t fun x => x.set (testBit v 0) (testBit v 1) x.period x.offset }
  | .tmrPeriod t =>
    let x := s.timers[t]
    { val := x.period, writable := true, who := fun _ => s.owns p (0x90 + t.val)
      rule := fun _ v => if x.en && v ≠ x.period then some Status.conflict else none
      act := fun _ v s => s.onTimer t fun x => { x with period := v } }
  | .tmrOffLo t => { val := bits s.timers[t].offset 0 32, writable := true, who := fun _ => s.owns p (0x90 + t.val) }
  | .tmrOffHi t =>
    let x := s.timers[t]
    let whole (lo : Option Word) (v : Word) : Et := bits v 0 16 ++ lo.getD (bits x.offset 0 32)
    { val := field (bits x.offset 32 16) 0, mask := 0xFFFF, writable := true, who := fun _ => s.owns p (0x90 + t.val)
      rule := fun lo v => if x.en && whole lo v ≠ x.offset then some Status.conflict else none
      act := fun lo v s => s.onTimer t fun x => { x with offset := whole lo v } }
  | .tmrEvents =>
    { val := s.tmrEvents, writable := true
      who := fun v => (bitList 32 v).all fun i => s.owns p (0x90 + i % 16)
      act := fun _ v s => s.onLatch .tmr 0 fun w => w &&& ~~~v }

/-! ### Meanings: moments -/

/-- The event of a start source falls in this cycle (R110): a timer fires for user class (R127), a PWE line rises, or falls
with START_EDGE 1, or the trigger accept line rises. -/
def State.srcFires (s : State) (src : Nat) (edge : Bool) : Bool :=
  if src = 0 then false
  else if src ≤ 16 then (match (fin (src - 1) : Option (Fin 16)) with
    | some t => s.timers[t].fired && s.timers[t].cls == .user
    | none => false)
  else match (fin (src - 17) : Option (Fin 17)) with
    | some k =>
      let x := s.lin.lines[k]
      if edge && k.val < 16 then x.was && !x.now else !x.was && x.now
    | none => false

/-- WIDTH that a start gives its results: the length of the PWE pulse that ended (R111). -/
def State.srcWidth (s : State) (src : Nat) (edge : Bool) : Half :=
  if edge && 17 ≤ src then (match (fin (src - 17) : Option (Fin 16)) with | some k => s.lin.lines[k.castSucc].width | none => 0) else 0

/-- Take bit `n` out of the waiting ADC_START commands; one whose mask is empty completes (R110, R130). -/
def State.servedStart (s : State) (n : Fin 18) : State :=
  let cleared := s.adcStarts.map fun x => (x.1, clearBit x.2 n.val)
  let s := { s with adcStarts := cleared.filter fun x => x.2 ≠ 0 }
  s.finishAll ((cleared.filter fun x => x.2 = 0).map (·.1)) (done [])

/-- ADC_START_EVENT (R110 to R112): a command start at its boundary, or the event of the ADC's own source. -/
def execAdcStartEvent (n : Fin 18) (s : State) : Outcome :=
  whenHw s fun s =>
    let src := adcSrc s.adcs[n].ctrl
    let edge := adcEdge s.adcs[n].ctrl
    if (s.groupOf n).isSome then s
    else if s.clk.atBoundary && s.adcStarts.any fun x => testBit x.2 n.val then (s.adcBegin n 0).servedStart n
    else if s.srcFires src edge then s.adcBegin n (s.srcWidth src edge)
    else s

/-- A sample of the entry in hand, from the source that it names. -/
def State.sampleEntry (s : State) (n : Fin 18) (w : Analog) : State := s.adcSample n (s.adcInput n s.adcs[n].entry w)

/-- A sequence has taken its first sample and goes on, also while an urgent conversion that cut in is not delivered. -/
def State.sequencing (s : State) (n : Fin 18) : Bool :=
  s.adcState n = .running || (s.adcState n = .urgent && s.adcs[n].urgCut)

/-- ADC_FIRST_SAMPLE (R110). -/
def execAdcFirstSample (n : Fin 18) (w : Analog) (s : State) : Outcome :=
  whenHw s fun s => if s.adcState n = .delay then s.sampleEntry n w else s

/-- ADC_SPACING_EXPIRY (R108): the next sample of the sequence. An entry that a write of its COUNT has ended is left first
(log 170). -/
def execAdcSpacingExpiry (n : Fin 18) (w : Analog) (s : State) : Outcome :=
  whenHw s fun s =>
    if s.sequencing n then
      let s := s.onAdc n Adc.moveOn
      if s.sequencing n && !s.adcs[n].ended then s.sampleEntry n w else s
    else s

/-- ADC_LOOP_RESTART (R108): with LOOP, entry 0 again without a new start. -/
def execAdcLoopRestart (n : Fin 18) (w : Analog) (s : State) : Outcome :=
  whenHw s fun s =>
    let x := s.adcs[n]
    if s.sequencing n && x.ended && x.atLast && adcLoop x.ctrl then
      (s.onAdc n fun x => { x with entry := 0, done := 0, shift := false, late := false }).sampleEntry n w
    else s

/-- ADC_RESULT_QUEUED (R121 to R124). -/
def execAdcResultQueued (n : Fin 18) (s : State) : Outcome := whenHw s fun s => s.deliver n

/-- A member may start: enabled, IDLE, and its reference ready or FORCE set (R116). -/
def State.memberReady (s : State) (n : Fin 18) : Bool :=
  adcEn s.adcs[n].ctrl && s.adcState n == .idle && (s.adcs[n].refRdy || s.adcs[n].force)

/-- ADC_GROUP_START_EVENT (R116): every member starts, or none does and the misses are counted. -/
def execAdcGroupStartEvent (g : Fin 8) (s : State) : Outcome :=
  whenHw s fun s =>
    let ms := members s.groups[g].mask
    let src := (bits s.groups[g].ctrl 0 6).toNat
    let edge := testBit s.groups[g].ctrl 6
    let commanded := s.clk.atBoundary && ms.any fun n => s.adcStarts.any fun x => testBit x.2 n.val
    if ms.isEmpty || !(commanded || s.srcFires src edge) then s
    else
      let w := if commanded then 0 else s.srcWidth src edge
      let s :=
        if ms.all s.memberReady then s.each ms fun s n => s.onAdc n fun x => x.begin w false
        else
          let s := { s with groups := upd s.groups g fun x => { x with miss := satInc x.miss } }
          s.each ms State.startMiss
      if commanded then s.each ms State.servedStart else s

/-- The urgent conversion: one sample of URG_ENTRY's source, not averaged (R117, R118). -/
def State.urgentSample (s : State) (n : Fin 18) (raw : Int) : State :=
  let v := adcCode (s.coef n.val).body s.adcs[n].refSel (clip14 raw) 0
  s.onAdc n fun x =>
    let cut := x.state = .running
    let r : Sample := {
      code := BitVec.ofInt 16 (clip14 v), entry := (bits x.urg 8 4).toFin, urgent := true, shift := false, unsettled := !x.refRdy
      late := false, clip := clip14 raw ≠ raw || clip14 v ≠ v, width := 0, et := s.clk.et }
    { x with
      pipe := x.pipe ++ [r], urgPend := true, urgCut := cut, shift := x.shift || cut
      state := if cut || x.state = .idle then .urgent else x.state }

/-- An urgent request: counted in URG_DROP while one is pending or in progress, or in DROP mode during a running sequence
(R118); else a conversion is pending. -/
def State.urgentRequest (s : State) (n : Fin 18) : State :=
  let run := s.adcState n == .running
  s.onAdc n fun x => if x.urgPend || (testBit x.urg 1 && run) then { x with urgDrop := satInc x.urgDrop } else { x with urgPend := true }

/-- A pending conversion may be taken now: none is in progress, the ADC is not lent, and no sequence runs that DROP mode
leaves undisturbed (R117, R118, log 132). -/
def State.urgentReady (s : State) (n : Fin 18) : Bool :=
  let x := s.adcs[n]
  x.urgPend && !x.pipe.any (·.urgent) && s.adcState n != .lent && !(testBit x.urg 1 && s.adcState n == .running)

/-- URGENT_EVENT (R117, R118): the event of URG_SRC in this cycle makes a request, and with a sample the ADC takes the
conversion that is pending. -/
def execUrgentEvent (n : Fin 18) (w : Option Analog) (s : State) : Outcome :=
  whenHw s fun s =>
    if !testBit s.adcs[n].urg 0 || s.adcState n = .disabled then s
    else
      let s := if s.srcFires (bits s.adcs[n].urg 2 6).toNat false then s.urgentRequest n else s
      match w with
      | some w => if s.urgentReady n then s.urgentSample n (s.adcInput n (bits s.adcs[n].urg 8 4).toFin w) else s
      | none => s

/-- ADC_REF_SELECT (R119, R120): a write of ADC_REF. -/
def execAdcRefSelect (p : Fin 32) (n : Fin 18) (v : Word) (s : State) : Outcome :=
  whenHw s fun s => s.writeOne p (adcAccess p n .ref) v

/-- ADC_REFERENCE_READY (R119, R120): REF_RDY sets; a held start proceeds with LATE. -/
def execAdcReferenceReady (n : Fin 18) (s : State) : Outcome :=
  whenHw s fun s =>
    if s.isOn (adcDom n) && (s.adcs[n].refSel ≠ 1 || s.vrefIn) then
      s.onAdc n fun x =>
        let x := { x with refRdy := true }
        if x.state = .waitRef then { x with state := .delay, late := true, heldStart := false } else x
    else s

/-- VREF_EXT_OUT_OF_RANGE (R119). -/
def execVrefExtOutOfRange (s : State) : Outcome :=
  .next { s with vrefIn := false, adcs := s.adcs.map fun x => if x.refSel = 1 then { x with refRdy := false } else x }

/-- VREF_EXT_IN_RANGE (R119). -/
def execVrefExtInRange (s : State) : Outcome := .next { s with vrefIn := true }

/-- ADC_RES_POP (R126). -/
def execAdcResPop (p : Fin 32) (n : Fin 18) (v : Word) (s : State) : Outcome :=
  whenHw s fun s => s.writeOne p (adcAccess p n .resPop) v

/-- ADC_CNT_CLEAR (R131). -/
def execAdcCntClear (p : Fin 32) (n : Fin 18) (v : Word) (s : State) : Outcome :=
  whenHw s fun s => s.writeOne p (adcAccess p n .cntClear) v

/-- ADC_GIVEBACK (R127, R128). -/
def execAdcGiveback (n : Fin 18) (s : State) : Outcome := whenHw s fun s => s.giveAdc n

/-- An enabled timer fires at this ET: every PERIOD cycles from OFFSET on, or once at OFFSET (R114). -/
def Timer.due (x : Timer) (et : Et) : Bool :=
  x.en && (if x.mode then et == x.offset else 4 ≤ x.period.toNat && (et - x.offset).toNat % x.period.toNat == 0)

/-- A firing; a one-shot clears EN (R114). -/
def Timer.fire (x : Timer) : Timer := { x with fired := true, en := x.en && !x.mode }

/-- A new CK cycle: the timers that are due fire, the pulses of the cycle before are over. -/
def Timer.tick (x : Timer) (et : Et) : Timer := if x.due et then x.fire else { x with fired := false }

/-- TIMER_FIRE (R114): at its ET. Every CK does the same (log 3); this row stands for the cycle in which ET is loaded. -/
def execTimerFire (t : Fin 16) (s : State) : Outcome :=
  whenHw s fun s => if s.timers[t].due s.clk.et then s.onTimer t Timer.fire else s

/-- TIMER_TAKEOVER (R127). -/
def execTimerTakeover (t : Fin 16) (cls : Cls) (s : State) : Outcome :=
  whenHw s fun s =>
    let x := s.timers[t]
    if outranks cls x.cls x.en then
      let user := x.cls = .user && x.en
      let s := s.onTimer t fun x => { x with
        cls := cls, displaced := x.displaced || user, saved := x.saved.or (some (x.en, x.mode, x.period, x.offset)) }
      if user then
        s.raise { ev := .tmrPreempted, off := t.val, unit := BitVec.ofNat 8 t.val, part := (s.ownOf (0x90 + t.val)).owner }
      else s
    else s

/-- TIMER_GIVEBACK (R127): the previous settings stand again. -/
def execTimerGiveback (t : Fin 16) (s : State) : Outcome :=
  whenHw s fun s =>
    let x := s.timers[t]
    if x.cls = .user then s
    else
      let s := s.onTimer t fun x => match x.saved with
        | some (en, mode, period, offset) =>
          { x with cls := .user, displaced := false, saved := none, en := en, mode := mode, period := period, offset := offset }
        | none => { x with cls := .user, displaced := false }
      if x.displaced then
        s.raise { ev := .tmrReleased, off := t.val, unit := BitVec.ofNat 8 t.val, part := (s.ownOf (0x90 + t.val)).owner }
      else s

/-! ### Meanings: commands (Table 6-4) -/

/-- A partition owns ADC `n`; an index out of range is left to the parameter check. -/
def State.ownsAdc (s : State) (p : Fin 32) (adc : Byte) : Bool := 18 ≤ adc.toNat || s.owns p (0x40 + adc.toNat)

def adcCodes (adc : Byte) : List Nat := if adc.toNat < 18 then [0x40 + adc.toNat] else []
def maskCodes (mask : Word) : List Nat := (bitList 18 mask).map (0x40 + ·)

/-- A named ADC lies in a SUSPECT domain (R59). -/
def State.adcSuspect (s : State) (n : Fin 18) : Bool := s.isSuspect (adcDom n)

def runAdcStart (c : CmdRef) (mask : Word) : Run := fun s =>
  let ms := members (bits mask 0 18)
  if bits mask 18 14 ≠ 0 then (s, some (failed Status.outOfRange))
  else if ms.any s.adcSuspect then (s, some (failed Status.hwMismatch))
  else if ms.any fun n => s.adcState n = .disabled then (s, some (failed Status.notReady))
  else if ms.isEmpty then (s, some (done []))
  else ({ s with adcStarts := s.adcStarts ++ [(c, mask)] }, none)

/-- ADC_START (R110): the named ADCs start at the next frame boundary. -/
def execAdcStart (h : Header) (mask : Word) (s : State) : Outcome :=
  darem (.adcStart h mask) h
    { op := 0x40, allowed := (bitList 18 mask).all fun n => s.owns h.part (0x40 + n), codes := maskCodes mask }
    (le 4 mask) (runAdcStart (refOf h) mask) s

def runAdcUrgent (adc : Byte) : Run := fun s =>
  match (fin adc.toNat : Option (Fin 18)) with
  | none => (s, some (failed Status.outOfRange))
  | some n =>
    let x := s.adcs[n]
    if s.adcSuspect n then (s, some (failed Status.hwMismatch))
    else if !testBit x.urg 0 then (s, some (failed Status.notReady))
    else (s.urgentRequest n, some (done []))

/-- ADC_URGENT (R117). -/
def execAdcUrgent (h : Header) (adc : Byte) (s : State) : Outcome :=
  darem (.adcUrgent h adc) h { op := 0x41, allowed := s.ownsAdc h.part adc, codes := adcCodes adc } [adc] (runAdcUrgent adc) s

def runAdcPeek (adc count : Byte) : Run := fun s =>
  match (fin adc.toNat : Option (Fin 18)) with
  | none => (s, some (failed Status.outOfRange))
  | some n =>
    if count = 0 || 16 < count.toNat then (s, some (failed Status.outOfRange))
    else if s.adcs[n].queue.isEmpty then (s, some (failed Status.notReady))
    else (s, some (done (s.adcs[n].queue.take count.toNat).flatten))

/-- ADC_RESULT_PEEK (R125). -/
def execAdcResultPeek (h : Header) (adc count : Byte) (s : State) : Outcome :=
  darem (.adcResultPeek h adc count) h { op := 0x42, allowed := s.ownsAdc h.part adc, codes := adcCodes adc, idem := true }
    [adc, count] (runAdcPeek adc count) s

def runAdcPop (adc count : Byte) (tag : Half) : Run := fun s =>
  match (fin adc.toNat : Option (Fin 18)) with
  | none => (s, some (failed Status.outOfRange))
  | some n =>
    let q := s.adcs[n].queue
    if count = 0 || 16 < count.toNat then (s, some (failed Status.outOfRange))
    else if s.adcSuspect n then (s, some (failed Status.hwMismatch))
    else if q.isEmpty then (s, some (failed Status.notReady))
    else
      let head := rd 16 s.adcs[n].head 2 2
      if head ≠ tag then (s, some (failed Status.conflict (le 2 head)))
      else (s.dequeue n count.toNat, some (done (q.take count.toNat).flatten))

/-- ADC_RESULT_POP (R125). -/
def execAdcResultPop (h : Header) (adc count : Byte) (tag : Half) (s : State) : Outcome :=
  darem (.adcResultPop h adc count tag) h { op := 0x43, allowed := s.ownsAdc h.part adc, codes := adcCodes adc }
    ([adc, count] ++ le 2 tag) (runAdcPop adc count tag) s

/-- Reserved bits of register words are sent as 0 (log 152). -/
def runAdcStatus (adc : Byte) : Run := fun s =>
  match (fin adc.toNat : Option (Fin 18)) with
  | none => (s, some (failed Status.outOfRange))
  | some n =>
    let x := s.adcs[n]
    (s, some (done (le 4 (adcStatus s n) ++ le 4 (adcCnt x) ++ le 4 x.winCnt ++ le 4 (adcRef x))))

/-- ADC_STATUS_GET (Table 6-4). -/
def execAdcStatusGet (h : Header) (adc : Byte) (s : State) : Outcome :=
  darem (.adcStatusGet h adc) h { op := 0x44, codes := adcCodes adc, idem := true } [adc] (runAdcStatus adc) s

def runAdcGroup (group : Byte) (mask : Word) (src edge : Byte) (delay : Half) : Run := fun s =>
  match (fin group.toNat : Option (Fin 8)) with
  | none => (s, some (failed Status.outOfRange))
  | some g =>
    let m : BitVec 18 := bits mask 0 18
    if bits mask 18 14 ≠ 0 || 33 < src.toNat || 1 < edge.toNat || 4095 < delay.toNat then (s, some (failed Status.outOfRange))
    else if (members m).any s.adcSuspect then (s, some (failed Status.hwMismatch))
    else if s.otherGroup g m then (s, some (failed Status.conflict))
    else
      let ctrl := field src 0 ||| field edge 6 ||| field delay 8
      ({ s with groups := upd s.groups g fun x => { x with mask := m, ctrl := ctrl } }, some (done []))

/-- The old members of a group that a command names. -/
def State.groupMask (s : State) (group : Byte) : BitVec 18 :=
  match (fin group.toNat : Option (Fin 8)) with
  | some g => s.groups[g].mask
  | none => 0

/-- ADC_GROUP_SET (R115). -/
def execAdcGroupSet (h : Header) (group : Byte) (mask : Word) (src edge : Byte) (delay : Half) (s : State) : Outcome :=
  darem (.adcGroupSet h group mask src edge delay) h
    { op := 0x45, allowed := s.ownsAll h.part (bits mask 0 18) && s.ownsAll h.part (s.groupMask group), codes := maskCodes mask }
    ([group] ++ le 4 mask ++ [src, edge] ++ le 2 delay) (runAdcGroup group mask src edge delay) s

def runTmrSet (timer mode : Byte) (period : Word) (offset : Et) (en : Byte) : Run := fun s =>
  match (fin timer.toNat : Option (Fin 16)) with
  | none => (s, some (failed Status.outOfRange))
  | some t =>
    let x := s.timers[t]
    let m := testBit mode 0
    let e := testBit en 0
    if 1 < mode.toNat || 1 < en.toNat then (s, some (failed Status.outOfRange))
    else if x.claimRefused e || (x.en && e && (m ≠ x.mode || period ≠ x.period || offset ≠ x.offset)) then
      (s, some (failed Status.conflict))
    else (s.onTimer t fun x => x.set e m period offset, some (done []))

/-- TMR_SET (R114, R127). -/
def execTmrSet (h : Header) (timer mode : Byte) (period : Word) (offset : Et) (en : Byte) (s : State) : Outcome :=
  darem (.tmrSet h timer mode period offset en) h
    { op := 0x46, allowed := 16 ≤ timer.toNat || s.owns h.part (0x90 + timer.toNat)
      codes := if timer.toNat < 16 then [0x90 + timer.toNat] else [] }
    ([timer, mode] ++ le 4 period ++ le 6 offset ++ [en]) (runTmrSet timer mode period offset en) s

/-! ### Single register writes of chapters 5 and 7 with rows of their own -/

/-- XBAR_OCT_WRITE (R101, R102, R104). -/
def execXbarOctWrite (p : Fin 32) (o : Fin 8) (v : Word) (s : State) : Outcome :=
  whenHw s fun s => s.writeOne p (xbarAccess p (.oct o)) v

/-- ABAY_CLEAR (R94). -/
def execAbayClear (p : Fin 32) (a : Fin 9) (v : Word) (s : State) : Outcome :=
  whenHw s fun s => s.writeOne p (abayAccess p a .clear) v

/-- THRESHOLD_HOLD_RELEASE (R134): a write of ABAY_THR_CTRL. -/
def execThresholdHoldRelease (p : Fin 32) (a : Fin 9) (v : Word) (s : State) : Outcome :=
  whenHw s fun s => s.writeOne p (abayAccess p a .thrCtrl) v

end Sys2Proof.Machine
end

