-- ==== Sys2Proof/Machine/Waveform.lean ====
section
/-!
DEFINITION. Waveform DACs: claims, starts, ticks, queue, ring and DDS (07 R136 to R148).
-/
namespace Sys2Proof.Machine

/-! ### The sine of R145 -/

/-- Terms of the sine series of an angle `x`, in units of 2^-64. -/
def sineTerms : Nat → Nat → Int → Int → Int
  | 0, _, _, _ => 0
  | n + 1, k, x, t => t + sineTerms n (k + 2) x (-((t * x / 2 ^ 64) * x / 2 ^ 64) / ((k + 1) * (k + 2)))

/-- Entry i of the first quadrant: round(32,767 × sin(2πi / 4,096)), with π to 64 binary places. -/
def sineQuarter (i : Nat) : Int :=
  let x : Int := 57952155664616982739 * i / 2048
  (2 * 32767 * sineTerms 14 1 x x + 2 ^ 64) / 2 ^ 65

/-- Entry i of the table at reset (R145). -/
def sineEntry (i : Nat) : Half :=
  BitVec.ofInt 16 (
    if i ≤ 1024 then sineQuarter i else if i ≤ 2048 then sineQuarter (2048 - i)
    else if i ≤ 3072 then -sineQuarter (i - 2048) else -sineQuarter (4096 - i))

/-! ### Fields -/

def wdacOutEn (c : Word) : Bool := testBit c 0
def wdacOmode (c : Word) : BitVec 2 := bits c 1 2
def wdacSrc (c : Word) : Nat := (bits c 4 2).toNat
def wdacStart (c : Word) : Nat := (bits c 6 6).toNat
def wdacGapYield (c : Word) : Bool := testBit c 13

def wdacStateCode : WdacState → Nat
  | .stopped => 0
  | .waitStart => 1
  | .delay => 2
  | .running => 3
  | .lent => 4

def State.wdacOwner (s : State) (n : Fin 8) : Fin 32 := (s.ownOf (0x60 + n.val)).owner

/-- Ring length. -/
def Wdac.len (x : Wdac) : Nat := x.ring.toNat + 1

/-- The DAC runs: from its start event on (R140). -/
def Wdac.runs (x : Wdac) : Bool := x.state == .delay || x.state == .running

/-- A table entry. -/
def Wdac.entry (x : Wdac) (i : Nat) : Half := look (sineEntry i) x.table i

/-! ### Starts and ticks -/

/-- From the start event: DELAY, with the phase at PHASE0 and the ring at entry 0 (R140, R143, R144). A STOP accepted before
it stands (R141). -/
def Wdac.armed (x : Wdac) : Wdac :=
  { x with state := .delay, phase := x.phase0, ringIdx := 0, underrunSeen := false, heldStart := false, cmdStart := false }

def State.wdacMiss (s : State) (n : Fin 8) : State := s.onWdac n fun x => { x with startMiss := satInc x.startMiss }

/-- A start in RING mode with too few samples is ignored (R143). -/
def Wdac.short (x : Wdac) : Bool := wdacSrc x.ctrl = 2 && x.queue.length < x.len

/-- A start arrives (R139, R140, R143): `cmd` for a command start, which waits for its boundary. -/
def State.wdacArrive (s : State) (n : Fin 8) (cmd : Bool) : State :=
  let x := s.wdacs[n]
  if x.short then s.wdacMiss n
  else match x.state with
    | .stopped => s.onWdac n fun x => if cmd then { x with state := .waitStart, cmdStart := true, stopPend := false } else x.armed
    | .lent =>
      if x.cls = .gap then
        s.onWdac n fun x => { x with state := .waitStart, heldStart := true, cmdStart := cmd, startLate := satInc x.startLate }
      else s.wdacMiss n
    | _ => s.wdacMiss n

/-- WDAC_CONTROL commands of one kind lose their wait for DAC `n`; one with none left completes (R147). -/
def State.servedWdac (s : State) (n : Fin 8) (stop : Bool) : State :=
  let cleared := s.wdacWaits.map fun x => if x.stop = stop then { x with mask := clearBit x.mask n.val } else x
  let s := { s with wdacWaits := cleared.filter fun x => x.mask ≠ 0 }
  s.finishAll ((cleared.filter fun x => x.mask = 0).map (·.cmd)) (done [])

/-- Saturation to the code range of OMODE (R144). -/
def saturate (omode : BitVec 2) (v : Int) : Half :=
  BitVec.ofInt 16 (if testBit omode 0 then clip (-32768) 32767 v else clip 0 65535 v)

/-- Output of a DDS tick (R144). -/
def Wdac.dds (x : Wdac) : Half :=
  let idx := (bits x.phase 20 12).toNat
  saturate (wdacOmode x.ctrl)
    ((bits x.amp 16 16).toInt + roundDiv ((x.entry idx).toInt * (bits x.amp 0 16).toInt) 32768)

/-- A code as it reaches the output: GAIN and OFFSET of the current OMODE applied (R150, log 133). -/
def Wdac.trim (x : Wdac) (coef : List Byte) (code : Half) : Half :=
  let m := (wdacOmode x.ctrl).toNat
  let v : Int := if m % 2 = 1 then code.toInt else code.toNat
  saturate (wdacOmode x.ctrl) (trimmed (rd 16 coef (63 + 2 * m) 2) (rd 16 coef (71 + 2 * m) 2) v)

/-- One tick of a run (R142 to R144), with the unit's coefficients; the second part is a first underrun. -/
def Wdac.tick (x : Wdac) (coef : List Byte) : Wdac × Bool :=
  let x := { x with state := .running }
  match wdacSrc x.ctrl with
  | 1 => match x.queue with
    | v :: q => ({ x with last := x.trim coef v, queue := q }, false)
    | [] => ({ x with underrun := satInc x.underrun, underrunSeen := true }, !x.underrunSeen)
  | 2 => ({ x with
      last := match x.queue[x.ringIdx]? with | some v => x.trim coef v | none => x.last
      ringIdx := (x.ringIdx + 1) % x.len }, false)
  | 3 => ({ x with last := x.trim coef x.dds, phase := x.phase + x.ftw }, false)
  | _ => (x, false)

/-- What CALn presents (Table 7-1): high impedance, a voltage in 1/1,048,576 of 2.5 V, or a current in 1/1,048,576 of 2 mA. -/
inductive CalPin where
  | highZ
  | voltage (v : Int)
  | current (i : Int)
deriving DecidableEq, Repr

/-- The code that the output drives: a code latched at a tick moves it three cycles later (R140). -/
def State.wdacCode (s : State) (n : Fin 8) : Half :=
  match s.wdacs[n].lag.find? fun x => s.ck < x.1 with
  | some x => x.2
  | none => s.wdacs[n].last

/-- A tick of a DAC latches a code: the output keeps the one before until it moves (R140). -/
def Wdac.latched (x old : Wdac) (ck : Nat) : Wdac := { x with lag := (old.lag.filter fun y => ck < y.1) ++ [(ck + 3, old.last)] }

/-- The level of the code that the output drives, in 1/16 LSB: WDAC_ELEM trims the upper unit elements that the code turns on (R136,
R150, log 168). -/
def State.wdacLevel (s : State) (n : Fin 8) : Int :=
  let x := s.wdacs[n]
  let c := s.wdacCode n
  let v : Int := if testBit (wdacOmode x.ctrl) 0 then c.toInt else c.toNat
  let upper := (if testBit (wdacOmode x.ctrl) 0 then v + 32768 else v) / 1024
  16 * v + elements (s.coef (0x70 + n.val)).body 0 (min 63 upper.toNat)

/-- The output of CALn: the level of its code while OUT_EN is 1 and no engine holds the DAC (R136, R137, R154). -/
def State.calPin (s : State) (n : Fin 8) : CalPin :=
  let x := s.wdacs[n]
  if !wdacOutEn x.ctrl || x.cls ≠ .user then .highZ
  else match (wdacOmode x.ctrl).toNat with
    | 0 => .voltage (s.wdacLevel n)
    | 1 => .voltage (2 * s.wdacLevel n)
    | _ => .current (s.wdacLevel n)

/-- An engine claims a DAC at its class: whether it gets it (R138, R139). -/
def State.takeWdac (s : State) (n : Fin 8) (cls : Cls) : Bool × State :=
  let x := s.wdacs[n]
  if cls = .gap then
    if s.clk.gap && x.cls = .user && wdacGapYield x.ctrl && x.state = .stopped then
      (true, s.onWdac n fun x => { x with state := .lent, cls := .gap, saved := some (x.ctrl, x.last) })
    else (false, s)
  else if outranks cls x.cls (wdacOutEn x.ctrl) then
    let user := wdacOutEn x.ctrl && !x.displaced
    let s := s.abandonUnit (0x70 + n.val)
    let s := if x.heldStart then (s.wdacMiss n).onWdac n fun x => { x with cmdStart := false } else s
    let s := s.onWdac n fun x => { x with
      state := .lent, cls := cls, displaced := x.displaced || user, heldStart := false, stopPend := false, saved := none }
    let s := if user then
        s.raise { ev := .wdacPreempted, inst := n.val, unit := BitVec.ofNat 8 n.val, part := s.wdacOwner n }
      else s
    (true, s.servedWdac n true)
  else (false, s)

/-- A lent gap step ends: OMODE, OUT_EN and the output level as before it, and a start held during it proceeds (R139). -/
def Wdac.endStep (x : Wdac) : Wdac :=
  let x := match x.saved with
    | some (c, l) => { x with ctrl := (x.ctrl &&& ~~~(7 : Word)) ||| (c &&& 7), last := l }
    | none => x
  let x := { x with cls := .user, saved := none }
  if x.heldStart then x.armed else { x with state := .stopped }

/-- An engine releases a DAC: STOPPED with the output off, or after a gap step as before it (R138, R139). -/
def State.giveWdac (s : State) (n : Fin 8) : State :=
  match s.wdacs[n].cls with
  | .user => s
  | .gap => s.onWdac n Wdac.endStep
  | _ =>
    (s.onWdac n fun x => { x with cls := .user, displaced := false, state := .stopped, ctrl := clearBit x.ctrl 0 }).raise {
      ev := .wdacReleased, inst := n.val, unit := BitVec.ofNat 8 n.val, part := s.wdacOwner n }

/-- A user's run goes on until its next tick against a claim of higher class (R138). -/
def Wdac.keeps (x : Wdac) : Bool := x.cls = .user && x.state ≠ .stopped && x.state ≠ .lent

/-- A job's claim waits for the DAC's next tick (log 176). -/
def State.awaitTick (s : State) (n : Fin 8) (j : Fin 16) : State := s.onWdac n fun x => { x with claim := some j }

def State.onJob (s : State) (j : Fin 16) (x : Option Job) : State := { s with cal := { s.cal with jobs := s.cal.jobs.set j x } }

/-- At its tick the DAC goes to the job that has claimed it, which holds it from here on (R138, R155). -/
def State.claimed (s : State) (n : Fin 8) (j : Fin 16) : State :=
  let s := s.onWdac n fun x => { x with claim := none }
  match s.cal.jobs[j] with
  | some x =>
    if x.unit = 0x70 + n.val && !x.gap && x.state = .noticed then
      let (ok, s) := s.takeWdac n x.cls
      if ok then s.onJob j (some { x with state := .held }) else s
    else s
  | none => s

/-! ### Registers (Table 7-3) -/

inductive WdacReg where
  | ctrl
  | div
  | static
  | cmd
  | status
  | last
  | cnt
  | cnt2
  | events
  | qdata
  | ring
  | ftw
  | phase0
  | amp
  | tblAddr
  | tblData
  | cntClear
deriving DecidableEq, Repr

def wdacStatus (x : Wdac) : Word :=
  BitVec.ofNat 32 (wdacStateCode x.state + 16 * x.cls.code + 65536 * x.queue.length)

/-- What a write of WDAC_CTRL refuses with CONFLICT (R137, R138, R141). -/
def Wdac.ctrlConflict (x : Wdac) (v : Word) : Bool :=
  (wdacOutEn x.ctrl && wdacOmode v ≠ wdacOmode x.ctrl) ||
  (wdacOutEn v && !wdacOutEn x.ctrl && x.cls ≠ .user && x.cls.rank ≥ Cls.rank .user) ||
  (x.state ≠ .stopped && (wdacSrc v ≠ wdacSrc x.ctrl || wdacStart v ≠ wdacStart x.ctrl || bits v 16 12 ≠ bits x.ctrl 16 12))

/-- A write of WDAC_CTRL; a rise of OUT_EN takes the DAC from a lent gap step, which ends (R138, R139, R157). -/
def Wdac.setCtrl (x : Wdac) (v : Word) : Wdac :=
  { (if wdacOutEn v && !wdacOutEn x.ctrl && x.cls = .gap then x.endStep else x) with ctrl := v }

/-- A user's STOP: the run ends at its next tick (R141). -/
def Wdac.stop (x : Wdac) : Wdac := if x.runs || x.state = .waitStart then { x with stopPend := true } else x

def clearWdacCnt (x : Wdac) : Wdac := { x with underrun := 0, overflow := 0, startMiss := 0, startLate := 0 }

/-- WDAC_TBL_DATA stores at WDAC_TBL_ADDR, which then counts modulo 4,096 (R145). -/
def Wdac.storeTable (x : Wdac) (v : Half) : Wdac :=
  { x with table := store (sineEntry x.tblAddr.toNat) x.table x.tblAddr.toNat v, tblAddr := x.tblAddr + 1 }

def wdacAccess (p : Fin 32) (n : Fin 8) (r : WdacReg) (s : State) : Access :=
  let x := s.wdacs[n]
  let own := s.owns p (0x60 + n.val)
  match r with
  | .ctrl =>
    { val := x.ctrl, mask := 0x0FFF3FF7, writable := true, who := fun v => own && !s.foreignSrc p (wdacStart v)
      range := fun v => wdacStart v ≤ 33
      rule := fun _ v => if x.ctrlConflict v then some Status.conflict else none
      act := fun _ v s =>
        let s := if wdacOutEn v && !wdacOutEn s.wdacs[n].ctrl && s.wdacs[n].cls = .gap then s.abandonUnit (0x70 + n.val) else s
        s.onWdac n fun x => x.setCtrl (v &&& 0x0FFF3FF7) }
  | .div =>
    { val := field x.div 0, mask := 0xFFFF, writable := true, who := fun _ => own
      range := fun v => bits v 0 16 ≠ 0
      rule := fun _ v => if x.state ≠ .stopped && bits v 0 16 ≠ x.div then some Status.conflict else none
      act := fun _ v s => s.onWdac n fun x => { x with div := bits v 0 16 } }
  | .static => rwReg (field x.static 0) 0xFFFF own fun v s => s.onWdac n fun x => { x with static := bits v 0 16 }
  | .cmd =>
    { val := 0, mask := 0, writable := true, who := fun _ => own
      rule := fun _ v => if testBit v 2 && x.state ≠ .stopped then some Status.conflict else none
      act := fun _ v s =>
        let s := if testBit v 2 then s.onWdac n fun x => { x with queue := [] } else s
        let s := if testBit v 1 then s.onWdac n Wdac.stop else s
        if testBit v 0 then s.wdacArrive n true else s }
  | .status => roReg (wdacStatus x) 0x07FF0037
  | .last => roReg (field x.last 0) 0xFFFF
  | .cnt => roReg (field x.underrun 0 ||| field x.overflow 16)
  | .cnt2 => roReg (field x.startMiss 0 ||| field x.startLate 16)
  | .events => w1cReg own x.events 7 .wdac n.val
  | .qdata =>
    { val := 0, mask := 0, writable := true, who := fun _ => own
      rule := fun _ _ => if x.runs && wdacSrc x.ctrl = 2 then some Status.conflict else none
      act := fun _ v s => s.onWdac n fun x =>
        if x.queue.length < 1024 then { x with queue := x.queue ++ [bits v 0 16] } else { x with overflow := satInc x.overflow } }
  | .ring => rwReg (field x.ring 0) 0x3FF own fun v s => s.onWdac n fun x => { x with ring := bits v 0 10 }
  | .ftw => rwReg x.ftw 0xFFFFFFFF own fun v s => s.onWdac n fun x => { x with ftw := v }
  | .phase0 => rwReg x.phase0 0xFFFFFFFF own fun v s => s.onWdac n fun x => { x with phase0 := v }
  | .amp => rwReg x.amp 0xFFFFFFFF own fun v s => s.onWdac n fun x => { x with amp := v }
  | .tblAddr => rwReg (field x.tblAddr 0) 0xFFF own fun v s => s.onWdac n fun x => { x with tblAddr := bits v 0 12 }
  | .tblData =>
    { val := field (x.entry x.tblAddr.toNat) 0, mask := 0xFFFF, writable := true, who := fun _ => own
      rule := fun _ _ => if x.runs && wdacSrc x.ctrl = 3 then some Status.conflict else none
      act := fun _ v s => s.onWdac n fun x => x.storeTable (bits v 0 16) }
  | .cntClear => clearReg own fun s => s.onWdac n clearWdacCnt

/-! ### Meanings: moments -/

/-- WDAC_OUTPUT_CLAIM (R137, R138): a write of WDAC_CTRL. -/
def execWdacOutputClaim (p : Fin 32) (n : Fin 8) (v : Word) (s : State) : Outcome :=
  whenHw s fun s => s.writeOne p (wdacAccess p n .ctrl) v

/-- WDAC_GIVEBACK (R138, R139). -/
def execWdacGiveback (n : Fin 8) (s : State) : Outcome := whenHw s fun s => s.giveWdac n

/-- WDAC_CMD_START (R140): a write of START. -/
def execWdacCmdStart (p : Fin 32) (n : Fin 8) (s : State) : Outcome :=
  whenHw s fun s => s.writeOne p (wdacAccess p n .cmd) 1

/-- WDAC_CMD_STOP (R141): a write of STOP. -/
def execWdacCmdStop (p : Fin 32) (n : Fin 8) (s : State) : Outcome :=
  whenHw s fun s => s.writeOne p (wdacAccess p n .cmd) 2

/-- WDAC_CMD_FLUSH (R142): a write of FLUSH. -/
def execWdacCmdFlush (p : Fin 32) (n : Fin 8) (s : State) : Outcome :=
  whenHw s fun s => s.writeOne p (wdacAccess p n .cmd) 4

/-- WDAC_START_EVENT (R140): the boundary of a command start, or the event of the DAC's own source. -/
def execWdacStartEvent (n : Fin 8) (s : State) : Outcome :=
  whenHw s fun s =>
    let x := s.wdacs[n]
    if s.clk.atBoundary && (x.cmdStart || s.wdacWaits.any fun w => !w.stop && testBit w.mask n.val) then
      let s := if x.state = .waitStart && !x.heldStart then s.onWdac n Wdac.armed
        else if x.cmdStart && x.state = .lent then (s.wdacMiss n).onWdac n fun x => { x with cmdStart := false }
        else s.onWdac n fun x => { x with cmdStart := false }
      s.servedWdac n false
    else if s.srcFires (wdacStart x.ctrl) (testBit x.ctrl 12) then s.wdacArrive n false
    else s

/-- WDAC_TICK (R140 to R144). -/
def execWdacTick (n : Fin 8) (s : State) : Outcome :=
  whenHw s fun s =>
    let x := s.wdacs[n]
    if x.runs then
      match x.claim with
      | some j => s.claimed n j
      | none =>
      if x.stopPend then (s.onWdac n fun x => { x with state := .stopped, stopPend := false }).servedWdac n true
      else
        let (y, dry) := x.tick (s.coef (0x70 + n.val)).body
        let s := s.onWdac n fun x => y.latched x s.ck
        if dry then s.raise { ev := .wdacUnderrun, inst := n.val, unit := BitVec.ofNat 8 n.val, part := s.wdacOwner n } else s
    else s

/-- WDAC_STATIC_APPLY (R141). -/
def execWdacStaticApply (n : Fin 8) (s : State) : Outcome :=
  whenHw s fun s =>
    if wdacSrc s.wdacs[n].ctrl = 0 && s.wdacs[n].cls = .user then
      s.onWdac n fun x => { x with last := x.trim (s.coef (0x70 + n.val)).body x.static, lag := [] }
    else s

/-- WDAC_QUEUE_APPEND (R142): a write of WDAC_QDATA. -/
def execWdacQueueAppend (p : Fin 32) (n : Fin 8) (v : Word) (s : State) : Outcome :=
  whenHw s fun s => s.writeOne p (wdacAccess p n .qdata) v

/-- WDAC_TABLE_WRITE (R145): a write of WDAC_TBL_DATA. -/
def execWdacTableWrite (p : Fin 32) (n : Fin 8) (v : Word) (s : State) : Outcome :=
  whenHw s fun s => s.writeOne p (wdacAccess p n .tblData) v

/-- WDAC_CNT_CLEAR (R148). -/
def execWdacCntClear (p : Fin 32) (n : Fin 8) (v : Word) (s : State) : Outcome :=
  whenHw s fun s => s.writeOne p (wdacAccess p n .cntClear) v

/-! ### Meanings: commands (Table 7-2) -/

def State.ownsWdac (s : State) (p : Fin 32) (n : Byte) : Bool := 8 ≤ n.toNat || s.owns p (0x60 + n.toNat)
def wdacCodes (n : Byte) : List Nat := if n.toNat < 8 then [0x60 + n.toNat] else []
def halves (xs : List Half) : List Byte := xs.flatMap (le 2)

/-- COUNT of WDAC_QUEUE_WRITE and WDAC_TABLE_LOAD fits the list it counts (R409). -/
def counted (count : Byte) (len : Nat) : Bool := count.toNat = len && 1 ≤ len && len ≤ 232

def runWdacQueueWrite (n : Byte) (samples : List Half) : Run := fun s =>
  match (fin n.toNat : Option (Fin 8)) with
  | none => (s, some (failed Status.outOfRange))
  | some n =>
    let x := s.wdacs[n]
    let free := 1024 - x.queue.length
    if x.runs && wdacSrc x.ctrl = 2 then (s, some (failed Status.conflict))
    else if free < samples.length then (s, some (failed Status.busy (bytesOf 2 free)))
    else (s.onWdac n fun x => { x with queue := x.queue ++ samples }, some (done (bytesOf 2 (x.queue.length + samples.length))))

/-- WDAC_QUEUE_WRITE (R142, R143). -/
def execWdacQueueWrite (h : Header) (n count : Byte) (samples : List Half) (s : State) : Outcome :=
  darem (.wdacQueueWrite h n count samples) h
    { op := 0x47, layout := counted count samples.length, allowed := s.ownsWdac h.part n, codes := wdacCodes n }
    ([n, count] ++ halves samples) (runWdacQueueWrite n samples) s

/-- Store consecutive table entries. -/
def Wdac.load (x : Wdac) (at0 : Nat) : List Half → Wdac
  | [] => x
  | v :: vs => Wdac.load { x with table := store (sineEntry at0) x.table at0 v } (at0 + 1) vs

def runWdacTableLoad (n : Byte) (addr : Half) (entries : List Half) : Run := fun s =>
  match (fin n.toNat : Option (Fin 8)) with
  | none => (s, some (failed Status.outOfRange))
  | some n =>
    if 4096 < addr.toNat + entries.length then (s, some (failed Status.outOfRange))
    else if s.wdacs[n].runs && wdacSrc s.wdacs[n].ctrl = 3 then (s, some (failed Status.conflict))
    else (s.onWdac n fun x => x.load addr.toNat entries, some (done []))

/-- WDAC_TABLE_LOAD (R145). -/
def execWdacTableLoad (h : Header) (n : Byte) (addr : Half) (count : Byte) (entries : List Half) (s : State) : Outcome :=
  darem (.wdacTableLoad h n addr count entries) h
    { op := 0x48, layout := counted count entries.length, allowed := s.ownsWdac h.part n, codes := wdacCodes n }
    ([n] ++ le 2 addr ++ [count] ++ halves entries) (runWdacTableLoad n addr entries) s

/-- The DACs of a mask. -/
def wdacList (mask : Byte) : List (Fin 8) := (List.finRange 8).filter fun n => testBit mask n.val

/-- The DACs of a mask whose state meets a condition, as a mask. -/
def State.wdacMask (s : State) (mask : Byte) (f : Wdac → Bool) : Byte :=
  (wdacList mask).foldl (fun m n => if f s.wdacs[n] then setBit m n.val else m) 0

/-- Wait for the DACs of a mask, or complete at once when there is none to wait for. -/
def State.waitWdacs (s : State) (c : CmdRef) (mask : Byte) (stop : Bool) : State × Option Reply :=
  if mask = 0 then (s, some (done []))
  else ({ s with wdacWaits := s.wdacWaits ++ [{ cmd := c, mask := mask, stop := stop }] }, none)

def runWdacControl (c : CmdRef) (mask action : Byte) : Run := fun s =>
  let ds := wdacList mask
  match action.toNat with
  | 0 =>
    let t := s.each ds fun s n => s.wdacArrive n true
    let fresh (n : Fin 8) : Bool := t.wdacs[n].cmdStart && !s.wdacs[n].cmdStart
    t.waitWdacs c (ds.foldl (fun m n => if fresh n then setBit m n.val else m) 0) false
  | 1 =>
    let t := s.each ds fun s n => s.onWdac n Wdac.stop
    t.waitWdacs c (t.wdacMask mask (·.stopPend)) true
  | 2 =>
    if ds.any fun n => s.wdacs[n].state ≠ .stopped then (s, some (failed Status.conflict))
    else (s.each ds fun s n => s.onWdac n fun x => { x with queue := [] }, some (done []))
  | _ => (s, some (failed Status.outOfRange))

/-- WDAC_CONTROL (R140 to R142, R147). -/
def execWdacControl (h : Header) (mask action : Byte) (s : State) : Outcome :=
  darem (.wdacControl h mask action) h
    { op := 0x49, allowed := (bitList 8 mask).all fun n => s.owns h.part (0x60 + n), codes := (bitList 8 mask).map (0x60 + ·) }
    [mask, action] (runWdacControl (refOf h) mask action) s

end Sys2Proof.Machine
end

