-- ==== Sys2Proof/Machine/Calibration.lean ====
section
/-!
DEFINITION. Calibration and self-test: coefficients, the blob, jobs, outages and gap steps (08).
-/
namespace Sys2Proof.Machine

/-! ### Units and kinds (Table 8-1, R376) -/

/-- A unit of the engine. -/
inductive CalUnit where
  | adc (n : Fin 18)
  | slot (a : Fin 9) (k : Fin 8)
  | wdac (n : Fin 8)
deriving DecidableEq, Repr

/-- The unit that TYPE and INDEX name (log 23). -/
def calUnit (type index : Nat) : Option CalUnit :=
  match type with
  | 0 => (fin index : Option (Fin 18)).map .adc
  | 1 => match (fin (index / 8) : Option (Fin 9)), (fin (index % 8) : Option (Fin 8)) with
    | some a, some k => some (.slot a k)
    | _, _ => none
  | 2 => (fin index : Option (Fin 8)).map .wdac
  | _ => none

/-- Code of a unit (R376). -/
def CalUnit.code : CalUnit → Nat
  | .adc n => n.val
  | .slot a k => 0x20 + 8 * a.val + k.val
  | .wdac n => 0x70 + n.val

/-- The unit of a code. -/
def unitOf (u : Nat) : Option CalUnit := if u < 0x20 then calUnit 0 u else if u < 0x70 then calUnit 1 (u - 0x20) else calUnit 2 (u - 0x70)

/-- The resource code that owns a unit. -/
def CalUnit.res : CalUnit → Nat
  | .adc n => 0x40 + n.val
  | .slot a _ => a.val
  | .wdac n => 0x60 + n.val

/-- The domain of a unit; the waveform DACs have none. -/
def CalUnit.dom : CalUnit → Option (Fin 32)
  | .adc n => some (adcDom n)
  | .slot a _ => some (domOfA a)
  | .wdac _ => none

/-- The kinds that suit a unit type. -/
def CalUnit.suits : CalUnit → Nat → Bool
  | .adc _, k => k = 0 || k = 1 || k = 8
  | .slot _ _, k => (2 ≤ k && k ≤ 6) || k = 8
  | .wdac _, k => k = 7 || k = 8

def State.unitOwner (s : State) (u : CalUnit) : Fin 32 := (s.ownOf u.res).owner
def State.unitSuspect (s : State) (u : CalUnit) : Bool := match u.dom with | some i => s.isSuspect i | none => false

/-- BLOCKING outage in CK (Table 8-1). -/
def outage (kind : Nat) : Nat :=
  match kind with
  | 0 => 400000
  | 1 => 16000
  | 2 => 32000
  | 3 => 48000
  | 4 => 1048000
  | 5 => 4000
  | 6 => 32000
  | 7 => 256000
  | _ => 4000

/-- GAP steps of a job; ADC_SYS takes 200 for each of its two points. -/
def gapSteps (kind : Nat) : Nat :=
  match kind with
  | 0 => 5000
  | 1 => 400
  | 2 => 400
  | 3 => 600
  | 4 => 13100
  | 5 => 50
  | 6 => 400
  | 7 => 3200
  | _ => 50

/-! ### The blob (Table 8-2) -/

/-- Body length of a unit. -/
def bodyLen (u : Nat) : Nat := if u < 0x20 then 12 else if u < 0x70 then 176 else 79

/-- TYPE and INDEX of a unit. -/
def unitType (u : Nat) : Nat := if u < 0x20 then 0 else if u < 0x70 then 1 else 2
def unitIndex (u : Nat) : Nat := if u < 0x20 then u else if u < 0x70 then u - 0x20 else u - 0x70

/-- The blob of coefficients of a unit. -/
def blobOf (u : Nat) (c : Coef) : List Byte :=
  let b : List Byte := [BitVec.ofNat 8 (unitType u), BitVec.ofNat 8 (unitIndex u), 1, c.valid] ++ le 4 Config.serial ++
    le 2 c.dieT ++ le 6 c.et ++ c.body
  b ++ le 4 (crc32 b)

/-- The unit that a blob names. -/
def blobUnit (b : List Byte) : Option CalUnit := match b with | t :: i :: _ => calUnit t.toNat i.toNat | _ => none

/-- The coefficients that a blob carries. -/
def blobCoef (b : List Byte) : Coef :=
  { valid := b.getD 3 0, dieT := rd 16 b 8 2, et := rd 48 b 10 6, body := (b.drop 16).take (b.length - 20) }

/-- R152 for a target unit: the code of the first check that fails. -/
def State.blobCheck (s : State) (u : Nat) (b : List Byte) (force : Bool) : Option Byte :=
  let n := b.length - 4
  if b.length ≠ 20 + bodyLen u || b.getD 2 0 ≠ 1 || rd 32 b n 4 ≠ crc32 (b.take n) then some Status.outOfRange
  else if (b.getD 0 0).toNat ≠ unitType u || (b.getD 1 0).toNat ≠ unitIndex u then some Status.unitMismatch
  else if rd 32 b 4 4 ≠ Config.serial && !force then some Status.unitMismatch
  else if s.unitBusy u then some Status.conflict
  else none

/-- Coefficients that take effect at the next frame boundary. -/
def State.pendCoef (s : State) (u : Nat) (c : Coef) : State :=
  { s with cal := { s.cal with pending := (s.cal.pending.filter fun x => x.1 ≠ u) ++ [(u, c)] } }

/-- Coefficients take effect; a change of PREAMP_GAIN or CMP_OFFSET masks the slot (R152). -/
def State.setCoef (s : State) (u : Nat) (c : Coef) : State :=
  let trims := (s.coef u).body.take 16 ≠ c.body.take 16
  let s := { s with cal := { s.cal with coefs := store (neutralCoef u) s.cal.coefs u c } }
  match unitOf u with
  | some (.slot a k) => if trims then s.onSlot a k fun x => { x with masked := true } else s
  | _ => s

/-- The bytes of the body that a kind calibrates (R151). -/
def kindRange (kind : Nat) (u : Nat) : Nat × Nat :=
  match kind with
  | 2 => (12, 4)
  | 3 => (0, 12)
  | 4 => (48, 128)
  | 5 => (16, 2)
  | 6 => (18, 30)
  | _ => (0, bodyLen u)

/-- A body with the part that a kind calibrates replaced. -/
def mergeBody (kind : Nat) (u : Nat) (old new : List Byte) : List Byte :=
  let (i, n) := kindRange kind u
  old.take i ++ slice new i n ++ old.drop (i + n)

/-- GAIN and OFFSET of ADC_SYS from its two points (R150, R153, log 24); none when the means are equal. -/
def sysCoef (e0 e1 : Half) (m0 m1 : Word) : Option (Half × Half) :=
  let d := m1.toInt - m0.toInt
  if d = 0 then none
  else
    let num := (e1.toInt - e0.toInt) * 16 * 32768
    let g := clip 0 65535 (if d > 0 then roundDiv num d.toNat else roundDiv (-num) (-d).toNat)
    let o := clip (-32768) 32767 (roundDiv (16 * e0.toInt * 32768 - m0.toInt * g) 32768)
    some (BitVec.ofInt 16 g, BitVec.ofInt 16 o)

/-- A body with GAIN and OFFSET of one REF_SEL replaced. -/
def withRef (body : List Byte) (r : Nat) (g o : Half) : List Byte :=
  let b := body.take (2 * r) ++ le 2 g ++ body.drop (2 * r + 2)
  b.take (6 + 2 * r) ++ le 2 o ++ b.drop (8 + 2 * r)

/-! ### Jobs (R153 to R159) -/

/-- Jobs that hold a unit now. -/
def State.runningJobs (s : State) : Nat := (s.cal.jobs.toList.filter fun x => match x with | some x => x.state == .held | none => false).length

/-- Jobs whose claim of a waveform DAC waits for its tick (R138). -/
def State.waitingClaims (s : State) : List (Fin 16) := (List.finRange 8).filterMap fun n => s.wdacs[n].claim
def State.allJobs (s : State) : Nat := (s.cal.jobs.toList.filter Option.isSome).length

/-- The marks of a calibration unit whose domain has tripped. -/
def State.unitMarks (s : State) (u : CalUnit) : List Nat := match u.dom with | some i => s.tripMark i | none => []

/-- Raise CAL_BEGIN or CAL_END to the unit's owner. -/
def State.calEvent (s : State) (e : Ev) (u : CalUnit) (args : List Byte) : State :=
  s.raise { ev := e, unit := BitVec.ofNat 8 u.code, part := s.unitOwner u, args := args, marks := s.unitMarks u }

/-- Claim a unit at a class: whether the claim is granted (R157). A slot has no other claimant than the engine. -/
def State.claimUnit (s : State) (u : CalUnit) (cls : Cls) : Bool × State :=
  match u with
  | .adc n => s.takeAdc n cls
  | .slot _ _ => (true, s)
  | .wdac n => s.takeWdac n cls

/-- Release the unit of a job. -/
def State.releaseUnit (s : State) (u : CalUnit) (cls : Cls) : State :=
  match u with
  | .adc n => if s.adcs[n].cls = cls then s.giveAdc n else s
  | .slot _ _ => s
  | .wdac n => if s.wdacs[n].cls = cls then s.giveWdac n else s

/-- A repair holds its phase while either bay is SUSPECT (R236). -/
def State.halted (s : State) (x : Repair) : Bool := testBit s.pwr.suspect x.orig || testBit s.pwr.suspect x.spare

/-- An analogue repair in CALIBRATE puts its next jobs into free slots, GAP in SHADOW and BLOCKING in COLD, at repair
class; once all are done its WARMUP of at least 16 frames begins (R226, R228, R229). -/
def State.feedRepair (s : State) (r : Fin 3) : State :=
  match s.rep.slots[r] with
  | none => s
  | some x =>
    if x.phase ≠ RepPhase.calibrate || s.halted x then s
    else
      let room := (s.cal.jobs.toList.filter Option.isNone).length
      let s := s.each (x.calLeft.take room) fun s c =>
        match (List.finRange 16).find? fun j => s.cal.jobs[j].isNone with
        | none => s
        | some j =>
          let y : Job := {
            cmd := none, type := BitVec.ofNat 2 (unitType c.1), index := BitVec.ofNat 7 (unitIndex c.1), kind := c.2
            gap := !x.cold, apply := true, cls := .repair, state := if x.cold then .noticed else .queued
            steps := 0, point0 := none, point1 := none, pend := none, aborted := false, ending := false }
          let s := s.onJob j (some y)
          match unitOf c.1 with
          | some u => if x.cold then s.calEvent .calBegin u ([BitVec.ofNat 8 c.1] ++ bytesOf 1 c.2.toNat ++ bytesOf 4 (outage c.2.toNat)) else s
          | none => s
      let left := x.calLeft.drop room
      let mine (y : Option Job) : Bool := match y with
        | some y => y.cls == .repair && (match unitOf y.unit with | some u => u.dom == fin x.spare | none => false)
        | none => false
      let allDone := left.isEmpty && !(s.cal.jobs.toList.any mine)
      let x := { x with
        calLeft := left, phase := if allDone then RepPhase.warmup else RepPhase.calibrate
        effective := if allDone then (if x.warmup.toNat < 16 then 16 else x.warmup) else x.effective }
      { s with rep := { s.rep with slots := s.rep.slots.set r (some x) } }
def State.feedRepairs (s : State) : State := s.each (List.finRange 3) State.feedRepair

/-- A job that goes gives up a claim that waits for a DAC's tick. -/
def State.dropClaim (s : State) (j : Fin 16) (x : Job) : State :=
  match unitOf x.unit with
  | some (.wdac n) => s.onWdac n fun y => { y with claim := if y.claim = some j then none else y.claim }
  | _ => s

/-- A job ends with a reply: its unit is released, and a BLOCKING job that held it raises CAL_END, as does a GAP job that
gives way to a repair (`tell`, R157). A CAL_SYS_POINT that waits for it finds no job. -/
def State.endJob (s : State) (j : Fin 16) (r : Reply) (tell : Bool := false) : State :=
  match s.cal.jobs[j] with
  | none => s
  | some x =>
    let s := (s.onJob j none).dropClaim j x
    let s := match x.pend with | some p => s.finish p.cmd (failed Status.notReady) | none => s
    let s := match unitOf x.unit with
      | some u =>
        if x.state = .held then
          let s := s.releaseUnit u x.cls
          if x.gap && !tell then s else s.calEvent .calEnd u []
        else s
      | none => s
    match x.cmd with
    | some c => if x.aborted then s else s.finish c r
    | none => if x.cls = .repair then s.feedRepairs else s

/-- End every job that meets a condition. -/
def State.endJobs (s : State) (f : Job → Bool) (r : Reply) (tell : Bool := false) : State :=
  s.each (List.finRange 16) fun s j =>
    match s.cal.jobs[j] with
    | some x => if f x then s.endJob j r tell else s
    | none => s

/-- A job's unit lies in a domain. -/
def Job.inDom (x : Job) (i : Fin 32) : Bool := match unitOf x.unit with | some u => u.dom == some i | none => false

/-- A trip ends the jobs of its domain with FAULT (R160). -/
def State.tripJobs (s : State) (i : Fin 32) : State := s.endJobs (fun x => x.inDom i) (failed Status.fault)

/-- A job holds a unit of the domain (R160). -/
def State.domHeld (s : State) (i : Fin 32) : Bool := s.cal.jobs.toList.any fun x =>
  match x with
  | some x => x.inDom i && x.state == .held
  | none => false

/-- A keeper watchdog reset: queued jobs are discarded, a step or outage runs to its end, and each job's command
completes with INTERRUPTED; no coefficient changes (R160). -/
def State.calRestart (s : State) : State :=
  s.each (List.finRange 16) fun s j =>
    match s.cal.jobs[j] with
    | some x =>
      if x.cmd.isNone then s
      else
        let s := match x.cmd with | some c => s.finish c (failed Status.interrupted) | none => s
        (s.onJob j (if x.state = .held then some { x with cmd := none, pend := none, apply := false, ending := true } else none)).dropClaim j x
    | none => s

/-- SELFTEST (R158): a limit passed fails the test, more than half of it is drift. -/
def State.selftest (s : State) (u : CalUnit) (devs : List Nat) (real : Bool) : State :=
  let lim := match u with
    | .adc _ => (bits s.cal.limits 0 8).toNat
    | .slot _ _ => (bits s.cal.limits 8 8).toNat
    | .wdac _ => (bits s.cal.limits 16 8).toNat
  let unit := BitVec.ofNat 8 u.code
  let fails := real || devs.any fun d => lim < d
  let (bad, inj1, s) := s.check 0x0C1 unit fails
  let (drift, inj2, s) := s.check 0x0C2 unit (!fails && devs.any fun d => lim < 2 * d)
  let marks := s.unitMarks u
  let s := if bad then
      s.raise { ev := .selftestFail, det := 0x0C1, unit := unit, part := s.unitOwner u, injected := inj1, marks := marks }
    else s
  if drift then s.raise { ev := .calDrift, det := 0x0C2, unit := unit, part := s.unitOwner u, injected := inj2, marks := marks } else s

/-- The coefficients that a finished job has found. -/
def State.jobBody (s : State) (x : Job) (new : List Byte) : State × List Byte :=
  let old := (s.coef x.unit).body
  if x.kind = 1 then
    let r := match unitOf x.unit with | some (.adc n) => s.adcs[n].refSel.toNat | _ => 0
    match x.point0, x.point1 with
    | some (e0, m0), some (e1, m1) =>
      match sysCoef e0 e1 m0 m1 with
      | some (g, o) => (s, withRef old r g o)
      | none =>
        let (w, s) := s.draw
        (s, withRef old r (bits w 0 16) (bits w 16 16))
    | _, _ => (s, old)
  else (s, mergeBody x.kind.toNat x.unit old new)

/-- A job has done its work: coefficients at the release boundary for BLOCKING, at the next boundary for GAP; then its
reply (R153 to R158). -/
def State.completeJob (s : State) (j : Fin 16) (r : CalResult) (real : Bool) : State :=
  match s.cal.jobs[j] with
  | none => s
  | some x =>
    match unitOf x.unit with
    | none => s.endJob j (failed Status.aborted)
    | some u =>
      if x.kind = 8 then
        let s := s.selftest u r.deviations real
        let (mask, s) := s.draw
        s.endJob j (done (le 4 mask))
      else
        let (s, body) := s.jobBody x r.body
        let old := s.coef x.unit
        let c : Coef := { valid := setBit old.valid x.kind.toNat, dieT := s.pwr.dieT, et := s.clk.et, body := body }
        let s := if x.apply then (if x.gap then s.pendCoef x.unit c else s.setCoef x.unit c) else s
        s.endJob j (done (blobOf x.unit c))

/-- Both points of an ADC_SYS job have been taken, or the job is of another kind. -/
def Job.ready (x : Job) : Bool := x.kind ≠ 1 || (x.point0.isSome && x.point1.isSome)

/-- Release the aborted jobs that still hold a unit (Table 8-3, CAL_ABORT). -/
def State.releaseAborted (s : State) : State := s.endJobs (·.aborted) (failed Status.aborted)

/-- At a frame boundary: pending coefficients take effect and aborted jobs release their units (R152). -/
def State.calBoundary (s : State) : State :=
  let s := (s.each s.cal.pending fun s x => s.setCoef x.1 x.2).releaseAborted
  { s with cal := { s.cal with pending := [] } }

/-! ### Registers (Table 8-4) -/

inductive CalReg where
  | status
  | gapCfg
  | events
  | cnt
  | limits
  | coefSel
  | coefAddr
  | coefData
  | coefApply
  | job (j : Fin 16)
  | jobSt (j : Fin 16)
deriving DecidableEq, Repr

def jobStateCode : JobState → Nat
  | .queued => 1
  | .noticed => 2
  | .held => 3
  | .between => 4

/-- GAP jobs wait because no gap source is selected (R156). -/
def State.calStalled (s : State) : Bool := s.clk.gapSrc = 0 && s.cal.jobs.toList.any fun x =>
  match x with
  | some x => x.gap
  | none => false

def calStatus (s : State) : Word :=
  BitVec.ofNat 32 (s.runningJobs + 256 * (s.allJobs - s.runningJobs)) ||| flag s.calStalled 16

/-- The unit that a partition's window shows. -/
def CoefWindow.unit (w : CoefWindow) : Option CalUnit := calUnit w.type.toNat w.index.toNat

/-- The partition owns the unit. -/
def State.ownsUnit (s : State) (p : Fin 32) (u : Option CalUnit) : Bool := match u with | some u => s.owns p u.res | none => true
def unitDoms (u : Option CalUnit) : List (Fin 32) := match u with | some u => u.dom.toList | none => []

/-- The blob staged by a partition, as long as the selected unit's. -/
def CoefWindow.blob (w : CoefWindow) (u : Nat) : List Byte := (List.range (20 + bodyLen u)).map fun i => look 0 w.staged i

def State.onWindow (s : State) (p : Fin 32) (f : CoefWindow → CoefWindow) : State :=
  { s with cal := { s.cal with windows := upd s.cal.windows p f } }

def calAccess (p : Fin 32) (r : CalReg) (s : State) : Access :=
  let w := s.cal.windows[p]
  let own := s.ownsUnit p w.unit
  let doms := unitDoms w.unit
  match r with
  | .status => roReg (calStatus s) 0x00011F07
  | .gapCfg => rwReg s.cal.gapCfg 0xFFFFFFFF (p == 0) (range := fun v => 12 ≤ (bits v 0 16).toNat) fun v s =>
      { s with cal := { s.cal with gapCfg := v } }
  | .events => w1cReg (p == 0) s.cal.events 0xF .cal 0
  | .cnt => roReg (field s.cal.steps 0 ||| field s.cal.aborts 16)
  | .limits => rwReg s.cal.limits 0x00FFFFFF (p == 0) fun v s => { s with cal := { s.cal with limits := v } }
  | .coefSel =>
    let u (v : Word) := calUnit (bits v 0 2).toNat (bits v 8 7).toNat
    { val := field w.type 0 ||| field w.index 8, mask := 0x7F03, writable := true
      who := fun v => s.ownsUnit p (u v), doms := fun v => unitDoms (u v), range := fun v => (u v).isSome
      act := fun _ v s => s.onWindow p fun w => { w with type := bits v 0 2, index := bits v 8 7 } }
  | .coefAddr => rwReg (field w.addr 0) 0xFF own (doms := doms) (range := fun v => bits v 0 2 = 0) fun v s =>
      s.onWindow p fun w => { w with addr := bits v 0 8 }
  | .coefData =>
    { val := match w.unit with | some u => rd 32 (blobOf u.code (s.coef u.code)) w.addr.toNat 4 | none => 0
      writable := true, who := fun _ => own, doms := fun _ => doms
      act := fun _ v s => s.onWindow p fun w => { w with
        staged := storeAll 0 w.staged w.addr.toNat (le 4 v), addr := w.addr + 4 } }
  | .coefApply =>
    { val := 0, mask := 0, writable := true, who := fun _ => own, doms := fun _ => doms
      rule := fun _ v => match w.unit with
        | some u => if testBit v 0 then s.blobCheck u.code (w.blob u.code) (testBit v 1) else none
        | none => none
      act := fun _ v s => match w.unit with
        | some u => if testBit v 0 then s.pendCoef u.code (blobCoef (w.blob u.code)) else s
        | none => s }
  | .job j => roReg (match s.cal.jobs[j] with
      | some x => field x.type 0 ||| field x.index 8 ||| field x.kind 16 ||| flag x.gap 20
      | none => 0) 0x001F7F03
  | .jobSt j => roReg (match s.cal.jobs[j] with
      | some x => BitVec.ofNat 32 (jobStateCode x.state + 65536 * x.steps)
      | none => 0) 0xFFFF0007

/-! ### Meanings: moments -/

/-- Whether job `x` may take its unit now: at most 4 jobs run, each on a distinct unit (R159). A claim that waits for a DAC's
tick counts (log 176). -/
def State.mayRun (s : State) (x : Job) : Bool := s.runningJobs + s.waitingClaims.length < 4 && !s.unitHeld x.unit

/-- A BLOCKING job holds the unit that job `j` would claim, or has claimed it first: CONFLICT (R157, log 176). -/
def State.rivalHolds (s : State) (j : Fin 16) (x : Job) : Bool := x.cls = .blocking && (List.finRange 16).any fun i =>
  match s.cal.jobs[i] with
  | some y => i ≠ j && y.unit == x.unit && y.cls == .blocking && (y.state == .held || s.waitingClaims.contains i)
  | none => false

/-- The engine claims the unit of a job. A DAC that runs for its user goes to the job at its next tick (R138). -/
def State.claimFor (s : State) (j : Fin 16) (x : Job) (u : CalUnit) : State :=
  let waits : Option (Fin 8) := match u with
    | .wdac n => if s.wdacs[n].keeps && outranks x.cls .user (wdacOutEn s.wdacs[n].ctrl) then some n else none
    | _ => none
  match waits with
  | some n => s.awaitTick n j
  | none =>
    let (ok, s) := s.claimUnit u x.cls
    if ok then s.onJob j (some { x with state := .held }) else s.endJob j (failed Status.conflict)

/-- CAL_NOTICE_EXPIRY (R155, R157): the engine claims the unit of a BLOCKING job; a refused claim ends it with CONFLICT. -/
def execCalNoticeExpiry (j : Fin 16) (s : State) : Outcome :=
  whenHw s fun s =>
    match s.cal.jobs[j] with
    | some x =>
      match unitOf x.unit with
      | some u =>
        if x.gap || x.state ≠ .noticed then s
        else if s.rivalHolds j x then s.endJob j (failed Status.conflict)
        else if s.mayRun x then s.claimFor j x u
        else s
      | none => s
    | none => s

/-- A repair's claim of a unit ends the jobs that hold or queue it (R157). -/
def State.repairClaims (s : State) (u : CalUnit) (cls : Cls) : State :=
  if cls = .repair then s.endJobs (fun x => x.unit == u.code && x.cls ≠ .repair) (failed Status.aborted) true else s

/-- ADC_TAKEOVER (R127, R128, R157). -/
def execAdcTakeover (n : Fin 18) (cls : Cls) (s : State) : Outcome :=
  whenHw s fun s => ((s.repairClaims (.adc n) cls).takeAdc n cls).2

/-- A job's claim that waits for a tick finds the DAC taken: CONFLICT (R138, log 176). -/
def State.claimLost (s : State) (n : Fin 8) : State :=
  match s.wdacs[n].claim with
  | some j => s.endJob j (failed Status.conflict)
  | none => s

/-- WDAC_TAKEOVER (R138, R139, R157). -/
def execWdacTakeover (n : Fin 8) (cls : Cls) (s : State) : Outcome :=
  whenHw s fun s =>
    let (ok, s) := (s.repairClaims (.wdac n) cls).takeWdac n cls
    if ok then s.claimLost n else s

/-- CAL_OUTAGE_END (R155): the end of a BLOCKING outage. -/
def execCalOutageEnd (j : Fin 16) (r : CalResult) (real : Bool) (s : State) : Outcome :=
  whenHw s fun s =>
    match s.cal.jobs[j] with
    | some x => if !x.gap && x.state = .held && !x.aborted && (x.ready || x.ending) then s.completeJob j r real else s
    | none => s

/-- A gap step may start in this gap frame (R156). -/
def State.gapFits (s : State) : Bool := s.clk.gap && (s.ck - s.clk.gapStart) / 8 + 12 ≤ (bits s.cal.gapCfg 0 16).toNat

/-- CAL_GAP_STEP_START (R156, R157): the unit is lent for a step; else the job waits. After its first step, the claim, an
ADC_SYS job takes steps only for a point (log 134). -/
def execCalGapStepStart (j : Fin 16) (s : State) : Outcome :=
  whenHw s fun s =>
    match s.cal.jobs[j] with
    | some x =>
      match unitOf x.unit with
      | some u =>
        let work := x.kind ≠ 1 || x.pend.isSome || x.state = .queued
        if x.gap && (x.state = .queued || x.state = .between) && work && s.gapFits && s.mayRun x then
          let (ok, s) := s.claimUnit u x.cls
          if ok then s.onJob j (some { x with state := .held }) else s
        else s
      | none => s
    | none => s

/-- The mean that a point measures (log 13). -/
def State.measure (s : State) : Word × State := (Config.measured s.freeCtr, { s with freeCtr := s.freeCtr + 1 })

/-- A point of an ADC_SYS job has been measured (R153). -/
def State.takePoint (s : State) (j : Fin 16) (x : Job) (second : Bool) (expected : Half) : Word × State :=
  let (m, s) := s.measure
  let p : Option (Half × Word) := some (expected, m)
  (m, s.onJob j (some (if second then { x with point1 := p, pend := none } else { x with point0 := p, pend := none })))

/-- One step of the point that a GAP job measures; its 200th completes the command (Table 8-1). -/
def State.pointStep (s : State) (j : Fin 16) (x : Job) : State :=
  match x.pend with
  | none => s
  | some p =>
    if 1 < p.left then s.onJob j (some { x with pend := some { p with left := p.left - 1 } })
    else
      let (m, s) := s.takePoint j x p.second p.expected
      s.finish p.cmd (done (le 4 m))

/-- A GAP job whose work is done completes: all its steps, or both points of ADC_SYS (Table 8-1). -/
def State.finishGap (s : State) (j : Fin 16) (r : CalResult) (real : Bool) : State :=
  match s.cal.jobs[j] with
  | some x => if x.ready && (x.kind = 1 || gapSteps x.kind.toNat ≤ x.steps) then s.completeJob j r real else s
  | none => s

/-- CAL_GAP_STEP_END (R156): a step is done; the last one ends the job. -/
def execCalGapStepEnd (j : Fin 16) (r : CalResult) (real : Bool) (s : State) : Outcome :=
  whenHw s fun s =>
    match s.cal.jobs[j] with
    | some x =>
      match unitOf x.unit with
      | some u =>
        if x.gap && x.state = .held then
          let x := { x with steps := if x.kind ≠ 1 || x.pend.isSome then x.steps + 1 else x.steps, state := .between }
          let s := (s.releaseUnit u x.cls).onJob j (some x)
          let s := { s with cal := { s.cal with steps := satInc s.cal.steps } }
          if x.aborted || x.ending then s.endJob j (failed Status.aborted)
          else (s.pointStep j x).finishGap j r real
        else s
      | none => s
    | none => s

/-- What is lent to gap calibration without a job returns at the gap's end (R128, R139). -/
def State.returnLent (s : State) : State :=
  let s := s.each (List.finRange 18) fun s n => if s.adcs[n].cls = .gap then s.giveAdc n else s
  s.each (List.finRange 8) fun s n => if s.wdacs[n].cls = .gap then s.giveWdac n else s

/-- The gap ends: every running step is abandoned and its unit returned (R156). -/
def State.abandonSteps (s : State) : State :=
  State.returnLent <| s.each (List.finRange 16) fun s j =>
    match s.cal.jobs[j] with
    | some x =>
      if x.gap && x.state = .held then
        let s := match unitOf x.unit with | some u => s.releaseUnit u x.cls | none => s
        let s := s.onJob j (if x.ending then none else some { x with state := .between })
        { s with cal := { s.cal with aborts := satInc s.cal.aborts } }
      else s
    | none => s

/-- CAL_SYS_TIMEOUT (R153): an ADC_SYS job that has claimed its ADC and lacks its next point ends with ABORTED. -/
def execCalSysTimeout (j : Fin 16) (s : State) : Outcome :=
  whenHw s fun s =>
    match s.cal.jobs[j] with
    | some x => if x.kind = 1 && !x.ready && (x.state = .held || x.state = .between) then s.endJob j (failed Status.aborted) else s
    | none => s

/-- CAL_COEF_TAKE_EFFECT (R152): the frame boundary. -/
def execCalCoefTakeEffect (s : State) : Outcome := whenHw s State.calBoundary

/-- CAL_COEF_DATA_WRITE (R162). -/
def execCalCoefDataWrite (p : Fin 32) (v : Word) (s : State) : Outcome :=
  whenHw s fun s => s.writeOne p (calAccess p .coefData) v

/-- CAL_COEF_APPLY (R152, R162). -/
def execCalCoefApply (p : Fin 32) (v : Word) (s : State) : Outcome :=
  whenHw s fun s => s.writeOne p (calAccess p .coefApply) v

/-! ### Meanings: commands (Table 8-3) -/

def unitArg (type index : Byte) : Option CalUnit := calUnit type.toNat index.toNat
def unitCodes (u : Option CalUnit) : List Nat := match u with | some u => [u.res] | none => []

/-- The unit's bay takes part in a repair (R225). -/
def State.unitInRepair (s : State) (u : CalUnit) : Bool := match u.dom with | some i => s.inRepair i.val | none => false

/-- A new job in the first free slot. -/
def State.addJob (s : State) (x : Job) : Option State :=
  ((List.finRange 16).find? fun j => s.cal.jobs[j].isNone).map fun j => s.onJob j (some x)

def runCalRun (c : CmdRef) (u : Option CalUnit) (kind mode apply : Byte) : Run := fun s =>
  match u with
  | none => (s, some (failed Status.outOfRange))
  | some u =>
    let gap := mode = 1
    let off := match u.dom with | some i => !s.isOn i | none => false
    let noGap := s.clk.gapSrc = 0 || (s.clk.gapSrc = 6 && s.clk.genInvalid)
    let blocked := s.cal.jobs.toList.any fun x => match x with
      | some x => x.unit == u.code && x.state == .held && !x.gap
      | none => false
    if !u.suits kind.toNat || 1 < mode.toNat || 1 < apply.toNat then (s, some (failed Status.outOfRange))
    else if s.unitSuspect u then (s, some (failed Status.hwMismatch))
    else if (gap && noGap) || off then (s, some (failed Status.notReady))
    else if s.unitInRepair u || (!gap && blocked) then (s, some (failed Status.conflict))
    else
      let x : Job := {
        cmd := some c, type := BitVec.ofNat 2 (unitType u.code), index := BitVec.ofNat 7 (unitIndex u.code), kind := bits kind 0 4
        gap := gap, apply := apply = 1, cls := if gap then .gap else .blocking, state := if gap then .queued else .noticed
        steps := 0, point0 := none, point1 := none, pend := none, aborted := false, ending := false }
      match s.addJob x with
      | none => (s, some (failed Status.busy))
      | some s =>
        (if gap then s else s.calEvent .calBegin u ([BitVec.ofNat 8 u.code, kind] ++ bytesOf 4 (outage kind.toNat)), none)

/-- CAL_RUN (R153 to R159). -/
def execCalRun (h : Header) (type index kind mode apply : Byte) (s : State) : Outcome :=
  let u := unitArg type index
  darem (.calRun h type index kind mode apply) h
    { op := 0x50, allowed := s.ownsUnit h.part u, codes := unitCodes u, long := true }
    [type, index, kind, mode, apply] (runCalRun (refOf h) u kind mode apply) s

/-- The ADC_SYS job that has claimed an ADC. -/
def State.sysJob (s : State) (u : Nat) : Option (Fin 16 × Job) :=
  (List.finRange 16).findSome? fun j =>
    match s.cal.jobs[j] with
    | some x => if x.unit = u && x.kind = 1 && x.state ≠ .noticed && !x.aborted then some (j, x) else none
    | none => none

def runCalSysPoint (c : CmdRef) (adc point : Byte) (expected : Half) : Run := fun s =>
  match calUnit 0 adc.toNat with
  | none => (s, some (failed Status.outOfRange))
  | some u =>
    if 1 < point.toNat || expected.toInt < -8192 || 8191 < expected.toInt then (s, some (failed Status.outOfRange))
    else if s.unitSuspect u then (s, some (failed Status.hwMismatch))
    else match s.sysJob u.code with
      | none => (s, some (failed Status.notReady))
      | some (j, x) =>
        let near := match x.point0 with | some (e0, _) => decide ((expected.toInt - e0.toInt).natAbs < 1024) | none => false
        if x.ready || x.pend.isSome || (point = 1 && x.point0.isNone) then (s, some (failed Status.notReady))
        else if point = 1 && near then (s, some (failed Status.outOfRange))
        else if x.gap then
          (s.onJob j (some { x with pend := some { cmd := c, second := point = 1, expected := expected, left := 200 } }), none)
        else
          let (m, s) := s.takePoint j x (point = 1) expected
          (s, some (done (le 4 m)))

/-- CAL_SYS_POINT (R153): a BLOCKING job takes the point at once, a GAP job in its next 200 steps (log 134). -/
def execCalSysPoint (h : Header) (adc point : Byte) (expected : Half) (s : State) : Outcome :=
  let u := calUnit 0 adc.toNat
  darem (.calSysPoint h adc point expected) h { op := 0x51, allowed := s.ownsUnit h.part u, codes := unitCodes u }
    ([adc, point] ++ le 2 expected) (runCalSysPoint (refOf h) adc point expected) s

def runCalAbort (u : Option CalUnit) : Run := fun s =>
  match u with
  | none => (s, some (failed Status.outOfRange))
  | some u =>
    if s.unitSuspect u then (s, some (failed Status.hwMismatch)) else
    (s.each (List.finRange 16) fun s j =>
      match s.cal.jobs[j] with
      | some x =>
        if x.unit = u.code && !x.aborted then
          if x.state = .held then
            let s := match x.cmd with | some c => s.finish c (failed Status.aborted) | none => s
            s.onJob j (some { x with aborted := true })
          else s.endJob j (failed Status.aborted)
        else s
      | none => s, some (done []))

/-- CAL_ABORT (Table 8-3). -/
def execCalAbort (h : Header) (type index : Byte) (s : State) : Outcome :=
  let u := unitArg type index
  darem (.calAbort h type index) h { op := 0x52, allowed := s.ownsUnit h.part u, codes := unitCodes u } [type, index] (runCalAbort u) s

def runCalCoefGet (u : Option CalUnit) : Run := fun s =>
  match u with
  | none => (s, some (failed Status.outOfRange))
  | some u => (s, some (done (blobOf u.code (s.coef u.code))))

/-- CAL_COEF_GET (R151). -/
def execCalCoefGet (h : Header) (type index : Byte) (s : State) : Outcome :=
  let u := unitArg type index
  darem (.calCoefGet h type index) h { op := 0x53, allowed := s.ownsUnit h.part u, codes := unitCodes u, idem := true }
    [type, index] (runCalCoefGet u) s

/-- A blob has the length that its TYPE gives (R151, R409). -/
def blobFits (b : List Byte) : Bool :=
  match b with
  | t :: _ => b.length == (if t = 0 then 32 else if t = 1 then 196 else if t = 2 then 99 else 0)
  | [] => false

def runCalCoefSet (force : Bool) (blob : List Byte) : Run := fun s =>
  match blobUnit blob with
  | none => (s, some (failed Status.outOfRange))
  | some u =>
    if s.unitSuspect u then (s, some (failed Status.hwMismatch))
    else match s.blobCheck u.code blob force with
      | some c => (s, some (failed c))
      | none => (s.pendCoef u.code (blobCoef blob), some (done []))

/-- CAL_COEF_SET (R152). -/
def execCalCoefSet (h : Header) (blob : List Byte) (s : State) : Outcome :=
  let u := blobUnit blob
  darem (.calCoefSet h blob) h 
    { op := 0x54, layout := blobFits blob, allowed := s.ownsUnit h.part u, codes := unitCodes u } blob (runCalCoefSet h.force blob) s

def runCalCoefNeutral (u : Option CalUnit) : Run := fun s =>
  match u with
  | none => (s, some (failed Status.outOfRange))
  | some u =>
    if s.unitSuspect u then (s, some (failed Status.hwMismatch))
    else if s.unitBusy u.code then (s, some (failed Status.conflict))
    else (s.pendCoef u.code (neutralCoef u.code), some (done []))

/-- CAL_COEF_NEUTRAL (R150, R152). -/
def execCalCoefNeutral (h : Header) (type index : Byte) (s : State) : Outcome :=
  let u := unitArg type index
  darem (.calCoefNeutral h type index) h { op := 0x55, allowed := s.ownsUnit h.part u, codes := unitCodes u } [type, index]
    (runCalCoefNeutral u) s

end Sys2Proof.Machine
end

