-- ==== Sys2Proof/Machine/Fabric.lean ====
section
/-!
DEFINITION. The lintel crossbar: sources, destinations, staging and commits (09 R166 to R172, R178, R179).
-/
namespace Sys2Proof.Machine

/-! ### Sources and destinations (Tables 9-3, 9-4) -/

/-- The resource code of a listed source; `some none` for a shared one. -/
def linSource (i : Nat) : Option (Option Nat) :=
  if i < 0x480 then some (some (0x10 + i / 64))
  else if i < 0x900 then some (some ((i - 0x480) / 128))
  else if i < 0x912 then some (some (0x40 + (i - 0x900)))
  else if 0xA00 ≤ i && i < 0xC00 && i % 128 < 97 then
    some (if i % 128 = 96 then none else some (0x110 + 0x20 * ((i - 0xA00) / 128) + i % 128 / 8))
  else if 0xC00 ≤ i && i < 0xC18 then some (some (0x70 + (i - 0xC00)))
  else if 0xC20 ≤ i && i < 0xC30 then some (some (0x90 + (i - 0xC20)))
  else if i = 0xC30 || i = 0xC31 || i = 0xC32 || i = 0xFFF then some none
  else none

/-- The resource code of a listed destination; `some none` for the trigger accept line, which is P0's. -/
def linDest (i : Nat) : Option (Option Nat) :=
  if i < 0x480 then some (some (0x10 + i / 64))
  else if 0x500 ≤ i && i < 0x700 && i % 128 < 96 then some (some (0x100 + 0x20 * ((i - 0x500) / 128) + i % 128 / 8))
  else if 0x700 ≤ i && i < 0x710 then some (some (0xA0 + (i - 0x700)))
  else if i = 0x710 then some none
  else if 0x720 ≤ i && i < 0x738 then some (some (0x70 + (i - 0x720)))
  else none

/-- The domain that a source's unit lies in. -/
def sourceDom (i : Nat) : Option (Fin 32) :=
  if i < 0x480 then fin (9 + i / 64)
  else if i < 0x900 then fin ((i - 0x480) / 128)
  else if i < 0x912 then fin ((i - 0x900) / 2)
  else if 0xA00 ≤ i && i < 0xC00 then fin (27 + (i - 0xA00) / 128)
  else none

/-- The bay, numbered as a domain, whose input port a destination is. -/
def destDom (i : Nat) : Option (Fin 32) := if i < 0x480 then fin (9 + i / 64) else none

/-- The source that a destination selects. -/
def State.linActive (s : State) (dst : Nat) : BitVec 12 := look 0xFFF s.lin.active dst

/-- Owner of a destination. -/
def State.destOwner (s : State) (dst : Nat) : Fin 32 :=
  match linDest dst with
  | some (some c) => (s.ownOf c).owner
  | _ => 0

/-- A partition may stage this route (R170); an index out of range is left to the range check. -/
def State.mayStage (s : State) (p : Fin 32) (dst src : Nat) : Bool :=
  (match linDest dst with
    | some (some c) => s.owns p c
    | some none => p == 0
    | none => true) &&
  (match linSource src with
    | some (some c) => s.owns p c
    | _ => true)

/-- The route names a destination in a repair, or one fed by a source of a bay in a repair (R171). -/
def State.linInRepair (s : State) (dst : Nat) : Bool :=
  (match destDom dst with | some i => s.inRepair i.val | none => false) ||
  (match sourceDom (s.linActive dst).toNat with | some i => s.inRepair i.val | none => false)

/-- The domains of the bays that a route names (R178). -/
def routeDoms (dst src : Nat) : List (Fin 32) := ((destDom dst).toList ++ (sourceDom src).toList).filter fun i => i.val < 27

/-! ### Values (R166, R167, R172) -/

/-- What the output ports of a digital bay present: 0 while the bay is not ON or in GSR (R172, R175). -/
def State.portWord (s : State) (d : Fin 18) : BitVec 64 := if s.isOn (domOfD d) && !s.gsr d then s.dbays[d].outPorts else 0
def State.portBit (s : State) (d : Fin 18) (j : Nat) : Bool := testBit (s.portWord d) j

/-- Bit `b` of the segment that port `p` delivered last; bit 96 is 1 with VALID and a good CRC (Table 9-3, log 136). -/
def State.rxBit (s : State) (p : Fin 4) (b : Nat) : Bool :=
  let x := s.ports[p]
  s.isOn (domOfL p) && if b = 96 then x.rxValid else testBit (x.rxSeg.getD (b / 8) 0) (b % 8)

/-- What a source presents in this cycle (Table 9-3). Firings of a timer that an engine holds reach no route (R127). -/
def State.srcValue (s : State) (i : Nat) : Bool :=
  if i < 0x480 then match (fin (i / 64) : Option (Fin 18)) with | some d => s.portBit d (i % 64) | none => false
  else if i < 0x900 then match (fin ((i - 0x480) / 128) : Option (Fin 9)) with | some a => s.feedBit a (i % 128) | none => false
  else if i < 0xA00 then match (fin (i - 0x900) : Option (Fin 18)) with | some n => s.isOn (adcDom n) && s.adcs[n].wev | none => false
  else if i < 0xC00 then match (fin ((i - 0xA00) / 128) : Option (Fin 4)) with | some p => s.rxBit p (i % 128) | none => false
  else if i < 0xC20 then match (fin (i - 0xC00) : Option (Fin 24)) with | some c => s.io[c].sample | none => false
  else if i < 0xC30 then match (fin (i - 0xC20) : Option (Fin 16)) with | some t => s.timers[t].fired && s.timers[t].cls == .user | none => false
  else if i = 0xC30 then s.clk.gap
  else if i = 0xC31 then s.clk.atBoundary
  else i == 0xC32 && bits s.clk.et 0 15 == 0

/-- What a destination presents in this cycle. -/
def State.destValue (s : State) (i : Nat) : Bool := s.lin.out.contains i

/-- A line one cycle on, at its new level: the length of its pulse is counted (R111). -/
def Line.step (x : Line) (level : Bool) : Line :=
  { now := level, was := x.now, width := if level then (if x.now then satInc x.width else 1) else x.width }

/-- The destination of PWE line `k`, or of the trigger accept line, which is number 16. -/
def lineDest (k : Nat) : Nat := 0x700 + k

/-- The crossbar at the end of a cycle: what its sources presented is under way for the cycle after the next (R166, R169). -/
def State.nextLin (s : State) : Lin :=
  let x := s.lin
  { x with
    out := x.pipe, pipe := (x.active.filter fun c => s.srcValue c.2.toNat).map (·.1)
    lines := Vector.ofFn fun k => x.lines[k].step (x.pipe.contains (lineDest k.val)) }

/-- The transmitted-segment bits that the destinations of a port present (R244). -/
def State.userBits (s : State) (p : Fin 4) : BitVec 96 :=
  let at0 := 0x500 + 128 * p.val
  s.lin.out.foldl (fun v i => if at0 ≤ i ∧ i < at0 + 96 then setBit v (i - at0) else v) 0

/-! ### Staging and commits (R169) -/

/-- Stage a route. -/
def State.stageRoute (s : State) (p : Fin 32) (dst src : BitVec 12) : State :=
  let kept := s.lin.staged.filter fun x => x.committed || x.dst ≠ dst
  { s with lin := { s.lin with staged := kept ++ [{ dst := dst, src := src, writer := p, engine := false, committed := false }] } }

/-- A partition commits every entry that it has staged. -/
def State.commitRoutes (s : State) (p : Fin 32) : State :=
  let mark (x : Staged) : Staged := if x.writer = p then { x with committed := true } else x
  { s with lin := { s.lin with
    staged := s.lin.staged.map mark
    pending := if s.lin.pending.contains p then s.lin.pending else s.lin.pending ++ [p] } }

def State.discardRoutes (s : State) (p : Fin 32) : State :=
  { s with lin := { s.lin with staged := s.lin.staged.filter fun x => x.committed || x.writer ≠ p } }

/-- The boundary: committed entries become active, and the commands that wait complete. -/
def State.applyRoutes (s : State) : State :=
  let act := s.lin.staged.foldl (fun m x => if x.committed then store 0xFFF m x.dst.toNat x.src else m) s.lin.active
  let waits := s.lin.waits
  let s := { s with lin := { s.lin with active := act, staged := s.lin.staged.filter (!·.committed), pending := [], waits := [] } }
  s.finishAll waits (done [])

/-- The staged entries of a partition on resources it has lost are discarded, and those it has committed still apply
(R171). -/
def State.dropStaged (s : State) (p : Fin 32) (codes : List Nat) : State :=
  let lost (x : Staged) : Bool := x.writer = p && !x.committed &&
    ((match linDest x.dst.toNat with | some (some c) => codes.contains c | _ => false) ||
     (match linSource x.src.toNat with | some (some c) => codes.contains c | _ => false))
  { s with lin := { s.lin with staged := s.lin.staged.filter fun x => !lost x } }

/-- A domain has left ON: every owner of a destination that its sources feed is told, and the last source is recorded
(R172). -/
def State.sourceOff (s : State) (i : Fin 32) : State :=
  let hit := s.lin.active.filter fun x => sourceDom x.2.toNat == some i
  let owners := (hit.map fun x => s.destOwner x.1).dedup
  let s := s.each owners fun s p =>
    let src := match hit.find? fun x => s.destOwner x.1 = p with | some x => x.2 | none => 0xFFF
    s.raise { ev := .linSrcOff, unit := BitVec.ofNat 8 i.val, part := p, args := le 2 src, marks := s.tripMark i }
  match hit.getLast? with
  | some x => { s with lin := { s.lin with offSrc := x.2 } }
  | none => s

/-! ### Registers (Tables 9-6, 9-7) -/

inductive LinReg where
  | ctrl
  | status
  | events
  | offSrc
  | stage (x : BitVec 12)
  | active (x : BitVec 12)
deriving DecidableEq, Repr

/-- LIN_STAGE_x: the staged entry, or the active source. -/
def stageWord (s : State) (x : BitVec 12) : Word :=
  match s.lin.staged.reverse.find? fun e => e.dst = x with
  | some e => field e.src 0 ||| flag true 15 ||| BitVec.ofNat 32 (e.writer.val * 65536)
  | none => field (s.linActive x.toNat) 0

def linAccess (p : Fin 32) (r : LinReg) (s : State) : Access :=
  match r with
  | .ctrl =>
    { val := 0, mask := 0, writable := true, who := fun _ => true
      rule := fun _ v =>
        if testBit v 0 && s.lin.staged.any fun x => x.writer = p && !x.committed && s.linInRepair x.dst.toNat then some Status.conflict else none
      act := fun _ v s =>
        let s := if testBit v 1 then s.discardRoutes p else s
        if testBit v 0 then s.commitRoutes p else s }
  | .status => roReg (flag (s.lin.pending.contains p) 0 |||
      BitVec.ofNat 32 (65536 * (s.lin.staged.filter fun x => x.writer = p && !x.engine).length)) 0x0FFF0001
  | .events => w1cReg (p == 0) s.lin.events 1 .lin 0
  | .offSrc => roReg (field s.lin.offSrc 0) 0xFFF
  | .stage x =>
    { val := stageWord s x, mask := 0x001F8FFF, writable := true
      who := fun v => s.mayStage p x.toNat (bits v 0 12).toNat
      doms := fun v => routeDoms x.toNat (bits v 0 12).toNat
      range := fun v => (linDest x.toNat).isSome && (linSource (bits v 0 12).toNat).isSome
      rule := fun _ _ => if s.linInRepair x.toNat then some Status.conflict else none
      act := fun _ v s => s.stageRoute p x (bits v 0 12) }
  | .active x => roReg (field (s.linActive x.toNat) 0) 0xFFF

/-! ### Meanings -/

/-- LIN_STAGE_WRITE (R169, R170). -/
def execLinStageWrite (p : Fin 32) (x : BitVec 12) (v : Word) (s : State) : Outcome :=
  whenHw s fun s =>
    if (linDest x.toNat).isSome then s.writeOne p (linAccess p (.stage x)) v
    else { s.unstage p with acc := (Status.outOfRange, 0) }

/-- LIN_COMMIT (R169): a write of LIN_CTRL.COMMIT. -/
def execLinCommit (p : Fin 32) (s : State) : Outcome := whenHw s fun s => s.writeOne p (linAccess p .ctrl) 1

/-- LIN_DISCARD: a write of LIN_CTRL.DISCARD. -/
def execLinDiscard (p : Fin 32) (s : State) : Outcome := whenHw s fun s => s.writeOne p (linAccess p .ctrl) 2

/-- LIN_COMMIT_APPLY (R169). -/
def execLinCommitApply (s : State) : Outcome := whenHw s State.applyRoutes

/-- Every pair of a LIN_ROUTE_SET is staged. -/
def State.stageAll (s : State) (p : Fin 32) (pairs : List (Half × Half)) : State :=
  s.each pairs fun s x => s.stageRoute p (bits x.1 0 12) (bits x.2 0 12)

def runLinRouteSet (c : CmdRef) (commit : Byte) (pairs : List (Half × Half)) : Run := fun s =>
  if 1 < commit.toNat || pairs.any fun x => (linDest x.1.toNat).isNone || (linSource x.2.toNat).isNone then
    (s, some (failed Status.outOfRange))
  else if pairs.any fun x => (routeDoms x.1.toNat x.2.toNat).any s.isSuspect then (s, some (failed Status.hwMismatch))
  else if (pairs.any fun x => s.linInRepair x.1.toNat) ||
      (commit = 1 && s.lin.staged.any fun x => x.writer = c.part && !x.committed && s.linInRepair x.dst.toNat) then
    (s, some (failed Status.conflict))
  else
    let s := s.stageAll c.part pairs
    if commit = 1 then
      let s := s.commitRoutes c.part
      ({ s with lin := { s.lin with waits := s.lin.waits ++ [c] } }, none)
    else (s, some (done []))

/-- Resource codes that a list of routes names. -/
def pairCodes (pairs : List (Half × Half)) : List Nat :=
  pairs.flatMap fun x => (match linDest x.1.toNat with | some (some c) => [c] | _ => []) ++
    (match linSource x.2.toNat with | some (some c) => [c] | _ => [])

/-- LIN_ROUTE_SET (R169 to R171, R179). -/
def execLinRouteSet (h : Header) (commit count : Byte) (pairs : List (Half × Half)) (s : State) : Outcome :=
  darem (.linRouteSet h commit count pairs) h
    { op := 0x38, layout := count.toNat = pairs.length && 1 ≤ pairs.length && pairs.length ≤ 112
      allowed := pairs.all fun x => s.mayStage h.part x.1.toNat x.2.toNat, codes := pairCodes pairs }
    ([commit, count] ++ pairs.flatMap fun x => le 2 x.1 ++ le 2 x.2) (runLinRouteSet (refOf h) commit pairs) s

def runLinRouteGet (dst : Half) (count : Byte) : Run := fun s =>
  let ds := (List.range count.toNat).map (dst.toNat + ·)
  if count = 0 || 120 < count.toNat || ds.any fun d => (linDest d).isNone then (s, some (failed Status.outOfRange))
  else (s, some (done (ds.flatMap fun d => le 2 ((s.linActive d).setWidth 16))))

/-- The bays whose input ports a LIN_ROUTE_GET names (R58). -/
def destDoms (dst : Half) (count : Byte) : List (Fin 32) :=
  ((List.range count.toNat).filterMap fun i => destDom (dst.toNat + i)).dedup

/-- LIN_ROUTE_GET (Table 9-8). -/
def execLinRouteGet (h : Header) (dst : Half) (count : Byte) (s : State) : Outcome :=
  darem (.linRouteGet h dst count) h { op := 0x39, idem := true, doms := destDoms dst count } (le 2 dst ++ [count]) (runLinRouteGet dst count) s

end Sys2Proof.Machine
end

