-- ==== Sys2Proof/Machine/Memory.lean ====
section
/-!
DEFINITION. Memory blocks, queue controllers, memory windows, I/O cells, peepholes and the probe bus (10).
-/
namespace Sys2Proof.Machine

/-! ### Words and entries (R180, R182) -/

/-- Byte address of internal word `k` of block `m` of bay `d` (R190). -/
def memAddr (d : Fin 18) (m : Fin 4) (k : Nat) : Nat := 0x100000 + d.val * 0x4000 + m.val * 0x1000 + 4 * k

/-- What an unlisted byte of a memory window reads as: blocks are cleared to zero before isolation is released (R184). -/
def memDefault : Byte := 0

/-- The stored internal word. -/
def State.memWord (s : State) (d : Fin 18) (m : Fin 4) (k : Nat) : Word :=
  BitVec.ofNat 32 (unle ((List.range 4).map fun i => look memDefault s.mem (memAddr d m k + i)))

/-- Store an internal word. -/
def State.setWord (s : State) (d : Fin 18) (m : Fin 4) (k : Nat) (w : Word) : State :=
  { s with mem := storeAll memDefault s.mem (memAddr d m k) (le 4 w) }

/-- Entries of a shape. -/
def entries (shape : BitVec 2) : Nat := if shape = 0 then 1024 else if shape = 1 then 2048 else 4096

/-- The internal word of an entry, and the entry's first bit and width in it (Table 10-1). -/
def entryAt (shape : BitVec 2) (e : Nat) : Nat × Nat × Nat :=
  if shape = 0 then (e, 0, 32) else if shape = 1 then (e / 2, 16 * (e % 2), 16) else (e / 4, 8 * (e % 4), 8)

/-- The upset in a word, if any. -/
def MemBlock.errAt (b : MemBlock) (k : Nat) : Option WordError := (b.errors.find? fun x => x.1 = k).map (·.2)

/-- A word is clean again, or has an upset. -/
def MemBlock.clean (b : MemBlock) (k : Nat) : MemBlock := { b with errors := b.errors.filter fun x => x.1 ≠ k }
def MemBlock.mark (b : MemBlock) (k : Nat) (e : Option WordError) : MemBlock :=
  { (b.clean k) with errors := (e.map fun e => (k, e)).toList ++ (b.clean k).errors }

def State.memOwner (s : State) (d : Fin 18) : Fin 32 := (s.ownOf (0x10 + d.val)).owner
def memUnit (d : Fin 18) (m : Fin 4) : Byte := BitVec.ofNat 8 (4 * d.val + m.val)

/-- Upsets strike a word (R182): each flips one of its 39 bits. A second flip of the same bit restores it, and a second
bit makes a double-bit error (log 83). -/
def struck (e : Option WordError) (b : Fin 39) : Option WordError :=
  match e with
  | none => some (.single b)
  | some (.single c) => if b = c then none else some (.double [c, b])
  | some (.double []) => some (.double [])
  | some (.double bs) =>
    if bs.contains b then (match bs.erase b with | [c] => some (.single c) | cs => some (.double cs)) else some (.double (bs ++ [b]))

def State.strike (s : State) (d : Fin 18) (m : Fin 4) (k : Nat) (flips : List (Fin 39)) : State :=
  s.each flips fun s b =>
    let e := struck (s.dbays[d].mems[m].errAt k) b
    let s := if b.val < 32 then s.setWord d m k (s.memWord d m k ^^^ BitVec.ofNat 32 (2 ^ b.val)) else s
    s.onMem d m fun x => x.mark k e

/-- The data that a single-bit upset leaves once corrected: a check bit does no harm to it. -/
def fixed (raw : Word) (e : Option WordError) : Word :=
  match e with
  | some (.single b) => if b.val < 32 then raw ^^^ BitVec.ofNat 32 (2 ^ b.val) else raw
  | _ => raw

/-- The word has more than a single-bit error. -/
def uncorrectable (e : Option WordError) : Bool := match e with | some (.double _) => true | _ => false

/-- A read of an internal word that holds `raw` with the upset `e`: its data, ERR, and the counters and events of its check
(R182). -/
def State.checkWord (s : State) (d : Fin 18) (m : Fin 4) (k : Nat) (raw : Word) (e : Option WordError) : Word × Bool × State :=
  let here (arg : Word) : Bool := arg.toNat = k
  let (bad, inj2, s) := s.check 0x101 (memUnit d m) (uncorrectable e) here
  if bad then
    let s := s.onMem d m fun b => { b with uncorr := satInc b.uncorr, errAddr := BitVec.ofNat 10 k, errValid := true }
    (raw, true, s.raise { ev := .memUncorr, det := 0x101, inst := d.val, off := m.val, unit := memUnit d m, part := s.memOwner d,
                          injected := inj2 })
  else
    let (seen, inj1, s) := s.check 0x100 (memUnit d m) e.isSome here
    let data := fixed raw e
    if seen then
      let s := s.onMem d m fun b => { b with corr := satInc b.corr }
      (data, false, s.raise { ev := .memCorr, det := 0x100, inst := d.val, off := m.val, unit := memUnit d m, part := s.memOwner d,
                              injected := inj1, limit := .ms })
    else (data, false, s)

/-- A read of the stored word. -/
def State.memRead (s : State) (d : Fin 18) (m : Fin 4) (k : Nat) : Word × Bool × State :=
  s.checkWord d m k (s.memWord d m k) (s.dbays[d].mems[m].errAt k)

/-- An entry of a word that was read. -/
def entryOf (lo n : Nat) (w : Word) (err : Bool) : PortOut := { data := (w >>> lo) &&& ones 0 n, err := err }

/-- A read of an entry. -/
def State.entryRead (s : State) (d : Fin 18) (m : Fin 4) (e : Nat) : PortOut × State :=
  let (k, lo, n) := entryAt s.dbays[d].mems[m].shape e
  let (w, err, s) := s.memRead d m k
  (entryOf lo n w err, s)

/-- The write of a word that the other port has made in this cycle. -/
def State.otherWrite (s : State) (d : Fin 18) (m : Fin 4) (portB : Bool) (k : Nat) : Option Written :=
  s.dbays[d].mems[m].wrote.find? fun w => w.ck = s.ck && w.portB ≠ portB && w.word = k

/-- A port's read of a word: in the cycle of the other port's write of the word it returns the old contents (R181). -/
def State.wordRead (s : State) (d : Fin 18) (m : Fin 4) (portB : Bool) (k : Nat) : Word × Bool × State :=
  match s.otherWrite d m portB k with
  | some w => s.checkWord d m k w.old w.err
  | none => s.memRead d m k

/-- A port's read of an entry. -/
def State.portRead (s : State) (d : Fin 18) (m : Fin 4) (portB : Bool) (e : Nat) : PortOut × State :=
  let (k, lo, n) := entryAt s.dbays[d].mems[m].shape e
  let (v, err, s) := s.wordRead d m portB k
  (entryOf lo n v err, s)

/-- The stored word with its single-bit upset corrected. -/
def State.corrected (s : State) (d : Fin 18) (m : Fin 4) (k : Nat) : Word :=
  fixed (s.memWord d m k) (s.dbays[d].mems[m].errAt k)

/-- A write of an entry: a narrow write keeps an uncorrectable word marked (R182). -/
def State.entryWrite (s : State) (d : Fin 18) (m : Fin 4) (e : Nat) (v : Word) : State :=
  let b := s.dbays[d].mems[m]
  let (k, lo, n) := entryAt b.shape e
  let keep := ~~~(ones lo n)
  let s := s.setWord d m k ((s.corrected d m k &&& keep) ||| ((v &&& ones 0 n) <<< lo))
  if uncorrectable (b.errAt k) && n < 32 then s.onMem d m fun b => b.mark k (some (.double [])) else s.onMem d m fun b => b.clean k

/-- A write of a whole internal word through the window. -/
def State.wordWrite (s : State) (d : Fin 18) (m : Fin 4) (k : Nat) (v : Word) : State :=
  (s.setWord d m k v).onMem d m fun b => b.clean k

/-- One port's write of a word. In a collision on one word in one cycle, in whichever order the two are taken, port A's
entries win over the word as it was, port B's are lost, and COLLIDE counts the cycle (R181). -/
def State.portStore (s : State) (d : Fin 18) (m : Fin 4) (portB : Bool) (k : Nat) (store : State → State) : State :=
  let b := s.dbays[d].mems[m]
  let other := s.otherWrite d m portB k
  let this : Written := match other with
    | some w => { w with portB := portB }
    | none => { ck := s.ck, portB := portB, word := k, old := s.memWord d m k, err := b.errAt k }
  let s := s.onMem d m fun b => { b with wrote := (b.wrote.filter fun (x : Written) => x.ck = this.ck) ++ [this] }
  match other with
  | none => store s
  | some w =>
    let s := s.onMem d m fun b => { b with collide := satInc b.collide }
    if portB then s else store ((s.setWord d m k w.old).onMem d m fun b => b.mark k w.err)

/-! ### Where a block works -/

/-- The bay's blocks run: domain ON and no GSR. -/
def State.memRuns (s : State) (d : Fin 18) : Bool := s.isOn (domOfD d) && !s.gsr d

/-- The repair engine holds the block's window for a step of MEM_COPY (R191, R228). -/
def State.memHeld (s : State) (b : MemBlock) : Bool := s.ck < b.heldUntil

/-- Port B belongs to the image: no open window (R190). -/
def State.imageB (s : State) (b : MemBlock) : Bool := !(b.window || s.memHeld b)

/-- GSR is asserted: what each queue controller does (Table 10-2). -/
def MemBlock.gsr (b : MemBlock) : MemBlock :=
  match b.mode.toNat with
  | 1 => { b with level := 0, head := 0, valid := false }
  | 2 => { b with outB := { data := 0, err := false }, valid := false, quiet := b.depthNow.toNat }
  | 3 => { b with level := 0, running := none, waiting := none, valid := false, last := false, reject := false, rejectNext := false }
  | _ => b

/-- GSR of a bay is asserted. -/
def State.gsrMems (s : State) (d : Fin 18) : State := s.onDbay d fun b => { b with mems := b.mems.map MemBlock.gsr }

/-- GSR of a bay is asserted: its blocks, and its requester (R184, R290). -/
def State.enterGsr (s : State) (d : Fin 18) : State := (s.gsrMems d).cutOff (bayReq (9 + d.val)) 2

/-- The domain leaves ON: the contents of its blocks are lost; they read as zero when it is ON again (R184). -/
def State.loseMems (s : State) (d : Fin 18) : State :=
  let lo := 0x100000 + d.val * 0x4000
  let s := { s with mem := s.mem.filter fun c => c.1 < lo || lo + 0x4000 ≤ c.1 }
  s.onDbay d fun b => { b with mems := b.mems.map fun x => { (x.gsr) with
    errors := [], outA := { data := 0, err := false }, outB := { data := 0, err := false } } }

/-! ### LOOKBACK requests (R189) -/

/-- Age of the sample START in a ring that stores one sample in 2^D cycles; none for a START still to come. -/
def lookAge (et : Et) (start : BitVec 24) (decim : Nat) : Nat × Nat :=
  let first := start.toNat / 2 ^ decim * 2 ^ decim
  let delta := ((bits et 0 24).toNat + 2 ^ 24 - first) % 2 ^ 24
  (delta, (delta - 1) / 2 ^ decim)

/-- A rejected request: REJECT pulses in the next cycle. -/
def MemBlock.turnDown (b : MemBlock) : MemBlock := { b with rejectNext := true, lbReject := satInc b.lbReject }

/-- Evaluate a request in cycle r, for which the sample of cycle r itself does not count: a window whose word i is presented in cycle r + 3 + i, or a reject. -/
def State.evalLookback (s : State) (d : Fin 18) (m : Fin 4) (start : BitVec 24) (lenM1 : Byte) : State :=
  let b := s.dbays[d].mems[m]
  let n := entries b.shape
  let dec := b.decimNow.toNat
  let (delta, age) := lookAge s.clk.et start dec
  let stored := if s.clk.et.toNat % 2 ^ dec = 0 then b.level - 1 else b.level
  if lenM1.toNat ≤ age && age + 4 + (lenM1.toNat + 1) ≤ n && age < stored then
    let entry := (s.clk.et.toNat + 2 ^ 48 - delta) % 2 ^ 48 / 2 ^ dec % n
    s.onMem d m fun b => { b with running := some { entry := entry, left := lenM1.toNat + 1, delay := 2 } }
  else s.onMem d m MemBlock.turnDown

/-! ### One cycle of the queue controllers (R187 to R189) -/

/-- The next value that an image presents (log 16). -/
def State.fromImage (s : State) : Word × State := (Config.imageWord s.freeCtr, { s with freeCtr := s.freeCtr + 1 })

/-- The word that the image presents to a DELAY block in this cycle enters the ring (R187). -/
def State.delayStore (s : State) (d : Fin 18) (m : Fin 4) : State :=
  let (w, s) := s.fromImage
  s.entryWrite d m (s.ck % s.dbays[d].mems[m].depthNow.toNat) w

/-- A DELAY block: the word presented DEPTH cycles ago leaves, and a new one enters. -/
def State.delayTick (s : State) (d : Fin 18) (m : Fin 4) : State :=
  let (o, s) := s.entryRead d m (s.ck % s.dbays[d].mems[m].depthNow.toNat)
  (s.delayStore d m).onMem d m fun b =>
    if b.quiet = 0 then { b with outB := o, valid := true }
    else { b with outB := { data := 0, err := false }, valid := false, quiet := b.quiet - 1 }

/-- The running window in its next cycle: it still waits, presents its next word, or has ended with LAST (R189). -/
def State.windowTick (s : State) (d : Fin 18) (m : Fin 4) (w : Window) : State :=
  let n := entries s.dbays[d].mems[m].shape
  if w.delay ≠ 0 then s.onMem d m fun b => { b with running := some { w with delay := w.delay - 1 } }
  else if w.left = 0 then s.onMem d m fun b => { b with running := none }
  else
    let (o, s) := s.entryRead d m w.entry
    s.onMem d m fun b => { b with
      outB := o, valid := true, last := w.left = 1, running := some { w with entry := (w.entry + 1) % n, left := w.left - 1 } }

/-- The ring of a LOOKBACK block stores the sample of this cycle, when it stores one in it (R188). -/
def State.lookStore (s : State) (d : Fin 18) (m : Fin 4) : State :=
  let b := s.dbays[d].mems[m]
  let n := entries b.shape
  if s.clk.et.toNat % 2 ^ b.decimNow.toNat = 0 then
    let (w, s) := s.fromImage
    let s := s.entryWrite d m (s.clk.et.toNat / 2 ^ b.decimNow.toNat % n) w
    s.onMem d m fun b => { b with level := min n (b.level + 1) }
  else s

/-- A LOOKBACK block: the running window goes on, REJECT pulses for one cycle, and the ring stores a sample. -/
def State.lookTick (s : State) (d : Fin 18) (m : Fin 4) : State :=
  let s := s.onMem d m fun b => { b with valid := false, last := false, reject := b.rejectNext, rejectNext := false }
  let s := match s.dbays[d].mems[m].running with
    | some w => s.windowTick d m w
    | none => s
  s.lookStore d m

/-- One cycle of a bay's DELAY and LOOKBACK blocks. -/
def State.memCycle (s : State) (d : Fin 18) : State :=
  if s.memRuns d then
    s.each (List.finRange 4) fun s m =>
      let mode := s.dbays[d].mems[m].mode
      if mode = 2 then s.delayTick d m else if mode = 3 then s.lookTick d m else s
  else s

/-- One cycle of every DELAY and LOOKBACK block (log 3). -/
def State.memTick (s : State) : State := s.each (List.finRange 18) State.memCycle

/-- A change of a bay that may release its GSR: the cycle of the release is the first in which its blocks run (R176, R187,
R188). -/
def State.leaveGsr (s : State) (d : Fin 18) (f : DBay → DBay) : State :=
  let t := s.onDbay d f
  if s.memRuns d then t else t.memCycle d

/-! ### Memory windows (R190, R191, R315) -/

/-- The window of a block is open to users. -/
def State.windowOpen (s : State) (d : Fin 18) (m : Fin 4) : Bool :=
  let b := s.dbays[d].mems[m]
  s.isOn (domOfD d) && !s.memHeld b && ((b.mode = 0 && b.window) || s.gsr d)

/-- A read through the window: code and data. -/
def State.windowRead (s : State) (p : Fin 32) (d : Fin 18) (m : Fin 4) (k : BitVec 10) : Byte × Word × State :=
  if !s.owns p (0x10 + d.val) then (Status.denied, 0, s)
  else if !s.windowOpen d m then (Status.conflict, 0, s)
  else
    let (w, err, s) := s.wordRead d m true k.toNat
    if err then (Status.fault, 0, s) else (Status.done, w, s)

/-- A write through the window. -/
def State.windowWrite (s : State) (p : Fin 32) (d : Fin 18) (m : Fin 4) (k : BitVec 10) (v : Word) : Byte × State :=
  if !s.owns p (0x10 + d.val) then (Status.denied, s)
  else
    let s := s.auditDom (domOfD d)
    if s.isSuspect (domOfD d) then (Status.hwMismatch, s)
    else if !s.windowOpen d m then (Status.conflict, s)
    else (Status.done, s.portStore d m true k.toNat fun s => s.wordWrite d m k.toNat v)

/-! ### I/O cells (R192 to R196) -/

def ioDir (c : Word) : Bool := testBit c 0
def ioDdr (c : Word) : Bool := testBit c 1

/-- A probe output claims the cell (R199). -/
def State.probeClaims (s : State) (i : Nat) : Bool := i < 8 && testBit s.prb.aux i

/-- IO_CTRL of a cell as written. -/
def State.ioCtrl (s : State) (i : Nat) : Word := match (fin i : Option (Fin 24)) with | some i => s.io[i].ctrl | none => 0

/-- The cell is the second of a DDR pair. -/
def State.ddrPartner (s : State) (i : Nat) : Bool := i % 2 = 1 && ioDdr (s.ioCtrl (i - 1))

/-- The cell's DDR setting in effect makes it the second half of cell i − 1. -/
def State.ddrSecond (s : State) (i : Nat) : Bool :=
  i % 2 = 1 && (match (fin (i - 1) : Option (Fin 24)) with | some k => ioDdr s.io[k].ctrlNow | none => false)

/-- Delay taps of a cell in effect (R192). -/
def IoCell.tap (x : IoCell) : Nat := (bits x.ctrlNow 4 6).toNat

/-- A cell at the end of a cycle (R192 to R194, R199): an input's source takes the sample of this cycle, the second cell of
a DDR pair that of its partner's second half, and an output's pin the value that its destination presents. A probe output
follows its line four cycles later. -/
def State.nextCell (s : State) (i : Fin 24) : IoCell :=
  let x := s.io[i]
  let ddr := ioDdr x.ctrlNow
  if i.val < 8 && testBit s.prb.aux i.val then
    let v := testBit s.prb.recent[3] i.val
    { x with sample := false, drive := some (v, v) }
  else if s.ddrSecond i.val then
    let half := match (fin (i.val - 1) : Option (Fin 24)) with
      | some k => !ioDir s.io[k].ctrlNow && Config.pinLevel k.val 1 s.io[k].tap s.ck
      | none => false
    { x with sample := half, drive := none }
  else if ioDir x.ctrlNow then
    let a := s.destValue (0x720 + i.val)
    { x with sample := false, drive := some (a, if ddr then s.destValue (0x720 + i.val + 1) else a) }
  else
    let a := Config.pinLevel i.val (if ddr then 0 else 1) x.tap s.ck
    { x with sample := a, pin := if ddr then Config.pinLevel i.val 1 x.tap s.ck else a, drive := none }

/-- What a write of IO_CTRL refuses with CONFLICT (R194, R196). -/
def State.ioConflict (s : State) (i : Nat) (v : Word) : Bool :=
  let next := s.ioCtrl (i + 1)
  (ioDdr v && i % 2 = 1) ||
  (ioDdr v && (ioDir next || ioDdr next || s.probeClaims (i + 1))) ||
  ((ioDir v || ioDdr v) && s.ddrPartner i) ||
  (ioDir v && s.probeClaims i)

/-- IO_STATUS.CLAIM. -/
def State.ioClaim (s : State) (i : Nat) : BitVec 2 :=
  if s.ddrPartner i then 3 else if s.probeClaims i then 2 else if ioDir (s.ioCtrl i) then 1 else 0

inductive IoReg where
  | ctrl (i : Fin 24)
  | status (i : Fin 24)
deriving DecidableEq, Repr

def ioAccess (p : Fin 32) (r : IoReg) (s : State) : Access :=
  match r with
  | .ctrl i =>
    { val := s.io[i].ctrl, mask := 0x3F3, writable := true
      who := fun v => s.owns p (0x70 + i.val) && (!ioDdr v || i.val % 2 = 1 || s.owns p (0x70 + (i.val + 1)))
      rule := fun _ v => if s.ioConflict i.val v then some Status.conflict else none
      act := fun _ v s => { s with io := upd s.io i fun x => { x with ctrl := v &&& 0x3F3 } } }
  | .status i => roReg (field (s.ioClaim i.val) 0 ||| flag s.io[i].pin 4) 0x13

/-! ### Probe bus (R197 to R200) -/

/-- The pins that a PRB_AUX value newly claims. -/
def State.newAux (s : State) (en : Byte) : List Nat := (bitList 8 en).filter fun i => !testBit s.prb.aux i
def State.auxOwned (s : State) (p : Fin 32) (en : Byte) : Bool := (bitList 8 en).all fun i => s.owns p (0x70 + i)
def State.auxConflict (s : State) (en : Byte) : Bool :=
  (s.newAux en).any fun i => ioDir (s.ioCtrl i) || s.ddrPartner i

/-- What a peephole presents: 0 while its bay is not ON or in GSR (R197). -/
def State.peepBit (s : State) (d : Fin 18) (k : Fin 2) : Bool :=
  s.isOn (domOfD d) && !s.gsr d && Config.imageNet d.val k.val s.dbays[d].peepNow[k].toNat s.ck

/-- What probe line `n` carries in this cycle (R198); 0 with EN 0 (log 137). -/
def State.lineBit (s : State) (n : Fin 8) : Bool :=
  let w := s.prb.sel[n]
  testBit w 8 && match (fin (bits w 0 5).toNat : Option (Fin 18)) with
    | some d => s.peepBit d (if testBit w 5 then 1 else 0)
    | none => false

/-- The eight lines in this cycle. -/
def State.probeLines (s : State) : Byte := BitVec.ofNat 8 (wordOfBits (((List.finRange 8).filter s.lineBit).map (·.val))).toNat

/-- The trigger's condition holds in this cycle (R200). -/
def State.probeMatch (s : State) : Bool :=
  if s.prb.trig = 0 then s.clk.atBoundary
  else if s.prb.trig = 1 then s.probeLines &&& s.prb.mask == s.prb.pattern &&& s.prb.mask
  else s.prb.trig == 2 && s.clk.et == s.prb.et

/-- The trigger: it counts only with PRE samples stored, of which the last PRE stay (R200). -/
def State.probeTrigger (s : State) : State :=
  let pre := s.prb.pre.toNat
  if s.prb.state = 1 && pre ≤ s.prb.data.length && s.probeMatch then
    { s with prb := { s.prb with data := s.prb.data.drop (s.prb.data.length - pre), trigEt := s.clk.et, state := 2 } }
  else s

/-- This cycle's sample is that of index 1,023: it is stored, and the capture is DONE (R200). -/
def State.probeComplete (s : State) : State :=
  if s.prb.state = 2 && s.prb.data.length = 1023 then
    ({ s with prb := { s.prb with data := s.prb.data ++ [s.probeLines], state := 3 } }).raise {
      ev := .prbCaptured, part := (s.ownOf 0xC1).owner }
  else s

/-- The probe bus at the end of a cycle (R199, R200): the lines' values go on to the AUX pins, and the capture memory
stores them; before the trigger it keeps the last 1,023. -/
def State.probeTick (s : State) : State :=
  let s := s.probeTrigger.probeComplete
  let b := s.probeLines
  let p := s.prb
  let data := if p.state = 1 then (p.data ++ [b]).drop (p.data.length + 1 - 1023) else if p.state = 2 then p.data ++ [b] else p.data
  { s with prb := { p with data := data, recent := #v[b, p.recent[0], p.recent[1], p.recent[2]] } }

/-- Arming clears the capture and starts storing. -/
def State.armProbe (s : State) : State := { s with prb := { s.prb with data := [], state := 1 } }

inductive PrbReg where
  | sel (n : Fin 8)
  | aux
  | capCtrl
  | capPat
  | capEtLo
  | capEtHi
  | capStatus
  | capTrigLo
  | capTrigHi
  | events
  | capData (w : Fin 256)
deriving DecidableEq, Repr

def prbAccess (p : Fin 32) (r : PrbReg) (s : State) : Access :=
  let own := s.owns p 0xC1
  match r with
  | .sel n =>
    { val := s.prb.sel[n], mask := 0x13F, writable := true
      who := fun v => own && (18 ≤ (bits v 0 5).toNat || s.owns p (0x10 + (bits v 0 5).toNat))
      doms := fun v => ((fin (bits v 0 5).toNat : Option (Fin 18)).map domOfD).toList
      range := fun v => (bits v 0 5).toNat < 18
      act := fun _ v s => { s with prb := { s.prb with sel := s.prb.sel.set n (v &&& 0x13F) } } }
  | .aux =>
    { val := field s.prb.aux 0, mask := 0xFF, writable := true
      who := fun v => own && s.auxOwned p (bits v 0 8)
      rule := fun _ v => if s.auxConflict (bits v 0 8) then some Status.conflict else none
      act := fun _ v s => { s with prb := { s.prb with aux := bits v 0 8 } } }
  | .capCtrl =>
    { val := flag (s.prb.state = 1) 0 ||| field s.prb.trig 1 ||| field s.prb.pre 16, mask := 0x03FF0007, writable := true
      who := fun _ => own, range := fun v => (bits v 1 2).toNat ≤ 2
      act := fun _ v s =>
        let s := { s with prb := { s.prb with trig := bits v 1 2, pre := bits v 16 10 } }
        if testBit v 0 then s.armProbe else s }
  | .capPat => rwReg (field s.prb.pattern 0 ||| field s.prb.mask 8) 0xFFFF own fun v s =>
      { s with prb := { s.prb with pattern := bits v 0 8, mask := bits v 8 8 } }
  | .capEtLo => { val := bits s.prb.et 0 32, writable := true, who := fun _ => own }
  | .capEtHi =>
    { val := field (bits s.prb.et 32 16) 0, mask := 0xFFFF, writable := true, who := fun _ => own
      act := fun lo v s => { s with prb := { s.prb with et := bits v 0 16 ++ lo.getD (bits s.prb.et 0 32) } } }
  | .capStatus => roReg (field s.prb.state 0) 3
  | .capTrigLo => roReg (bits s.prb.trigEt 0 32)
  | .capTrigHi => roReg (field (bits s.prb.trigEt 32 16) 0) 0xFFFF
  | .events => w1cReg own s.prb.events 1 .prb 0
  | .capData w => roReg (rd 32 (slice s.prb.data (4 * w.val) 4) 0 4)

/-! ### Block registers (Table 10-5) -/

inductive MemReg where
  | events
  | clear
  | cfg (m : Fin 4)
  | levels (m : Fin 4)
  | depth (m : Fin 4)
  | stat (m : Fin 4)
  | ecc (m : Fin 4)
  | cnt (m : Fin 4)
  | errAddr (m : Fin 4)
  | peep (k : Fin 2)
deriving DecidableEq, Repr

def memStat (b : MemBlock) : Word :=
  let fifo := b.mode = 1
  BitVec.ofNat 32 b.level ||| flag (fifo && b.level = entries b.shape) 13 ||| flag (fifo && b.level = 0) 14 |||
    flag (fifo && b.afNow.toNat ≤ b.level) 15 ||| flag (fifo && b.level ≤ b.aeNow.toNat) 16

def clearMemCnt (b : MemBlock) : MemBlock := { b with corr := 0, uncorr := 0, overflow := 0, underflow := 0, collide := 0, lbReject := 0 }

def memAccess (p : Fin 32) (d : Fin 18) (r : MemReg) (s : State) : Access :=
  let own := s.owns p (0x10 + d.val)
  let doms := [domOfD d]
  let x := s.dbays[d]
  match r with
  | .events => w1cReg own x.memEvents 0xFF .dbayMem d.val doms
  | .clear => clearReg own (doms := doms) fun s => s.onDbay d fun b => { b with mems := b.mems.map clearMemCnt }
  | .cfg m =>
    let b := x.mems[m]
    { val := field b.shape 0 ||| field b.mode 2 ||| flag b.window 4 ||| flag b.scrub 5 ||| field b.decim 8, mask := 0x73F
      writable := true, who := fun _ => own, doms := fun _ => doms
      rule := fun _ v => if testBit v 4 && s.memHeld b then some Status.conflict else none
      act := fun _ v s => s.onMem d m fun b => { b with window := testBit v 4, scrub := testBit v 5, decim := bits v 8 3 } }
  | .levels m =>
    let b := x.mems[m]
    let n := entries b.shape
    rwReg (field b.af 0 ||| field b.ae 16) 0x1FFF1FFF own (doms := doms)
      (range := fun v => 1 ≤ (bits v 0 13).toNat && (bits v 0 13).toNat ≤ n && (bits v 16 13).toNat < n) fun v s =>
        s.onMem d m fun b => { b with af := bits v 0 13, ae := bits v 16 13 }
  | .depth m =>
    let b := x.mems[m]
    rwReg (field b.depth 0) 0x1FFF own (doms := doms)
      (range := fun v => 4 ≤ (bits v 0 13).toNat && (bits v 0 13).toNat ≤ entries b.shape) fun v s =>
        s.onMem d m fun b => { b with depth := bits v 0 13 }
  | .stat m => roReg (memStat x.mems[m]) 0x1FFFF
  | .ecc m => roReg (field x.mems[m].corr 0 ||| field x.mems[m].uncorr 16)
  | .cnt m => roReg (field x.mems[m].overflow 0 ||| field x.mems[m].underflow 8 ||| field x.mems[m].collide 16 |||
      field x.mems[m].lbReject 24)
  | .errAddr m => roReg (field x.mems[m].errAddr 0 ||| flag x.mems[m].errValid 31) 0x800003FF
  | .peep k => rwReg (field x.peep[k] 0) 0xFF own (doms := doms) fun v s =>
      s.onDbay d fun b => { b with peep := b.peep.set k (bits v 0 8) }

/-! ### Meanings: moments -/

/-- MEMORY_PORT_READ (R180 to R182, R190). `flips` are the upsets that have struck the word by now (log 83). -/
def execMemoryPortRead (d : Fin 18) (m : Fin 4) (portB : Bool) (entry : BitVec 12) (flips : List (Fin 39)) (s : State) : Outcome :=
  whenHw s fun s =>
    let b := s.dbays[d].mems[m]
    let s := if s.isOn (domOfD d) && entry.toNat < entries b.shape then s.strike d m (entryAt b.shape entry.toNat).1 flips else s
    if s.memRuns d && b.mode = 0 && entry.toNat < entries b.shape then
      if portB && !s.imageB b then s.onMem d m fun b => { b with outB := { data := 0, err := false } }
      else
        let (o, s) := s.portRead d m portB entry.toNat
        s.onMem d m fun b => if portB then { b with outB := o } else { b with outA := o }
    else s

/-- One port's write: it presents the old contents, and stores unless it loses a collision (R181). -/
def State.portWrite (s : State) (d : Fin 18) (m : Fin 4) (portB : Bool) (w : BitVec 12 × Word) : State :=
  let (o, s) := s.portRead d m portB w.1.toNat
  let s := s.onMem d m fun b => if portB then { b with outB := o } else { b with outA := o }
  s.portStore d m portB (entryAt s.dbays[d].mems[m].shape w.1.toNat).1 fun s => s.entryWrite d m w.1.toNat w.2

/-- MEMORY_PORT_WRITE (R180, R181). -/
def execMemoryPortWrite (d : Fin 18) (m : Fin 4) (wa wb : Option (BitVec 12 × Word)) (s : State) : Outcome :=
  whenHw s fun s =>
    let b := s.dbays[d].mems[m]
    let inside (w : Option (BitVec 12 × Word)) := w.filter fun x => decide (x.1.toNat < entries b.shape)
    if s.memRuns d && b.mode = 0 then
      let s := match inside wa with | some x => s.portWrite d m false x | none => s
      match if s.imageB b then inside wb else none with
      | some y => s.portWrite d m true y
      | none => s
    else s

/-- MEM_SCRUB_WORD (R183). `flips` are the upsets that have struck the word by now (log 83). -/
def execMemScrubWord (d : Fin 18) (m : Fin 4) (flips : List (Fin 39)) (s : State) : Outcome :=
  whenHw s fun s =>
    let b := s.dbays[d].mems[m]
    let s := if s.isOn (domOfD d) then s.strike d m b.scrubPos flips else s
    if s.isOn (domOfD d) && b.mode = 0 && b.scrub then
      let k := b.scrubPos
      let (w, err, s) := s.memRead d m k
      let s := if err then s else (s.setWord d m k w).onMem d m fun b => b.clean k
      s.onMem d m fun b => { b with scrubPos := (k + 1) % 1024 }
    else s

/-- A pop of a FIFO (R186). -/
def State.pop (s : State) (d : Fin 18) (m : Fin 4) : State :=
  let b := s.dbays[d].mems[m]
  if b.level = 0 then s.onMem d m fun b => { b with valid := false, underflow := satInc b.underflow }
  else
    let (o, s) := s.entryRead d m b.head
    s.onMem d m fun b => { b with outB := o, valid := true, head := (b.head + 1) % entries b.shape, level := b.level - 1 }

/-- A push into a FIFO (R186). -/
def State.push (s : State) (d : Fin 18) (m : Fin 4) (v : Word) : State :=
  let b := s.dbays[d].mems[m]
  if entries b.shape ≤ b.level then s.onMem d m fun b => { b with overflow := satInc b.overflow }
  else
    let s := s.entryWrite d m ((b.head + b.level) % entries b.shape) v
    s.onMem d m fun b => { b with level := b.level + 1 }

/-- FIFO_PUSH (R186): with a pop in the same cycle both succeed at a full queue. -/
def execFifoPush (d : Fin 18) (m : Fin 4) (v : Word) (popToo : Bool) (s : State) : Outcome :=
  whenHw s fun s =>
    if s.memRuns d && s.dbays[d].mems[m].mode = 1 then (if popToo then s.pop d m else s).push d m v else s

/-- FIFO_POP (R186). -/
def execFifoPop (d : Fin 18) (m : Fin 4) (s : State) : Outcome :=
  whenHw s fun s => if s.memRuns d && s.dbays[d].mems[m].mode = 1 then s.pop d m else s

/-- LOOKBACK_REQUEST (R189). -/
def execLookbackRequest (d : Fin 18) (m : Fin 4) (start : BitVec 24) (lenM1 : Byte) (s : State) : Outcome :=
  whenHw s fun s =>
    let b := s.dbays[d].mems[m]
    if s.memRuns d && b.mode = 3 then
      if b.waiting.isSome then s.onMem d m MemBlock.turnDown
      else if b.running.isSome then s.onMem d m fun b => { b with waiting := some (start, lenM1) }
      else s.evalLookback d m start lenM1
    else s

/-- LOOKBACK_DEFERRED_EVAL (R189): after LAST, the waiting request is evaluated. -/
def execLookbackDeferredEval (d : Fin 18) (m : Fin 4) (s : State) : Outcome :=
  whenHw s fun s =>
    let b := s.dbays[d].mems[m]
    match b.waiting with
    | some (start, len) =>
      if s.memRuns d && b.mode = 3 && b.running.isNone then
        (s.onMem d m fun b => { b with waiting := none }).evalLookback d m start len
      else s
    | none => s

/-- Host writes of AF, AE, DEPTH and DECIM apply (R185, R187, R188). The cycle of the boundary is the first of the DEPTH
cycles that a running DELAY block gives 0. -/
def MemBlock.apply (b : MemBlock) (runs : Bool) : MemBlock :=
  let b := if b.mode = 2 && b.depth ≠ b.depthNow then
      { b with quiet := b.depth.toNat - (if runs then 1 else 0), valid := false, outB := { data := 0, err := false } }
    else b
  let b := if b.mode = 3 && b.decim ≠ b.decimNow then { b with level := 0 } else b
  { b with decimNow := b.decim, afNow := b.af, aeNow := b.ae, depthNow := b.depth }

/-- MEM_SETTINGS_APPLY (R185, R187, R188): a new DEPTH or DECIM holds for the word of the boundary's own cycle. -/
def execMemSettingsApply (d : Fin 18) (m : Fin 4) (s : State) : Outcome :=
  whenHw s fun s =>
    let b := s.dbays[d].mems[m]
    let t := s.onMem d m fun b => b.apply (s.memRuns d)
    if s.memRuns d && b.mode = 2 && b.depth ≠ b.depthNow then t.delayStore d m
    else if s.memRuns d && b.mode = 3 && b.decim ≠ b.decimNow then t.lookStore d m
    else t

/-- MEM_WINDOW_ACCESS (R190). -/
def execMemWindowAccess (p : Fin 32) (d : Fin 18) (m : Fin 4) (k : BitVec 10) (write : Option Word) (s : State) : Outcome :=
  whenHw s fun s =>
    match write with
    | some v =>
      let (c, s) := (s.unstage p).windowWrite p d m k v
      { s with acc := (c, 0) }
    | none =>
      let (c, w, s) := s.windowRead p d m k
      { s with acc := (c, w) }

/-- DBAY_MEM_CLEAR (R202). -/
def execDbayMemClear (p : Fin 32) (d : Fin 18) (v : Word) (s : State) : Outcome :=
  whenHw s fun s => s.writeOne p (memAccess p d .clear) v

/-- IO_CELL_APPLY (R195). -/
def execIoCellApply (i : Fin 24) (s : State) : Outcome :=
  whenHw s fun s => { s with io := upd s.io i fun x => { x with ctrlNow := x.ctrl } }

/-- PEEPHOLE_APPLY (R197). -/
def execPeepholeApply (d : Fin 18) (k : Fin 2) (s : State) : Outcome :=
  whenHw s fun s => s.onDbay d fun b => { b with peepNow := b.peepNow.set k b.peep[k] }

/-- PRB_CAP_CTRL_ARM (R200). -/
def execPrbCapCtrlArm (p : Fin 32) (v : Word) (s : State) : Outcome :=
  whenHw s fun s => s.writeOne p (prbAccess p .capCtrl) v

/-- PRB_CAPTURE_TRIGGER (R200): this cycle is the trigger's. A cycle that ends takes its own trigger too. -/
def execPrbCaptureTrigger (s : State) : Outcome := whenHw s State.probeTrigger

/-- PRB_CAPTURE_COMPLETE (R200): this cycle's sample is the last one. -/
def execPrbCaptureComplete (s : State) : Outcome := whenHw s State.probeComplete

/-! ### Meanings: commands (Table 10-4) -/

def runPrbSelect (probe bay peep net en : Byte) : Run := fun s =>
  match (fin probe.toNat : Option (Fin 8)), (fin bay.toNat : Option (Fin 18)), (fin peep.toNat : Option (Fin 2)) with
  | some n, some d, some k =>
    if 1 < en.toNat then (s, some (failed Status.outOfRange))
    else if s.isSuspect (domOfD d) then (s, some (failed Status.hwMismatch))
    else
      let w := field bay 0 ||| field peep 5 ||| field en 8
      let s := { s with prb := { s.prb with sel := s.prb.sel.set n w } }
      (s.onDbay d fun b => { b with peep := b.peep.set k net }, some (done []))
  | _, _, _ => (s, some (failed Status.outOfRange))

/-- PRB_SELECT (R197, R198). -/
def execPrbSelect (h : Header) (probe bay peep net en : Byte) (s : State) : Outcome :=
  darem (.prbSelect h probe bay peep net en) h
    { op := 0xB0, allowed := s.owns h.part 0xC1 && (18 ≤ bay.toNat || s.owns h.part (0x10 + bay.toNat))
      codes := 0xC1 :: (if bay.toNat < 18 then [0x10 + bay.toNat] else []) }
    [probe, bay, peep, net, en] (runPrbSelect probe bay peep net en) s

def runPrbCaptureArm (trig : Byte) (pre : Half) (pattern mask : Byte) (et : Et) : Run := fun s =>
  if 2 < trig.toNat || 1023 < pre.toNat then (s, some (failed Status.outOfRange))
  else
    let s := { s with prb := { s.prb with trig := bits trig 0 2, pre := bits pre 0 10, pattern := pattern, mask := mask, et := et } }
    (s.armProbe, some (done []))

/-- PRB_CAPTURE_ARM (R200). -/
def execPrbCaptureArm (h : Header) (trig : Byte) (pre : Half) (pattern mask : Byte) (et : Et) (s : State) : Outcome :=
  darem (.prbCaptureArm h trig pre pattern mask et) h { op := 0xB1, allowed := s.owns h.part 0xC1, codes := [0xC1] }
    ([trig] ++ le 2 pre ++ [pattern, mask] ++ le 6 et) (runPrbCaptureArm trig pre pattern mask et) s

def runPrbCaptureRead (start count : Half) : Run := fun s =>
  if count = 0 || 256 < count.toNat || 1024 < start.toNat + count.toNat then (s, some (failed Status.outOfRange))
  else if s.prb.state ≠ 3 then (s, some (failed Status.notReady))
  else (s, some (done (le 6 s.prb.trigEt ++ slice s.prb.data start.toNat count.toNat)))

/-- PRB_CAPTURE_READ (R200). -/
def execPrbCaptureRead (h : Header) (start count : Half) (s : State) : Outcome :=
  darem (.prbCaptureRead h start count) h { op := 0xB2, allowed := s.owns h.part 0xC1, codes := [0xC1], idem := true }
    (le 2 start ++ le 2 count) (runPrbCaptureRead start count) s

def runPrbAuxSet (p : Fin 32) (en : Byte) : Run := fun s =>
  if !s.auxOwned p en then (s, some (failed Status.denied))
  else if s.auxConflict en then (s, some (failed Status.conflict))
  else ({ s with prb := { s.prb with aux := en } }, some (done []))

/-- PRB_AUX_SET (R199). -/
def execPrbAuxSet (h : Header) (en : Byte) (s : State) : Outcome :=
  darem (.prbAuxSet h en) h { op := 0xB3, allowed := s.owns h.part 0xC1, codes := 0xC1 :: (bitList 8 en).map (0x70 + ·) } [en]
    (runPrbAuxSet h.part en) s

end Sys2Proof.Machine
end

