-- ==== Sys2Proof/Machine/RepairCore.lean ====
section
/-!
DEFINITION. The repair engine's steps that loads and power domains set off (12): requests to the sequencer, preparing the
spare, routes committed at repair class, and the end of a repair before its cut-over.
-/
namespace Sys2Proof.Machine

/-! ### Requests to the sequencer (R53, R54) -/

/-- Request a domain ON: one that is ON or RAMPING is left as it is. -/
def State.askOn (s : State) (i : Fin 32) : State :=
  let st := (s.dom i).state
  if st = .on || st = .ramping || st = .tripped then s
  else
    let s := { s with pwr := { s.pwr with req := setBit s.pwr.req i.val } }
    s.onDom i fun d => { d with wantOn := true }

/-- Request a domain OFF: one that is OFF, DRAINING or TRIPPED only loses a request that still waits, and one that is
RAMPING finishes its ramp first (log 118). -/
def State.askOff (s : State) (i : Fin 32) : State :=
  let st := (s.dom i).state
  if st = .tripped then s
  else
    let s := { s with pwr := { s.pwr with req := clearBit s.pwr.req i.val } }
    s.onDom i fun d => { d with wantOn := false, wantOff := st = .on || st = .ramping }

/-! ### The engine's slots -/

def State.onRep (s : State) (r : Fin 3) (f : Repair → Repair) : State :=
  { s with rep := { s.rep with slots := upd s.rep.slots r fun x => x.map f } }

def aBay (i : Nat) : Option (Fin 9) := fin i
def dBay (i : Nat) : Option (Fin 18) := if 9 ≤ i then fin (i - 9) else none

/-- Routes that the engine commits: they apply at the next frame boundary (R169, R171). -/
def State.engineRoutes (s : State) (pairs : List (Nat × BitVec 12)) : State :=
  let entry (x : Nat × BitVec 12) : Staged := { dst := BitVec.ofNat 12 x.1, src := x.2, writer := 0, engine := true, committed := true }
  let kept := s.lin.staged.filter fun y => !(pairs.any fun x => BitVec.ofNat 12 x.1 == y.dst)
  { s with lin := { s.lin with staged := kept ++ pairs.map entry } }

/-- Commit 0xFFF to every input port of a digital bay. -/
def State.clearInputs (s : State) (d : Fin 18) : State := s.engineRoutes ((List.range 64).map fun j => (64 * d.val + j, 0xFFF))

/-- Commit 0xFFF to every destination that a bay's sources feed (R223). -/
def State.clearOutputs (s : State) (i : Fin 32) : State :=
  let fed := s.lin.active.filter fun x => sourceDom x.2.toNat == some i
  s.engineRoutes (fed.map fun x => (x.1, 0xFFF))

/-- Take an analogue bay out of its octet. -/
def State.leaveOctet (s : State) (a : Fin 9) : State :=
  let drop (c : BitVec 4) : BitVec 4 := if c.toNat = a.val then 0xF else c
  { s with xbar := { s.xbar with primary := s.xbar.primary.map drop, secondary := s.xbar.secondary.map drop, pending := true } }

/-- Hold a digital bay in GSR for the engine (R223, R237). -/
def State.repairGsr (s : State) (d : Fin 18) : State := (s.onDbay d fun b => { b with gsrRepair := true }).enterGsr d

/-! ### The queue of loads (R213) -/

/-- Queue the engine's load of a spare ahead of user loads (R213). With 18 loads waiting it waits for a place (log 141). -/
def State.queueSpare (s : State) (r : Fin 3) (d : Fin 18) (x : Repair) : State :=
  let mine := s.cfg.queue.filter (·.cmd.isNone)
  let users := s.cfg.queue.filter (·.cmd.isSome)
  let full := decide (18 ≤ s.cfg.queue.length)
  let s := s.onRep r fun y => { y with waitsLoad := full }
  if full then s
  else { s with cfg := { s.cfg with queue := mine ++ [{ cmd := none, part := x.owner, bay := d, source := x.source }] ++ users } }

/-- A place in the queue has become free: loads of spares that wait for one take it. -/
def State.queueSpares (s : State) : State :=
  s.each (List.finRange 3) fun s r => match s.rep.slots[r] with
    | some x => if x.waitsLoad then (match dBay x.spare with | some d => s.queueSpare r d x | none => s) else s
    | none => s

/-! ### The end of a repair -/

/-- Free the repair's slot, keep its record for the registers, and finish its command. -/
def State.freeRepair (s : State) (r : Fin 3) (x : Repair) (reply : Reply) : State :=
  let s := { s with rep := { s.rep with slots := s.rep.slots.set r none, ended := s.rep.ended.set r (some x) } }
  s.finish x.cmd reply

/-- A repair ends before F (R236, R237): the spare leaves the octet or is held in GSR, its inputs are committed to 0xFFF,
its domain is turned OFF, and it is a free spare again. A recall that has not ended leaves the loan as it is. -/
def State.dropRepair (s : State) (r : Fin 3) (reply : Reply) : State :=
  match s.rep.slots[r] with
  | none => s
  | some x =>
    let s := { s with rep := { s.rep with slots := s.rep.slots.set r none } }
    let s := if x.phase = .recall then s else
      let s := match aBay x.spare, dBay x.spare with
        | some a, _ => s.leaveOctet a
        | none, some d =>
          let s := { s with cfg := { s.cfg with
            queue := s.cfg.queue.filter fun y => !(y.cmd.isNone && y.bay = d)
            running := match s.cfg.running with
              | some y => if y.load.cmd.isNone && y.load.bay = d then none else some y
              | none => none } }
          ((s.repairGsr d).clearInputs d).queueSpares
        | none, none => s
      let s := s.endJobs (fun j => j.cls == .repair && (match fin x.spare with | some i => j.inDom i | none => false)) (failed Status.aborted)
      match fin x.spare with
      | some i => s.askOff i
      | none => s
    s.freeRepair r x reply

/-- The repair whose spare is this bay. -/
def State.repairOfSpare (s : State) (i : Nat) : Option (Fin 3 × Repair) :=
  (List.finRange 3).findSome? fun r => match s.rep.slots[r] with
    | some x => if x.spare = i then some (r, x) else none
    | none => none

/-- The engine's load of a spare has ended without DONE, or the spare's domain has left ON (R236). A lent spare that its
borrower turns OFF during the notice of a recall does no harm; one that trips ends the repair too. From F on a trip alone
ends it: the held records go with it, and routes and owners stay as F has left them (log 177). -/
def State.spareLost (s : State) (i : Nat) (trip : Bool := false) : State :=
  match s.repairOfSpare i with
  | some (r, x) =>
    if x.past then (if trip then s.freeRepair r { x with held := [] } (failed Status.fault) else s)
    else if trip || x.phase ≠ RepPhase.recall then s.dropRepair r (failed Status.fault) else s
  | none => s

/-- The phases after WARMUP. -/
def Repair.warm (x : Repair) : Bool := x.phase == .compare || x.phase == .ready || x.phase == .cutover || x.phase == .retire

/-- The original's domain has left ON in a phase after WARMUP (R231). -/
def State.originalLost (s : State) (i : Nat) : State :=
  s.each (List.finRange 3) fun s r => s.onRep r fun x => if x.orig = i && x.warm then { x with origLost := true } else x

/-- An event of the repair engine, raised to the original's owner. -/
def State.repEvent (s : State) (e : Ev) (r : Fin 3) (x : Repair) (args : List Byte) (limit : Limit := .free) (more : Nat := 0) : State :=
  s.raise { ev := e, unit := BitVec.ofNat 8 r.val, part := x.owner, args := args, limit := limit, more := more, marks := [x.orig, cfgMark x.orig] }

/-! ### Comparison (R230) -/

/-- The engine compares the two bays of a SHADOW. -/
def Repair.compares (x : Repair) : Bool := x.phase == .compare || x.phase == .ready

/-- Mismatches are counted; the first in each millisecond raises REP_MISMATCH, and all others add to its repeat count. -/
def State.countMissed (s : State) (r : Fin 3) : Nat → State
  | 0 => s
  | n + 1 =>
    match s.rep.slots[r] with
    | some x =>
      let s := s.onRep r fun x => { x with mismatch := satAdd x.mismatch (n + 1), missed := x.missed + n + 1 }
      s.repEvent .repMismatch r x [BitVec.ofNat 8 r.val] .ms n
    | none => s

/-- A record of one of the two bays of a digital SHADOW meets the one in the same position of the other, or waits for it. -/
def Repair.record (x : Repair) (spare : Bool) (crc : Word) : Repair × Nat :=
  if !x.digital then (x, 0)
  else
    let other := if spare then x.crcOrig else x.crcSpare
    match other with
    | c :: rest => (if spare then { x with crcOrig := rest } else { x with crcSpare := rest }, if c = crc then 0 else 1)
    | [] => (if spare then { x with crcSpare := x.crcSpare ++ [crc] } else { x with crcOrig := x.crcOrig ++ [crc] }, 0)

/-- The payload of a record enters the comparison (log 142). -/
def State.compareRecord (s : State) (r : Fin 3) (spare : Bool) (payload : List Byte) : State :=
  match s.rep.slots[r] with
  | some x =>
    let (y, n) := x.record spare (crc32 payload)
    (s.onRep r fun _ => y).countMissed r n
  | none => s

/-- The edges that a bay delivers in this cycle. -/
def State.edgesOf (s : State) (a : Fin 9) (spare : Bool) : List Edge :=
  (List.finRange 8).flatMap fun k => [false, true].filterMap fun hi =>
    let b := s.feed a k hi
    if testBit b 1 then some { spare := spare, slot := k, hi := hi, time := 64 * s.ck + (bits b 2 6).toNat } else none

/-- Two edges match: the same comparator of the two bays, within 1 CK, and times within FT_TOL. -/
def Edge.fits (e f : Edge) (tol : Nat) : Bool :=
  e.spare != f.spare && e.slot == f.slot && e.hi == f.hi && decide ((e.time / 64 : Int) - (f.time / 64 : Nat) ≤ 1) &&
  decide ((f.time / 64 : Int) - (e.time / 64 : Nat) ≤ 1) && decide (((e.time : Int) - f.time).natAbs ≤ tol)

/-- A new edge takes its match out of those that wait, or waits. -/
def pairEdge (tol : Nat) (wait : List Edge) (e : Edge) : List Edge :=
  match wait.find? fun f => e.fits f tol with
  | some f => wait.erase f
  | none => wait ++ [e]

/-- Mismatches of an analogue SHADOW in this cycle: edges whose last cycle for a match has passed. -/
def State.edgeMisses (s : State) (x : Repair) (o a : Fin 9) : List Edge × Nat :=
  let wait := (s.edgesOf o false ++ s.edgesOf a true).foldl (pairEdge x.ftTol.toNat) x.edges
  let late := wait.filter fun e => e.time / 64 + 1 ≤ s.ck
  (wait.filter fun e => s.ck < e.time / 64 + 1, late.length)

/-- One cycle of the comparison: output ports of MASK that differ, or edges without a match. -/
def State.compareTick (s : State) : State :=
  s.each (List.finRange 3) fun s r =>
    match s.rep.slots[r] with
    | none => s
    | some x =>
      if !x.compares then s
      else match aBay x.orig, aBay x.spare, dBay x.orig, dBay x.spare with
        | some o, some a, _, _ =>
          let (wait, n) := s.edgeMisses x o a
          (s.onRep r fun x => { x with edges := wait }).countMissed r n
        | _, _, some o, some d => if (s.portWord o ^^^ s.portWord d) &&& x.mask = 0 then s else s.countMissed r 1
        | _, _, _, _ => s

/-! ### Preparing the spare (R227) -/

/-- The original's ABAY and ADC settings, with EN held 0 and no ASB claim yet (R227, log 31). -/
def copyCmp (to0 of0 : Cmp) : Cmp := { to0 with set := of0.set, use := of0.use }
def copySlot (to0 of0 : Slot) : Slot := { to0 with cfg := of0.cfg, lo := copyCmp to0.lo of0.lo, hi := copyCmp to0.hi of0.hi }
def copyAbay (to0 of0 : ABay) : ABay :=
  { to0 with
    slotEn := of0.slotEn, sumCfg := of0.sumCfg, mux := of0.mux, so := of0.so &&& 0xFFFF7F7F, hold := of0.hold
    slots := Vector.ofFn fun k => copySlot to0.slots[k] of0.slots[k] }
def copyAdc (to0 of0 : Adc) : Adc :=
  { to0 with
    ctrl := of0.ctrl &&& 0xFFFFFFFE, urg := of0.urg, refSel := of0.refSel, force := of0.force, refRdy := false
    entCfg := of0.entCfg, entWin := of0.entWin, inside := Vector.replicate 16 none }

/-- ADC k of a bay. -/
def adcOf (a : Fin 9) (k : Fin 2) : Fin 18 := ⟨2 * a.val + k.val, by omega⟩

/-- Copy an analogue original's settings, and connect the spare as SECONDARY of its octet. -/
def State.copyAnalogue (s : State) (o a : Fin 9) : State :=
  let s := s.onAbay a fun b => copyAbay b s.abays[o]
  let s := s.each (List.finRange 2) fun s k => s.onAdc (adcOf a k) fun x => copyAdc x s.adcs[adcOf o k]
  match (List.finRange 8).find? fun c => s.xbar.primary[c].toNat = o.val with
  | some c => { s with xbar := { s.xbar with secondary := s.xbar.secondary.set c (BitVec.ofNat 4 a.val), pending := true } }
  | none => s

/-- The spare's domain is ON: settings are copied, or the load is queued (R227). -/
def State.spareOn (s : State) (i : Nat) : State :=
  match s.repairOfSpare i with
  | some (r, x) =>
    if x.phase ≠ RepPhase.prepare then s
    else match aBay x.orig, aBay x.spare, dBay x.spare with
      | some o, some a, _ => s.copyAnalogue o a
      | _, _, some d => s.queueSpare r d x
      | _, _, _ => s
  | none => s

/-- The repair enters PREPARE: the spare's domain is requested (R227). -/
def State.prepare (s : State) (r : Fin 3) : State :=
  let s := s.onRep r fun x => { x with phase := .prepare }
  match s.rep.slots[r] with
  | some x => match (fin x.spare : Option (Fin 32)) with
    | some i => if s.isOn i then s.spareOn x.spare else s.askOn i
    | none => s
  | none => s

/-- The engine's load of a spare starts: its input ports take the original's sources, and the GSR of a recall gives way
to the load's (R223, R227). -/
def State.spareLoads (s : State) (d : Fin 18) : State :=
  let s := s.onDbay d fun b => { b with gsrRepair := false }
  match s.repairOfSpare (9 + d.val) with
  | some (_, x) => match dBay x.orig with
    | some o =>
      let act := (List.range 64).foldl (fun m j => store 0xFFF m (64 * d.val + j) (s.linActive (64 * o.val + j))) s.lin.active
      { s with lin := { s.lin with active := act } }
    | none => s
  | none => s

/-! ### The drain of a revocation with FORCE (R330) -/

/-- An unfinished command ends with ABORTED, and what an engine does for it stops: a repair before F, a calibration job, a
queued load, and whatever waits for a boundary. A job that holds its unit releases it at the next frame boundary; a load
that runs goes on (log 32). -/
def State.abortCommand (s : State) (c : CmdRef) : State :=
  let s := s.each (List.finRange 3) fun s r => match s.rep.slots[r] with
    | some x => if x.cmd = c && !x.past then s.dropRepair r (failed Status.aborted) else s
    | none => s
  let s := s.endJobs (fun j => j.cmd == some c && j.state ≠ .held) (failed Status.aborted)
  let mark (j : Job) : Job := { j with
    aborted := j.aborted || j.cmd = some c
    pend := match j.pend with | some p => if p.cmd = c then none else some p | none => none }
  let s := { s with
    cal := { s.cal with jobs := s.cal.jobs.map (fun (j : Option Job) => j.map mark) }
    cfg := { s.cfg with queue := s.cfg.queue.filter fun x => x.cmd ≠ some c }
    adcStarts := s.adcStarts.filter fun x => x.1 ≠ c
    wdacWaits := s.wdacWaits.filter fun x => x.cmd ≠ c
    lin := { s.lin with waits := s.lin.waits.filter (· ≠ c) }
    pwr := { s.pwr with served := s.pwr.served.filter fun x => x.cmd ≠ c }
    unstarted := s.unstarted.filter fun x => x.1 ≠ c }
  s.queueSpares.finish c (failed Status.aborted)

end Sys2Proof.Machine
end

