-- ==== Sys2Proof/Machine/Images.lean ====
section
/-!
DEFINITION. Bay images, the configuration buffer, the image store, loads and scrubbing (11).
-/
namespace Sys2Proof.Machine

/-! ### Image header (R203, R204) -/

def imageSize : Nat := 262144

/-- MEM_m of a header. -/
def memField (img : List Byte) (m : Nat) : BitVec 64 := rd 64 img (0x20 + 8 * m) 8

/-- The settings of a memory block that a header gives. -/
structure MemInit where
  shape : BitVec 2
  mode : BitVec 2
  decim : BitVec 3
  af : BitVec 13
  ae : BitVec 13
  depth : BitVec 13
deriving DecidableEq, Repr

def memInit (img : List Byte) (m : Nat) : MemInit :=
  let w := memField img m
  { shape := bits w 0 2, mode := bits w 2 2, decim := bits w 8 3, af := bits w 16 13, ae := bits w 32 13, depth := bits w 48 13 }

/-- Settings within Tables 10-1 and 10-3. -/
def MemInit.ok (x : MemInit) : Bool :=
  let n := entries x.shape
  x.shape ≠ 3 &&
  (match x.mode.toNat with
    | 1 => 1 ≤ x.af.toNat && x.af.toNat ≤ n && x.ae.toNat < n
    | 2 => 4 ≤ x.depth.toNat && x.depth.toNat ≤ n
    | _ => true)

/-- The header checks of R204. -/
def headerOk (img : List Byte) : Bool :=
  rd 32 img 0x3FC 4 == crc32 (img.take 0x3FC) && rd 32 img 0 4 == 0x5A424931 && rd 16 img 4 2 == 1 && rd 16 img 6 2 == 1020 &&
  rd 32 img 8 4 == 0x5A546432 && (rd 8 img 12 1).toNat ≤ Config.hwRev.toNat && [0, 1, 2, 3].all fun m => (memInit img m).ok

/-- BODY_CRC against the bytes from 0x400 on (R207). -/
def bodyOk (img : List Byte) : Bool := rd 32 img 0x3F8 4 == crc32 (img.drop 0x400)

/-! ### The buffer and the store (R206 to R211) -/

/-- A command is a load from the buffer. -/
def loadsBuffer : Instr → Bool
  | .cfgLoad _ _ source => source == 0xFF
  | _ => false

/-- A load of the holder holds the buffer: from its acceptance, before it starts too, to its end (R209). -/
def State.bufHeld (s : State) : Bool :=
  let mine (p : Fin 32) : Bool := s.cfg.holder == some p
  s.unstarted.any (fun x => loadsBuffer x.2 && mine x.1.part) || s.cfg.queue.any (fun x => x.source == 0xFF && mine x.part) ||
    (match s.cfg.running with | some r => r.load.source == 0xFF && mine r.load.part | none => false)

/-- A claim of the buffer ends: it is emptied and VALID cleared (R209). -/
def State.freeBuf (s : State) : State := { s with cfg := { s.cfg with holder := none, buf := [], valid := false } }

/-- The area that a slot names. -/
def State.slotArea (s : State) (k : Byte) : Option (Fin 34) :=
  match (fin k.toNat : Option (Fin 32)) with
  | some k => s.cfg.slots[k]
  | none => none

/-- The image that a source names: a slot's, or the buffer's. -/
def State.sourceImage (s : State) (k : Byte) : Option (List Byte) :=
  if k = 0xFF then (if s.cfg.valid then some s.cfg.buf else none) else (s.slotArea k).map fun a => s.cfg.areas[a].data

/-- Areas that no slot names and no running save takes. -/
def State.freeAreas (s : State) : List (Fin 34) :=
  (List.finRange 34).filter fun a => (!s.cfg.slots.toList.contains (some a)) &&
    (match s.cfg.job with | some (.save _ _ b _) => a ≠ b | _ => true)

/-- The free, erased area within its endurance that has been erased least; or the code that a save ends with. -/
def State.saveArea (s : State) : Except Byte (Fin 34) :=
  let live := s.freeAreas.filter fun a => s.cfg.areas[a].erases ≤ Config.storeEndurance
  let ready := live.filter fun a => s.cfg.areas[a].erased
  match ready.foldl (fun best a => match best with
      | some (b : Fin 34) => if s.cfg.areas[a].erases < s.cfg.areas[b].erases then some a else best
      | none => some a) none with
  | some a => .ok a
  | none => .error (if live.isEmpty then Status.slotWorn else Status.busy)

def State.onArea (s : State) (a : Fin 34) (f : Area → Area) : State := { s with cfg := { s.cfg with areas := upd s.cfg.areas a f } }

/-! ### Loading (R212 to R215) -/

def bayUnit (d : Fin 18) : Byte := BitVec.ofNat 8 d.val

/-- What a load needs at its acceptance and again at its start (R212); none when it may go on. -/
def State.loadRefused (s : State) (x : Load) : Option Byte :=
  let i := domOfD x.bay
  if x.cmd.isSome && !s.owns x.part (0x10 + x.bay.val) then some Status.denied
  else if s.isSuspect i then some Status.hwMismatch
  else if x.cmd.isSome && s.inRepair i.val then some Status.conflict
  else if !s.isOn i then some Status.notReady
  else if x.source = 0xFF && s.cfg.holder ≠ some x.part then some Status.notReady
  else match s.sourceImage x.source with
    | none => some Status.notReady
    | some img => if headerOk img then none else some Status.badImage

/-- Set the blocks as the image says (R203, R213). -/
def MemBlock.init (b : MemBlock) (x : MemInit) : MemBlock :=
  { b.gsr with
    shape := x.shape, mode := x.mode, decim := x.decim, af := x.af, ae := x.ae, depth := x.depth
    decimNow := x.decim, afNow := x.af, aeNow := x.ae, depthNow := x.depth
    level := 0, head := 0, running := none, waiting := none, valid := false, last := false, quiet := x.depth.toNat }

/-- The answer to a load's command. A load of the repair engine that fails ends the repair (R236). -/
def State.loadReply (s : State) (x : Load) (r : Reply) : State :=
  match x.cmd with
  | some c => s.finish c r
  | none => if r.status = 0 then s else s.spareLost (9 + x.bay.val)

/-- Replace frame `k` of a bay's configuration. -/
def putFrame (fs : List Byte) (k : Nat) (f : List Byte) : List Byte := padTo (256 * k) (fs.take (256 * k)) ++ f ++ fs.drop (256 * (k + 1))

/-- The bay's domain leaves ON: its frames are lost and STATE becomes EMPTY; a load of it ends with FAULT when the domain
trips, with `code` otherwise (R214, R215). -/
def State.loseImage (s : State) (d : Fin 18) (code : Byte) : State :=
  let s := (s.onDbay d fun b => { b with
    cfg := .empty, frames := [], corrected := [], gsrLoad := false, gsrReset := false, gsrHold := false, gsrRepair := false }).normal (cfgMark (9 + d.val))
  match s.cfg.running with
  | some r =>
    if r.load.bay = d then ({ s with cfg := { s.cfg with running := none } }).loadReply r.load (failed code) else s
  | none => s

/-! ### Scrubbing (R216 to R218) -/

/-- A word of frame `k` corrected in pass `pass`: how often in consecutive passes now. -/
def timesCorrected (cs : List Corrected) (k : Nat) (w : Fin 28) (pass : Nat) : Nat :=
  match cs.find? fun x => x.frame = k && x.word = w with
  | some x => if x.pass + 1 = pass then x.times + 1 else 1
  | none => 1

/-- The corrections of a frame, renewed. -/
def renew (cs : List Corrected) (k : Nat) (ws : List (Fin 28)) (pass : Nat) : List Corrected :=
  (cs.filter fun x => x.frame ≠ k) ++
    ws.map fun w => { frame := k, word := w, pass := pass, times := timesCorrected cs k w pass }

/-- A bay becomes FAULTED (R217). -/
def State.faultBay (s : State) (d : Fin 18) (cause : BitVec 2) (k : Nat) : State :=
  s.onDbay d fun b => { b with cfg := .faulted, cause := cause, frame := BitVec.ofNat 10 k }

/-- Table 11-2 for frame `k` of bay `d`. -/
def State.scrub (s : State) (d : Fin 18) (k : Nat) (found : ScrubFound) : State :=
  let unit := bayUnit d
  let here (arg : Word) : Bool := arg.toNat = k
  let own := s.memOwner d
  let marks := [cfgMark (9 + d.val)]
  let (bad, inj, s) := s.check 0x141 unit (found = .bad) here
  if bad then
    let s := (s.faultBay d 1 k).onDbay d fun b => { b with uncorr := satInc b.uncorr }
    (s.carry (cfgMark (9 + d.val)) inj).raise {
      ev := .cfgUncorr, det := 0x141, inst := d.val, unit := unit, part := own, injected := inj, flags := 2, marks := marks, args := bytesOf 2 k }
  else
    let ws := match found with | .single ws => ws | _ => []
    let cs := renew s.dbays[d].corrected k ws s.cfg.pass
    let s := s.onDbay d fun b => { b with corrected := cs }
    let three := cs.filter fun x => x.frame = k && 3 ≤ x.times
    let armed := s.armedOn 0x142 unit here
    let lastOne := match armed with | some (_, a) => a.left ≤ 1 | none => true
    let (st, injS, s) := s.check 0x142 unit (!three.isEmpty) here
    let (co, injC, s) := s.check 0x140 unit (!ws.isEmpty) here
    let s := if co || (st && ws.isEmpty) then
        let s := s.onDbay d fun b => { b with corr := satAdd b.corr (max 1 ws.length) }
        let s := if co then s else s.countDet 0x140 true
        s.raise { ev := .cfgCorr, det := 0x140, inst := d.val, unit := unit, part := own, injected := ws.isEmpty && (injC || injS),
                  limit := .pass s.cfg.pass, marks := marks }
      else s
    if st && (!three.isEmpty || lastOne) then
      let words := if three.isEmpty then [0] else three.map (·.word.val)
      ((s.faultBay d 2 k).carry (cfgMark (9 + d.val)) injS).each words fun s word => s.raise {
        ev := .cfgStuck, det := 0x142, inst := d.val, unit := unit, part := own, injected := injS, flags := 2, marks := marks
        args := bytesOf 2 k ++ bytesOf 2 word }
    else s

/-! ### Registers (Tables 9-6, 11-4) -/

inductive CfgReg where
  | bayStatus
  | bayEvents
  | resetCnt
  | status
  | idLo
  | idHi
  | cnt
  | events
  | ctrl
deriving DecidableEq, Repr

def cfgStateCode : CfgState → Nat
  | .empty => 0
  | .loading => 1
  | .loaded => 2
  | .faulted => 3

def cfgStatus (b : DBay) : Word :=
  BitVec.ofNat 32 (cfgStateCode b.cfg) ||| field b.cause 4 ||| field b.source 8 ||| field b.frame 16

def cfgCnt (b : DBay) : Word := field b.corr 0 ||| field b.uncorr 16 ||| field b.loads 24

def cfgAccess (p : Fin 32) (d : Fin 18) (r : CfgReg) (s : State) : Access :=
  let b := s.dbays[d]
  let own := s.owns p (0x10 + d.val)
  let doms := [domOfD d]
  match r with
  | .bayStatus =>
    roReg (flag (s.isOn (domOfD d)) 0 ||| flag (s.gsr d) 1 ||| flag b.untimed 2 ||| flag b.uclk 3 ||| flag b.slackFail 4) 0x1F
  | .bayEvents => w1cReg own b.events 1 .dbay d.val doms
  | .resetCnt => roReg (field b.resetCnt 0) 0xFFFF
  | .status => roReg (cfgStatus b) 0x03FFFF33
  | .idLo => roReg (bits b.design 0 32)
  | .idHi => roReg (bits b.design 32 32)
  | .cnt => roReg (cfgCnt b)
  | .events => w1cReg own b.cfgEvents 0x1F .dbayCfg d.val doms
  | .ctrl => rwReg (flag b.faultAction 0) 1 own (doms := doms) fun v s => s.onDbay d fun b => { b with faultAction := testBit v 0 }

/-! ### Meanings: moments -/

/-- CFG_BUF_LAPSE (R206, R209): 1 s without a buffer command of the holder. -/
def execCfgBufLapse (s : State) : Outcome := whenHw s fun s => if s.bufHeld then s else s.freeBuf

/-- The engine's load of a repair that holds its phase waits in its place (R236). -/
def State.loadWaits (s : State) (x : Load) : Bool :=
  x.cmd.isNone && (match s.repairOfSpare (9 + x.bay.val) with | some (_, y) => s.halted y | none => false)

/-- The first load in the queue that does not wait, and the rest of the queue. -/
def State.nextLoad (s : State) : Option (Load × List Load) :=
  (s.cfg.queue.find? fun x => !s.loadWaits x).map fun x => (x, s.cfg.queue.erase x)

/-- CFG_LOAD_START (R213, R236): the next load in the queue is checked again and starts. -/
def execCfgLoadStart (s : State) : Outcome :=
  whenHw s fun s =>
    match s.cfg.running, s.nextLoad with
    | none, some (x, rest) =>
      let refused := s.loadRefused x
      let img := (s.sourceImage x.source).getD []
      let s := ({ s with cfg := { s.cfg with queue := rest } } : State).queueSpares
      match refused with
      | some c => s.loadReply x (failed c)
      | none =>
        let s := { s with cfg := { s.cfg with running := some { load := x, area := s.slotArea x.source, image := img, frame := 0, retried := false } } }
        let s := (s.onDbay x.bay fun b => { b with gsrLoad := true, cfg := .loading, source := x.source }).enterGsr x.bay
        if x.cmd.isNone then s.spareLoads x.bay else s
    | _, _ => s

/-- CFG_FRAME_WRITE (R213, R214): a frame is written and read back; a second mismatch ends the load. -/
def execCfgFrameWrite (bad : Bool) (s : State) : Outcome :=
  whenHw s fun s =>
    match s.cfg.running with
    | none => s
    | some r =>
      if 1020 ≤ r.frame then s
      else
        let d := r.load.bay
        let k := r.frame
        let s := s.onDbay d fun b => { b with frames := putFrame b.frames k (slice r.image (0x400 + 256 * k) 256) }
        let (dead, inj, s) := s.check 0x143 (bayUnit d) (bad && r.retried) fun arg => arg.toNat = k
        if dead then
          let s := { s with cfg := { s.cfg with running := none } }
          let s := ((s.faultBay d 3 k).carry (cfgMark (9 + d.val)) inj).raise {
            ev := .cfgLoadFail, det := 0x143, inst := d.val, unit := bayUnit d, part := s.memOwner d, injected := inj
            marks := [cfgMark (9 + d.val)], args := bytesOf 2 k }
          s.loadReply r.load (failed Status.fault (bytesOf 2 k))
        else
          let r := if bad then { r with retried := true } else { r with frame := k + 1, retried := false }
          { s with cfg := { s.cfg with running := some r } }

/-- A completed load: settings, flags, GSR and the answer (R205, R213, R218). -/
def State.loaded (s : State) (r : Loading) : State :=
  let d := r.load.bay
  let fl := rd 8 r.image 13 1
  let off := testBit fl 0 || testBit fl 1
  let s := { s with cfg := { s.cfg with running := none } }
  let s := (s.leaveGsr d fun b => { b with
    mems := Vector.ofFn fun m => b.mems[m].init (memInit r.image m.val)
    cfg := .loaded, cause := 0, design := rd 64 r.image 16 8, uclk := testBit fl 0, slackFail := testBit fl 1, untimed := off
    gsrLoad := false, gsrHold := false, loads := satInc b.loads, corrected := [] }).normal (cfgMark (9 + d.val))
  let s := if off then
      s.raise { ev := .fabUntimed, inst := d.val, unit := bayUnit d, part := s.memOwner d }
    else s
  let s := s.raise { ev := .cfgLoaded, inst := d.val, unit := bayUnit d, part := s.memOwner d }
  s.loadReply r.load (done [])

/-- CFG_LOAD_FINISH (R213): the frame boundary after the last frame. -/
def execCfgLoadFinish (s : State) : Outcome :=
  whenHw s fun s =>
    match s.cfg.running with
    | some r => if 1020 ≤ r.frame then s.loaded r else s
    | none => s

/-- A running load reads the area. -/
def State.areaRead (s : State) (a : Fin 34) : Bool := match s.cfg.running with | some r => r.area == some a | none => false

/-- The area is free, is not erased, and no load reads it: its erase may run (R210). -/
def State.eraseDue (s : State) (a : Fin 34) : Bool := s.freeAreas.contains a && !s.cfg.areas[a].erased && !s.areaRead a

/-- The directory record of an erase commits: the slot names no image (R210). -/
def State.eraseSlot (s : State) (c : CmdRef) (k : Fin 32) : State :=
  ({ s with cfg := { s.cfg with job := none, slots := s.cfg.slots.set k none } } : State).finish c (done [])

/-- CFG_STORE_COMMIT (R210, R211): every page is verified and the directory record commits; or a verification failed.
Under NVW_DEFER a save waits, and an erase's directory record commits only if it was under way (R62, R63). -/
def execCfgStoreCommit (ok : Bool) (s : State) : Outcome :=
  whenKpr s fun s =>
    match s.cfg.job with
    | none => s
    | some (.save c k a data) =>
      if s.pwr.nvwDefer then s else
      let (bad, _, s) := s.check 0x1C1 2 (!ok)
      let s := { s with cfg := { s.cfg with job := none } }
      if bad then (s.onArea a fun x => { x with erased := false }).finish c (failed Status.fault)
      else
        let s := s.onArea a fun x => { x with data := data, erased := false }
        let s := { s with cfg := { s.cfg with slots := s.cfg.slots.set k (some a) } }
        s.finish c (done [])
    | some (.erase c k _) =>
      if !s.mayWrite .directory then s else
      let (bad, _, s) := (s.endWrite .directory).check 0x1C1 2 (!ok)
      if bad then ({ s with cfg := { s.cfg with job := none } } : State).finish c (failed Status.fault) else s.eraseSlot c k

/-- A job of the store is abandoned: a save leaves its area partly programmed (R65, R211). -/
def State.dropStoreJob (s : State) : State :=
  let s := match s.cfg.job with
    | some (.save _ _ a _) => s.onArea a fun x => { x with erased := false }
    | _ => s
  { s with cfg := { s.cfg with job := none } }

/-- STORE_AREA_ERASE (R210): a free area that no load is reading has been erased in the background; under NVW_DEFER only an
erase that was under way ends (R62). Its verification meets detector 0x1C1 (R372). -/
def execStoreAreaErase (a : Fin 34) (ok : Bool) (s : State) : Outcome :=
  whenKpr s fun s =>
    if s.eraseDue a && s.mayWrite (.area a) then
      let (bad, _, s) := (s.endWrite (.area a)).check 0x1C1 2 (!ok)
      s.onArea a fun x => { x with erases := x.erases + 1, erased := !bad, data := if bad then x.data else [] }
    else s

/-- SCRUB_FRAME_VISIT (R216, R217): the next slot of the schedule. -/
def execScrubFrameVisit (found : ScrubFound) (s : State) : Outcome :=
  whenHw s fun s =>
    let pos := s.cfg.scrubPos
    let s' := match (fin (pos / 1020) : Option (Fin 18)) with
      | some d =>
        let st := s.dbays[d].cfg
        if s.isOn (domOfD d) && st ≠ CfgState.empty && st ≠ CfgState.loading then s.scrub d (pos % 1020) found else s
      | none => s
    { s' with cfg := { s'.cfg with
      scrubPos := if pos + 1 < 18360 then pos + 1 else 0, pass := if pos + 1 < 18360 then s'.cfg.pass else s'.cfg.pass + 1 } }

/-- FAULT_ACTION_APPLY (R218): at the frame boundary a FAULTED bay runs on, or is held in GSR. -/
def execFaultActionApply (d : Fin 18) (s : State) : Outcome :=
  whenHw s fun s =>
    let b := s.dbays[d]
    if b.cfg = .faulted then
      let s := s.onDbay d fun b => { b with gsrHold := b.faultAction }
      if b.faultAction && !b.gsrHold then s.enterGsr d else s
    else s

/-! ### Meanings: commands (Table 11-3) -/

def runCfgBufOpen (p : Fin 32) : Run := fun s =>
  match s.cfg.holder with
  | some q =>
    if q ≠ p || s.bufHeld then (s, some (failed Status.conflict))
    else ({ s with cfg := { s.cfg with buf := [], valid := false } }, some (done []))
  | none => ({ s with cfg := { s.cfg with holder := some p, buf := [], valid := false } }, some (done []))

/-- CFG_BUF_OPEN (R206, R209). -/
def execCfgBufOpen (h : Header) (s : State) : Outcome := darem (.cfgBufOpen h) h { op := 0x30 } [] (runCfgBufOpen h.part) s

def runCfgBufWrite (p : Fin 32) (offset : Word) (data : List Byte) : Run := fun s =>
  let n := s.cfg.buf.length
  if s.cfg.holder ≠ some p then (s, some (failed Status.denied))
  else if s.cfg.valid then (s, some (failed Status.conflict))
  else if offset.toNat ≠ n || imageSize < n + data.length then (s, some (failed Status.outOfRange))
  else ({ s with cfg := { s.cfg with buf := s.cfg.buf ++ data } }, some (done (bytesOf 4 (n + data.length))))

/-- CFG_BUF_WRITE (R207). -/
def execCfgBufWrite (h : Header) (offset : Word) (count : Half) (data : List Byte) (s : State) : Outcome :=
  darem (.cfgBufWrite h offset count data) h
    { op := 0x31, layout := count.toNat = data.length && 1 ≤ data.length && data.length ≤ 448, allowed := s.cfg.holder = some h.part }
    (le 4 offset ++ le 2 count ++ data) (runCfgBufWrite h.part offset data) s

def runCfgBufClose (p : Fin 32) (release : Byte) : Run := fun s =>
  let n := s.cfg.buf.length
  if 1 < release.toNat then (s, some (failed Status.outOfRange))
  else if s.cfg.holder ≠ some p then (s, some (failed Status.denied))
  else if release = 1 && s.bufHeld then (s, some (failed Status.conflict))
  else if n ≠ imageSize then
    if release = 0 then (s, some (failed Status.outOfRange (bytesOf 4 n))) else (s.freeBuf, some (done [0]))
  else
    let good := headerOk s.cfg.buf && bodyOk s.cfg.buf
    if release = 1 then (s.freeBuf, some (if good then done [0] else failed Status.badImage))
    else if good then ({ s with cfg := { s.cfg with valid := true } }, some (done [1]))
    else (s, some (failed Status.badImage))

/-- CFG_BUF_CLOSE (R207, R209). -/
def execCfgBufClose (h : Header) (release : Byte) (s : State) : Outcome :=
  darem (.cfgBufClose h release) h { op := 0x32, allowed := s.cfg.holder = some h.part } [release] (runCfgBufClose h.part release) s

def runCfgLoad (c : CmdRef) (bay source : Byte) : Run := fun s =>
  match (fin bay.toNat : Option (Fin 18)) with
  | none => (s, some (failed Status.outOfRange))
  | some d =>
    let x : Load := { cmd := some c, part := c.part, bay := d, source := source }
    if 31 < source.toNat && source ≠ 0xFF then (s, some (failed Status.outOfRange))
    else match s.loadRefused x with
      | some code => (s, some (failed code))
      | none =>
        if 18 ≤ s.cfg.queue.length then (s, some (failed Status.busy))
        else ({ s with cfg := { s.cfg with queue := s.cfg.queue ++ [x] } }, none)

/-- CFG_LOAD (R212, R213). -/
def execCfgLoad (h : Header) (bay source : Byte) (s : State) : Outcome :=
  darem (.cfgLoad h bay source) h
    { op := 0x33, allowed := 18 ≤ bay.toNat || s.owns h.part (0x10 + bay.toNat)
      codes := if bay.toNat < 18 then [0x10 + bay.toNat] else [], long := true }
    [bay, source] (runCfgLoad (refOf h) bay source) s

def runCfgStoreSave (c : CmdRef) (slot : Byte) : Run := fun s =>
  match (fin slot.toNat : Option (Fin 32)) with
  | none => (s, some (failed Status.outOfRange))
  | some k =>
    if !s.cfg.valid || s.cfg.holder ≠ some c.part then (s, some (failed Status.notReady))
    else if !headerOk s.cfg.buf then (s, some (failed Status.badImage))
    else if s.cfg.job.isSome then (s, some (failed Status.busy))
    else match s.saveArea with
      | .error code => (s, some (failed code))
      | .ok a => ({ s with cfg := { s.cfg with job := some (.save c k a s.cfg.buf) } }, none)

/-- CFG_STORE_SAVE (R210, R211). -/
def execCfgStoreSave (h : Header) (slot : Byte) (s : State) : Outcome :=
  darem (.cfgStoreSave h slot) h
    { op := 0x34, allowed := h.part == 0 && s.cfg.holder == some 0, durable := true, long := true } [slot] (runCfgStoreSave (refOf h) slot) s

def runCfgStoreErase (c : CmdRef) (slot : Byte) : Run := fun s =>
  match (fin slot.toNat : Option (Fin 32)) with
  | none => (s, some (failed Status.outOfRange))
  | some k =>
    match s.cfg.slots[k] with
    | none => (s, some (failed Status.notReady))
    | some a =>
      if s.cfg.job.isSome then (s, some (failed Status.busy))
      else ({ s with cfg := { s.cfg with job := some (.erase c k a) } }, none)

/-- CFG_STORE_ERASE (R210). -/
def execCfgStoreErase (h : Header) (slot : Byte) (s : State) : Outcome :=
  darem (.cfgStoreErase h slot) h { op := 0x35, allowed := h.part == 0, durable := true, long := true } [slot]
    (runCfgStoreErase (refOf h) slot) s

def runCfgStoreInfo (slot : Byte) : Run := fun s =>
  if 31 < slot.toNat then (s, some (failed Status.outOfRange))
  else match s.slotArea slot with
    | none => (s, some (failed Status.notReady))
    | some a => (s, some (done (slice s.cfg.areas[a].data 0 1024)))

/-- CFG_STORE_INFO (Table 11-3). -/
def execCfgStoreInfo (h : Header) (slot : Byte) (s : State) : Outcome :=
  darem (.cfgStoreInfo h slot) h { op := 0x36, idem := true } [slot] (runCfgStoreInfo slot) s

/-- Reserved bits of register words are sent as 0 (log 152). -/
def runCfgStatusGet (bay : Byte) : Run := fun s =>
  match (fin bay.toNat : Option (Fin 18)) with
  | none => (s, some (failed Status.outOfRange))
  | some d =>
    let b := s.dbays[d]
    (s, some (done (le 4 (cfgStatus b) ++ le 8 b.design ++ le 4 (cfgCnt b) ++ bytesOf 4 s.cfg.queue.length)))

/-- The domain of a digital bay's number. -/
def domArg (bay : Byte) : Option (Fin 32) := (fin bay.toNat : Option (Fin 18)).map domOfD

/-- CFG_STATUS_GET (Table 11-3). -/
def execCfgStatusGet (h : Header) (bay : Byte) (s : State) : Outcome :=
  darem (.cfgStatusGet h bay) h { op := 0x37, idem := true, doms := (domArg bay).toList } [bay] (runCfgStatusGet bay) s

/-! ### Bay resets (R67, R134, R175, R176) -/

/-- Staged thresholds of a bay are discarded (R134). -/
def ABay.dropStaged (b : ABay) : ABay := b.onCmps fun c => { c with set := c.use }

/-- BAY_RESET_ASSERT (R67, R176): the boundary at which a PWR_RESET of kind BAY acts. Bays are numbered as domains. -/
def execBayResetAssert (i : Fin 27) (s : State) : Outcome :=
  whenHw s fun s =>
    match (fin i.val : Option (Fin 9)), (fin (i.val - 9) : Option (Fin 18)) with
    | some a, _ =>
      if s.abays[a].resetDue then
        (s.adcsOff a).onAbay a fun b => { b.dropStaged.idleFine with inReset := true, resetDue := false }
      else s
    | none, some d =>
      if s.dbays[d].resetDue then
        (s.onDbay d fun b => { b with gsrReset := true, resetDue := false, resetCnt := satInc b.resetCnt }).enterGsr d
      else s
    | none, none => s

/-- BAY_RESET_RELEASE (R176): 16 CK later. -/
def execBayResetRelease (i : Fin 27) (s : State) : Outcome :=
  whenHw s fun s =>
    match (fin i.val : Option (Fin 9)), (fin (i.val - 9) : Option (Fin 18)) with
    | some a, _ => s.onAbay a fun b => { b with inReset := false }
    | none, some d => s.leaveGsr d fun b => { b with gsrReset := false }
    | none, none => s

end Sys2Proof.Machine
end

