-- ==== Sys2Proof/Machine/Partition.lean ====
section
/-!
DEFINITION. Partitions, grants and revocations, quotas, and key slots (17).
-/
namespace Sys2Proof.Machine

/-! ### Changes of the ownership table (R326 to R331) -/

/-- The epoch after `e`: 0 is never taken (R326). -/
def nextEpoch (e : Word) : Word := if e = 0xFFFFFFFF then 1 else e + 1

def State.stepEpoch (s : State) : State := { s with part := { s.part with epoch := nextEpoch s.part.epoch } }

/-- The bay of a resource code, numbered as a domain. -/
def codeBay (c : Nat) : Option Nat := if c < 9 then some c else if 0x10 ≤ c && c < 0x22 then some (c - 0x10 + 9) else none

/-- The resource code of a bay. -/
def bayCode (i : Nat) : Nat := if i < 9 then i else 0x10 + (i - 9)

/-- A resource that PART_GRANT may move (R328). -/
def State.grantable (s : State) (c : Nat) : Bool :=
  let o := s.ownOf c
  o.owner == 0 && !o.draining &&
  (match codeBay c with
    | some i => !s.inRepair i && !testBit s.rep.spares i && !testBit s.rep.retired i
    | none => true)

/-- A free spare: listed, not lent, P0's and not draining (R221, R222). -/
def State.freeSpare (s : State) (i : Nat) : Bool :=
  testBit s.rep.spares i && !testBit s.rep.loans i && !s.inRepair i && (s.ownOf (bayCode i)).owner == 0 && !(s.ownOf (bayCode i)).draining

/-- The code with which a change ends when the table as it stands does not admit it (R222, R328, R329). -/
def State.changeRefused (s : State) : Change → Option Byte
  | .grant _ _ codes => if codes.all s.grantable then none else some Status.conflict
  | .revoke _ loser _ _ codes => if loser ≠ 0 && codes.all (s.owns loser) then none else some Status.conflict
  | .lend _ _ code =>
    match codeBay code with
    | some i =>
      if s.freeSpare i then none
      else some (if testBit s.rep.spares i && (s.repairOfSpare i).isSome then Status.conflict else Status.notReady)
    | none => some Status.notReady
  | .recall loser code => if s.owns loser code then none else some Status.conflict
  | .exchange _ _ => none

/-- The command of a change. -/
def Change.cmd : Change → Option CmdRef
  | .grant c _ _ => some c
  | .revoke c _ _ _ _ => some c
  | .lend c _ _ => some c
  | .recall _ _ => none
  | .exchange _ _ => none

/-- The resources that a cut-over exchanges: the bay, and the original's ADCs with it (log 26). -/
def bayCodes (i : Nat) : List Nat := bayCode i :: (if i < 9 then [0x40 + 2 * i, 0x40 + 2 * i + 1] else [])

/-- Move resources to P0 with DRAINING and start a drain (R329). -/
def State.takeAway (s : State) (cmd : Option CmdRef) (loser : Fin 32) (force : Bool) (limit : Nat) (codes : List Nat) : State :=
  let e := s.part.epoch
  let s := s.each codes fun s c => s.setOwn c { owner := 0, draining := true, lent := (s.ownOf c).lent }
  let d : Drain := { cmd := cmd, loser := loser, codes := codes, epoch := e, force := force, expiry := s.ck + 250000 * limit, aborted := 0 }
  let s := { s with part := { s.part with loss := s.part.loss.set loser e, drains := s.part.drains ++ [d] } }
  s.raise { ev := .partRevoked, unit := BitVec.ofNat 8 loser.val, part := loser }

/-! ### The table store and the key store (R338) -/

/-- A record of the table or key store meets detector 0x1C1, area 3, which only counts: the program is repeated (Table
20-4). Whether it fails is free (log 149). -/
def State.tableProgram (s : State) : State :=
  let (fails, s) := s.drawFlash
  if (s.armedOn 0x1C1 3).isSome then (s.check 0x1C1 3 fails).2.2
  else { s with inj := if fails then (s.countDet 0x1C1 false).inj else s.inj }

/-- A record of the table store is programmed: the next of the eight erase blocks takes it (log 123). -/
def State.tableRecord (s : State) : State :=
  let s := s.tableProgram
  let b : Fin 8 := s.part.tableBlock + 1
  { s with part := { s.part with tableBlock := b, tableWrites := upd s.part.tableWrites b (· + 1) } }

/-- The generations that a write of the key store copies: every live one, which is each current one and each older one that
is still leased (R333, R335, R338, log 124). -/
def State.liveKeys (s : State) : List KeyCopy :=
  (List.finRange 32).flatMap fun p => s.keys.slots[p].gens.map fun g => { slot := p, gen := g.gen, key := g.key }

/-- A write of the key store: every live generation goes into the other block, which commits (R338). -/
def State.keyRecord (s : State) : State :=
  let s := s.tableProgram
  let new : Fin 2 := s.keys.active + 1
  let live := s.liveKeys
  { s with keys := { s.keys with
    active := new, blocks := upd s.keys.blocks new fun x => { erased := false, copies := live, erases := x.erases } } }.eraseOldKeys

/-- The flash record of a change has committed (R326). -/
def State.applyChange (s : State) (x : Change) : State :=
  let s := s.stepEpoch
  match x with
  | .grant c target codes =>
    (s.each codes fun s k => s.setOwn k { owner := target, draining := false, lent := false }).finish c (done [])
  | .revoke c loser force limit codes => s.takeAway (some c) loser force limit codes
  | .lend c target code =>
    let s := s.setOwn code { owner := target, draining := false, lent := true }
    let s := match codeBay code with
      | some i => { s with rep := { s.rep with loans := setBit s.rep.loans i } }
      | none => s
    s.finish c (done [])
  | .recall loser code => s.takeAway none loser true 0 [code]
  | .exchange orig spare =>
    let owner := (s.ownOf (bayCode orig)).owner
    let pairs := (bayCodes orig).zip (bayCodes spare)
    let moved := pairs.filter fun x => s.owns owner x.1
    let s := s.each moved fun s x => s.setOwn x.2 { owner := owner, draining := false, lent := false }
    if owner = 0 then s else s.takeAway none owner false 0 (moved.map (·.1))

/-- Let waiting changes go on: the first that the table admits is being written, the others have ended. -/
def State.admitChanges : Nat → State → State
  | 0, s => s
  | n + 1, s =>
    match s.part.changes with
    | [] => s
    | x :: rest =>
      match s.changeRefused x with
      | none => s
      | some code =>
        let s := { s with part := { s.part with changes := rest } }
        State.admitChanges n (match x.cmd with | some c => s.finish c (failed code) | none => s)

/-- A change asks for its record: it waits behind another whose record has not committed (R329). -/
def State.change (s : State) (x : Change) : State :=
  let s := { s with part := { s.part with changes := s.part.changes ++ [x] } }
  if s.part.changes.length = 1 then s.admitChanges 1 else s

/-- The command is the REPAIR_START of a repair past its cut-over, which the exchange of that cut-over does not wait for
(R235, log 30). -/
def State.pastCutover (s : State) (c : CmdRef) : Bool := s.rep.slots.toList.any fun r =>
  match r with
  | some r => r.cmd == c && r.past
  | none => false

/-- The resource is under revocation from this partition (R329). -/
def State.underRevocation (s : State) (p : Fin 32) (c : Nat) : Bool := s.part.drains.any fun d => d.loser == p && d.codes.contains c

/-- The drain set of a revocation (R330). A stamp 2^31 from the revocation's epoch is below it: it was stored earlier
(R405). -/
def State.drainSet (s : State) (d : Drain) : List Entry :=
  s.ldg.entries.filter fun e =>
    e.part == d.loser && e.result.isNone && !(s.ldg.deferred.any fun x => x.1 == { part := e.part, id := e.id }) && carriedLt e.epoch d.epoch && e.codes.any d.codes.contains &&
      !s.pastCutover { part := e.part, id := e.id }

/-- A revocation completes: DRAINING clears, staged lintel entries go, a loan ends (R171, R222, R330). -/
def State.drained (s : State) (d : Drain) : State :=
  let s := ({ s with part := { s.part with drains := s.part.drains.filter (· ≠ d) } }).tableRecord
  let s := s.each d.codes fun s c =>
    let s := s.setOwn c { s.ownOf c with draining := false, lent := false }
    match codeBay c with
    | some i => { s with rep := { s.rep with loans := clearBit s.rep.loans i } }
    | none => s
  let s := (s.dropStaged d.loser d.codes).raise { ev := .partDrained, unit := BitVec.ofNat 8 d.loser.val }
  match d.cmd with
  | some c =>
    let revoke := match s.entry c with | some e => e.op == 0x71 | none => false
    s.finish c (done (if revoke then le 2 d.aborted else []))
  | none => s

/-! ### Keys (R333 to R336) -/

def State.onKey (s : State) (p : Fin 32) (f : KeySlot → KeySlot) : State := { s with keys := { s.keys with slots := upd s.keys.slots p f } }

/-- The generation after `g`. -/
def nextGen (g : Half) : Half := if g = 0xFFFF then 1 else g + 1

def xorBytes (a b : List Byte) : List Byte := List.zipWith (· ^^^ ·) a b

/-- The pad of R336. -/
def wrapPad (key : List Byte) (target : Byte) (id : Word) : List Byte := hmac key (ascii "ZKW1" ++ [target] ++ le 4 id)

/-- KCV of a key, as its bytes spell it. -/
def keyKcv (key : List Byte) : Word := rd 32 (hmac key (ascii "ZKCV")) 0 4

/-! ### Registers (Table 17-3) -/

inductive PartReg where
  | epoch
  | status
  | events
  | cfg (p : Fin 32)
  | loss (p : Fin 32)
  | own (w : Fin 208)
deriving DecidableEq, Repr

/-- Byte of PART_OWN for a code. -/
def ownByte (s : State) (c : Nat) : Byte :=
  if codeListed c then
    let o := s.ownOf c
    BitVec.ofNat 8 (o.owner.val + (if o.draining then 32 else 0) + (if o.lent then 64 else 0))
  else 0x80

/-- Resources that drain. -/
def State.drainCount (s : State) : Nat := (s.part.own.filter fun x => x.2.draining).length

def partCfg (s : State) (p : Fin 32) : Word :=
  let q := s.part.quota[p]
  BitVec.ofNat 32 (q.min + 512 * q.max + 2 ^ 23 * min 511 (s.inFlight p)) ||| flag q.auth 20

def partAccess (p : Fin 32) (r : PartReg) (s : State) : Access :=
  match r with
  | .epoch => roReg s.part.epoch
  | .status => roReg (BitVec.ofNat 32 (s.drainCount + 65536 * s.poolFree)) 0x01FF03FF
  | .events => w1cReg (p == 0) s.part.events 7 .part 0
  | .cfg q => roReg (partCfg s q) 0xFF93FFFF
  | .loss q => roReg s.part.loss[q]
  | .own w => roReg (BitVec.ofNat 32 (unle ((List.range 4).map fun j => ownByte s (4 * w.val + j))))

inductive KeyReg where
  | slot (p : Fin 32)
  | lease (p : Fin 32)
  | kcv (p : Fin 32)
  | cnt (p : Fin 32)
  | events
deriving DecidableEq, Repr

def keySlotWord (k : KeySlot) : Word := flag k.present 0 ||| field k.gen 16
def keyLeaseWord (k : KeySlot) : Word :=
  BitVec.ofNat 32 (min 255 (k.gens.foldl (fun n g => n + g.leases.length) 0) + 256 * min 7 k.gens.length)
def keyCntWord (k : KeySlot) : Word := field k.badMac 0 ||| field k.writes 16

def keyAccess (p : Fin 32) (r : KeyReg) (s : State) : Access :=
  match r with
  | .slot q => roReg (keySlotWord s.keys.slots[q]) 0xFFFF0001
  | .lease q => roReg (keyLeaseWord s.keys.slots[q]) 0x7FF
  | .kcv q => roReg s.keys.slots[q].kcv
  | .cnt q => roReg (keyCntWord s.keys.slots[q])
  | .events => w1cReg (p == 0) s.keys.events 3 .key 0

/-! ### Meanings: moments -/

/-- The record being written commits, and the next change is checked (R326). -/
def State.commitTable (s : State) : State :=
  match s.part.changes with
  | [] => s
  | x :: rest =>
    let s := ((({ s with part := { s.part with changes := rest } }).endWrite .table).tableRecord).applyChange x
    s.admitChanges s.part.changes.length

/-- OWNERSHIP_RECORD_COMMIT (R326): under NVW_DEFER only a record that was under way commits (R62, R63). -/
def execOwnershipRecordCommit (s : State) : Outcome := whenKpr s fun s => if s.mayWrite .table then s.commitTable else s

/-- What the commit of a key record does (R335). -/
def State.applyKey (s : State) : KeyJob → State
  | .write c p key kcv =>
    let g := nextGen s.keys.slots[p].gen
    let s := (s.onKey p fun k => wipe { k with
      present := true, gen := g, gens := k.gens ++ [{ gen := g, key := key, leases := [] }], kcv := kcv, writes := satInc k.writes }).keyRecord
    (s.raise { ev := .keyWritten, unit := BitVec.ofNat 8 p.val, part := p }).finish c (done (le 2 g))
  | .erase c p =>
    let s := (s.onKey p fun k => wipe { k with present := false }).keyRecord
    (s.raise { ev := .keyErased, unit := BitVec.ofNat 8 p.val, part := p }).finish c (done [])

/-- The key record being written commits. -/
def State.commitKey (s : State) : State :=
  match s.keys.jobs with
  | [] => s
  | j :: rest => (({ s with keys := { s.keys with jobs := rest } }).endWrite .key).applyKey j

/-- The other block of the key store is erased, so that a write can take it. -/
def State.keyRoom (s : State) : Bool := s.keys.blocks[s.keys.active + 1].erased

/-- KEY_RECORD_COMMIT (R335, R338): under NVW_DEFER only a record that was under way commits (R62, R63), and a write
waits until the other block has been erased. -/
def execKeyRecordCommit (s : State) : Outcome :=
  whenKpr s fun s =>
    let s := s.eraseOldKeys
    if s.mayWrite .key && s.keyRoom then s.commitKey else s

/-- When the oldest lease on a generation was taken. -/
def Gen.oldest (x : Gen) : Option Nat := (x.leases.map (·.taken)).min?

/-- The oldest leases on a generation have lasted 100 ms and end; younger ones stay (R334). -/
def Gen.expire (x : Gen) : Gen := { x with leases := x.leases.filter fun l => some l.taken ≠ x.oldest }

/-- KEY_LEASE_EXPIRY (R334, R335): 100 ms after the oldest lease on the generation was taken; with the last lease an old
generation is wiped. What the lease was held for goes on with the current generation: a response takes its key, and an
unwrapping its pad, when it is made (`State.replyKey`, `runKeyWrite`). -/
def execKeyLeaseExpiry (p : Fin 32) (g : Half) (s : State) : Outcome :=
  whenKpr s fun s =>
    (s.onKey p fun k => wipe { k with gens := k.gens.map fun x => if x.gen = g then x.expire else x }).eraseOldKeys

/-! ### Meanings: commands (Table 17-2) -/

def halfCodes (codes : List Half) : List Nat := codes.map (·.toNat)

def runPartGrant (c : CmdRef) (part : Byte) (codes : List Half) : Run := fun s =>
  match (fin part.toNat : Option (Fin 32)) with
  | none => (s, some (failed Status.outOfRange))
  | some p =>
    if p = 0 || (halfCodes codes).any (!codeListed ·) then (s, some (failed Status.outOfRange))
    else (s.change (.grant c p (halfCodes codes)), none)

/-- PART_GRANT (R328). -/
def execPartGrant (h : Header) (part count : Byte) (codes : List Half) (s : State) : Outcome :=
  darem (.partGrant h part count codes) h
    { op := 0x70, layout := count.toNat = codes.length && 1 ≤ codes.length && codes.length ≤ 64, allowed := h.part == 0, durable := true }
    ([part, count] ++ halves codes) (runPartGrant (refOf h) part codes) s

def runPartRevoke (c : CmdRef) (force : Bool) (part : Byte) (limit : Half) (codes : List Half) : Run := fun s =>
  match (fin part.toNat : Option (Fin 32)) with
  | none => (s, some (failed Status.outOfRange))
  | some p =>
    if (halfCodes codes).any (!codeListed ·) then (s, some (failed Status.outOfRange))
    else (s.change (.revoke c p force limit.toNat (halfCodes codes)), none)

/-- PART_REVOKE (R329, R330). -/
def execPartRevoke (h : Header) (part : Byte) (limit : Half) (count : Byte) (codes : List Half) (s : State) : Outcome :=
  darem (.partRevoke h part limit count codes) h
    { op := 0x71, layout := count.toNat = codes.length && 1 ≤ codes.length && codes.length ≤ 64, allowed := h.part == 0, durable := true
      long := true }
    ([part] ++ le 2 limit ++ [count] ++ halves codes) (runPartRevoke (refOf h) h.force part limit codes) s

/-- Owner byte and flags byte of a code (R322). -/
def ownPair (s : State) (c : Nat) : List Byte :=
  if codeListed c then
    let o := s.ownOf c
    [BitVec.ofNat 8 o.owner.val, BitVec.ofNat 8 ((if o.draining then 1 else 0) + if o.lent then 2 else 0)]
  else [0, 0x80]

def runPartTableGet (first : Half) (count : Byte) : Run := fun s =>
  if count = 0 || 200 < count.toNat || 0x340 < first.toNat + count.toNat then (s, some (failed Status.outOfRange))
  else (s, some (done (le 4 s.part.epoch ++ (List.range count.toNat).flatMap fun i => ownPair s (first.toNat + i))))

/-- PART_TABLE_GET (R322). -/
def execPartTableGet (h : Header) (first : Half) (count : Byte) (s : State) : Outcome :=
  darem (.partTableGet h first count) h { op := 0x72, idem := true } (le 2 first ++ [count]) (runPartTableGet first count) s

/-- A partition may write or erase a key slot (R336); an index out of range is left to the parameter check. -/
def mayKey (p : Fin 32) (target : Byte) : Bool := p == 0 || 32 ≤ target.toNat || target.toNat == p.val

def runKeyWrite (h : Header) (target mode : Byte) (wrapped : List Byte) (kcv : Word) : Run := fun s =>
  match (fin target.toNat : Option (Fin 32)) with
  | none => (s, some (failed Status.outOfRange))
  | some p =>
    let onCan := match h.path with | .can _ => true | .link _ => false
    let accept (key : List Byte) : State × Option Reply :=
      let waiting := (s.keys.jobs.filter fun j => match j with | .write _ q _ _ => q == p | _ => false).length
      if keyKcv key ≠ kcv then (s, some (failed Status.outOfRange))
      else if 4 ≤ s.keys.slots[p].gens.length + waiting then (s, some (failed Status.busy))
      else ({ s with keys := { s.keys with jobs := s.keys.jobs ++ [.write (refOf h) p key kcv] } }, none)
    if mode = 0 then
      if h.part = 0 && onCan && !s.keys.slots[0].present then accept wrapped else (s, some (failed Status.denied))
    else if mode = 1 then
      match s.currentKey h.part with
      | none => (s, some (failed Status.keyAbsent))
      | some (_, k) => accept (xorBytes wrapped (wrapPad k target h.cmdId))
    else (s, some (failed Status.outOfRange))

/-- KEY_WRITE (R335, R336). -/
def execKeyWrite (h : Header) (target mode : Byte) (wrapped : List Byte) (kcv : Word) (s : State) : Outcome :=
  darem (.keyWrite h target mode wrapped kcv) h
    { op := 0x73, layout := wrapped.length = 32, allowed := mayKey h.part target, durable := true }
    ([target, mode] ++ wrapped ++ le 4 kcv) (runKeyWrite h target mode wrapped kcv) s

def runKeyErase (c : CmdRef) (target : Byte) : Run := fun s =>
  match (fin target.toNat : Option (Fin 32)) with
  | none => (s, some (failed Status.outOfRange))
  | some p => ({ s with keys := { s.keys with jobs := s.keys.jobs ++ [.erase c p] } }, none)

/-- KEY_ERASE (R335). -/
def execKeyErase (h : Header) (target : Byte) (s : State) : Outcome :=
  darem (.keyErase h target) h { op := 0x74, allowed := mayKey h.part target, durable := true } [target] (runKeyErase (refOf h) target) s

/-- Reserved bits of register words are sent as 0 (log 152). -/
def runKeyStatusGet (target : Byte) : Run := fun s =>
  match (fin target.toNat : Option (Fin 32)) with
  | none => (s, some (failed Status.outOfRange))
  | some p =>
    let k := s.keys.slots[p]
    (s, some (done (le 4 (keySlotWord k) ++ le 4 (keyLeaseWord k) ++ le 4 k.kcv ++ le 4 (keyCntWord k))))

/-- KEY_STATUS_GET (Table 17-2). -/
def execKeyStatusGet (h : Header) (target : Byte) (s : State) : Outcome :=
  darem (.keyStatusGet h target) h { op := 0x75, allowed := mayKey h.part target, idem := true } [target] (runKeyStatusGet target) s

/-- Σ MIN with one partition's replaced. -/
def State.sumMin (s : State) (p : Fin 32) (n : Nat) : Nat :=
  (List.finRange 32).foldl (fun k q => k + if q = p then n else s.part.quota[q].min) 0

def runPartQuotaSet (part : Byte) (lo hi : Half) (auth : Byte) : Run := fun s =>
  match (fin part.toNat : Option (Fin 32)) with
  | none => (s, some (failed Status.outOfRange))
  | some p =>
    if 1 < auth.toNat || 256 < s.sumMin p lo.toNat || hi.toNat < lo.toNat || hi.toNat < 1 || 256 < hi.toNat ||
        (p = 0 && lo.toNat < 4) then (s, some (failed Status.outOfRange))
    else if auth = 1 && !s.keys.slots[p].present then (s, some (failed Status.notReady))
    else
      let q : Quota := { min := lo.toNat, max := hi.toNat, auth := auth = 1 }
      (({ s with part := { s.part with quota := s.part.quota.set p q } }).tableRecord, some (done []))

/-- PART_QUOTA_SET (R325, R332). -/
def execPartQuotaSet (h : Header) (part : Byte) (min max : Half) (auth : Byte) (s : State) : Outcome :=
  darem (.partQuotaSet h part min max auth) h { op := 0x76, allowed := h.part == 0, durable := true }
    ([part] ++ le 2 min ++ le 2 max ++ [auth]) (runPartQuotaSet part min max auth) s

end Sys2Proof.Machine
end

