-- ==== Sys2Proof/Machine/Sash.lean ====
section
/-!
DEFINITION. The sensor sash: presence, identity, bias and the life record (04).
-/
namespace Sys2Proof.Machine

def typeD : Word := 0x5A536444
def typeB : Word := 0x5A536442

def Sash.type (x : Sash) : Word := rd 32 x.ident 0 4
def Sash.serial (x : Sash) : Word := rd 32 x.ident 4 4
def Sash.groups (x : Sash) : Byte := rd 8 x.ident 11 1
def Sash.vmax (x : Sash) : Half := rd 16 x.ident 12 2

/-- The identity is known: STATE is PRESENT or TYPE_MISMATCH. -/
def Sash.mated (x : Sash) : Bool := x.state == .present || x.state == .mismatch

/-- SASH_EXPECT accepts the type (R76). -/
def Sash.accepts (x : Sash) : Bool := if x.expect = 0 then x.type = typeD || x.type = typeB else x.type = x.expect

/-- An identity block with a good CRC-32 (Table 4-3). -/
def identOk (ident : List Byte) : Bool := ident.length == 64 && rd 32 ident 0x3C 4 == crc32 (ident.take 0x3C)

/-- A life page with a valid CRC and commit mark (Table 4-4). -/
def pageOk (page : List Byte) : Bool :=
  page.length == 64 && rd 32 page 0x38 4 == crc32 (page.take 0x38) && rd 32 page 0x3C 4 == 0xC3A55A3C

def State.onSash (s : State) (f : Sash → Sash) : State := { s with sash := f s.sash }

/-- Bias is on (R77). -/
def State.biasOn (s : State) : Bool := s.isOn domSB && s.sash.setpoint.toList.any (· ≠ 0)

/-- The conditions of R77 for turning PD_SB on, but for the owner. -/
def Sash.biasReady (x : Sash) : Bool := x.state == .present && x.groups == 4

/-! ### Life record (R80 to R85) -/

/-- The next live page after the current one. Without a current page it is the lowest live one (log 182). -/
def Sash.nextPage (x : Sash) (after : Option (Fin 8)) : Option (Fin 8) :=
  let from0 := match after with | some p => p.val + 1 | none => 0
  ((List.range 8).map fun k => (from0 + k) % 8).findSome? fun k => if testBit x.retired k then none else fin k

/-- WRITES of a page's next record. -/
def Sash.nextWrites (x : Sash) (p : Fin 8) : BitVec 20 := x.pageWrites[p] + 1

/-- The bytes 0x00 to 0x3B of the record that goes to page `p` (Table 4-4). The millionth record of a page carries the
page's own bit in RETIRED_MAP (R82). -/
def Sash.nextRecord (x : Sash) (p : Fin 8) : List Byte :=
  let n := x.nextWrites p
  let map := if 1000000 ≤ n.toNat then setBit x.retired p.val else x.retired
  let body := le 4 (x.seq + 1) ++ le 4 (field n 0) ++ le 2 x.matings ++ le 2 x.peakT ++ le 4 x.biasS ++ le 4 x.charge ++ [map] ++
    List.replicate 35 0
  body ++ le 4 (crc32 body)

/-- A write starts with the values of this moment, on the next live page after the current one or, as a repeat, after the
page that failed (R81, R82, R85, log 125). -/
def Sash.startWrite (x : Sash) : Sash :=
  match x.nextPage (x.failedAt <|> x.page) with
  | some p => { x with due := false, again := x.failedAt.isSome, failedAt := none, writing := some p, record := x.nextRecord p }
  | none => { x with due := false, failedAt := none }

/-- A life write is due: it starts, or waits for the one under way, the bar of R62 or the keeper (R80, R85). Occasions
that fall due while one waits make one write (log 157). -/
def State.lifeWrite (s : State) : State :=
  let x := s.sash
  if x.frozen || !x.mated then s
  else if s.pwr.nvwDefer || !s.serves || x.writing.isSome then s.onSash fun x => { x with due := true }
  else s.onSash Sash.startWrite

/-- A page is retired; with the last one the record freezes (R82, R83). -/
def State.retirePage (s : State) (p : Fin 8) : State :=
  let s := s.onSash fun x => { x with retired := setBit x.retired p.val }
  if s.sash.retired = 0xFF && !s.sash.frozen then
    (s.onSash fun x => { x with frozen := true, writing := none, due := false, failedAt := none }).raise { ev := .sashLifeFrozen, part := (s.ownOf 0xC0).owner, marks := [pageMark p] }
  else s

/-- A change of bias from on to off is written (R80). -/
def State.biasEdge (s : State) (before : Bool) : State := if before && !s.biasOn then s.lifeWrite else s

/-- The page that holds the current record: valid, with the highest SEQ (R81). -/
def currentPage (pages : List (List Byte)) : Option (Fin 8) :=
  (List.finRange 8).foldl (fun best p =>
    let pg := pages.getD p.val []
    if pageOk pg then
      match best with
      | some (b : Fin 8) => if (rd 32 (pages.getD b.val []) 0 4).toNat < (rd 32 pg 0 4).toNat then some p else best
      | none => some p
    else best) none

/-- READING reads all eight pages (R81). For a sash that has not been ABSENT since its pages were last read, counters and
PEAK_T only rise, and what verification has found stands: failures, retirements that no record carries yet, and FROZEN (R80,
R82, R83, log 27). A sash that was ABSENT starts its remainders, and one without a valid page its record, from zero; WRITES
of a page without a valid copy starts from 0 (log 158). -/
def Sash.readPages (x : Sash) (pages : List (List Byte)) : Sash :=
  let page := currentPage pages
  let pg := match page with | some p => pages.getD p.val [] | none => []
  let keep := !x.unread
  let up {n : Nat} (old new : BitVec n) : BitVec n := if keep && new.toNat < old.toNat then old else new
  let peak : Half := rd 16 pg 10 2
  let retired := rd 8 pg 20 1 ||| if keep then x.retired else 0
  { x with
    unread := false, page := page, seq := rd 32 pg 0 4, retired := retired, frozen := retired = 0xFF
    failed := if keep then x.failed else 0
    biasMs := if keep then x.biasMs else 0, chargeNc := if keep then x.chargeNc else 0
    pages := Vector.ofFn fun p => pages.getD p.val []
    matings := up x.matings (rd 16 pg 8 2), biasS := up x.biasS (rd 32 pg 12 4), charge := up x.charge (rd 32 pg 16 4)
    peakT := if keep && peak.toInt < x.peakT.toInt then x.peakT else peak
    pageWrites := Vector.ofFn fun p =>
      let q := pages.getD p.val []
      up x.pageWrites[p] (if pageOk q then rd 20 q 4 4 else 0) }

/-- READING of a sash whose NVM does not respond: one that has been ABSENT has shown no page, so it starts from zero. -/
def Sash.noPages (x : Sash) : Sash := if x.unread then { x.readPages [] with unread := true } else x

/-! ### State changes (R73, R76, R79) -/

/-- The generator is off: outputs are discharged and draw no current (R79, R87). -/
def Sash.noBias (x : Sash) : Sash := { x with out := Vector.replicate 4 0, current := Vector.replicate 4 0, settled := true }

/-- Bias shutdown (R79): setpoints 0, outputs discharged, and PD_SB, unless it is OFF already, to OFF with the keeper's
table in the same step, also while the keeper is down (log 161). -/
def State.biasShutdown (s : State) : State :=
  let on := s.biasOn
  let s := s.onSash fun x => { x.noBias with setpoint := Vector.replicate 4 0, biasWasOn := x.biasWasOn || on }
  let d := s.dom domSB
  if d.state = .tripped || (d.state = .off && !d.wantOn) then s
  else
    let s := s.onDom domSB fun d => { d with
      state := .off, wantOn := false, wantOff := false, good := false, isolated := true, switchOpen := true }
    ({ s with pwr := { s.pwr with req := clearBit s.pwr.req 31 } }).settleServed

/-- The owner of the sash's resource. All events of the sash go to it (log 183). -/
def State.sashOwner (s : State) : Fin 32 := (s.ownOf 0xC0).owner

/-- Entry to ABSENT from another state raises SASH_REMOVED, with BIAS_WAS_ON when a shutdown preceded it. What the life
registers show stays (log 181). -/
def State.sashAbsent (s : State) : State :=
  let was := s.sash.biasWasOn
  let s := s.onSash fun x => { x with
    state := .absent, wasAbsent := true, unread := true, biasWasOn := false, limitRaised := false, writing := none, due := false, failedAt := none }
  s.raise { ev := .sashRemoved, part := s.sashOwner, flags := if was then 4 else 0 }

/-- Entry to ID_FAULT. Detector 0x1C3 is the identity read's; an entry from ABSENT has no detector (log 126). -/
def State.sashFault (s : State) (fromAbsent injected : Bool) : State :=
  (s.onSash fun x => { x with state := .idFault, faultFromAbsent := fromAbsent }).raise {
    ev := .sashIdFault, det := if fromAbsent then 0 else 0x1C3, part := s.sashOwner, injected := injected }

/-- Entry to PRESENT: a mating counts if the sash was ABSENT since the last one, and is written (R80, R84). -/
def State.sashPresent (s : State) : State :=
  let s := (s.onSash fun x => { x with state := .present, biasWasOn := false }).raise { ev := .sashPresent, part := s.sashOwner }
  if s.sash.wasAbsent then
    let s := s.onSash fun x => { x with wasAbsent := false, matings := satInc x.matings }
    let s := s.lifeWrite
    if 500 ≤ s.sash.matings.toNat && !s.sash.limitRaised then
      (s.onSash fun x => { x with limitRaised := true }).raise { ev := .sashMatingLimit, part := s.sashOwner }
    else s
  else s

/-- The sash is PRESENT or TYPE_MISMATCH by SASH_EXPECT. -/
def State.sashJudge (s : State) : State :=
  if s.sash.accepts then s.sashPresent
  else (s.onSash fun x => { x with state := .mismatch }).raise { ev := .sashTypeMismatch, part := s.sashOwner }

/-- SASH_EXPECT is written: PRESENT and TYPE_MISMATCH are judged again, and leaving PRESENT shuts bias down (R76). -/
def State.expect (s : State) (t : Word) : State :=
  let s := s.onSash fun x => { x with expect := t }
  if s.sash.state = .present && !s.sash.accepts then
    let on := s.biasOn
    let s := s.sashJudge.biasShutdown
    (if on then s.lifeWrite else s).onSash fun x => { x with biasWasOn := false }
  else if s.sash.state = .mismatch && s.sash.accepts then s.sashJudge
  else s

/-- New targets are taken (R78). -/
def State.setBias (s : State) (f : Sash → Sash) : State :=
  let on := s.biasOn
  (s.onSash fun x => { f x with settled := false }).biasEdge on

/-! ### Registers (Table 4-6) -/

inductive SashReg where
  | status
  | events
  | expect
  | type
  | serial
  | biasSet (g : Fin 4)
  | ramp
  | biasMon (g : Fin 4)
  | matings
  | biasS
  | charge
  | peakT
  | page (p : Fin 8)
deriving DecidableEq, Repr

def sashStateCode : SashState → Nat
  | .absent => 0
  | .partialMate => 1
  | .reading => 2
  | .present => 3
  | .idFault => 4
  | .mismatch => 5

def sashStatus (s : State) : Word :=
  let x := s.sash
  BitVec.ofNat 32 (sashStateCode x.state) ||| flag x.pinL 4 ||| flag x.pinS 5 ||| flag s.biasOn 6 ||| flag x.frozen 7 ||| field x.retired 8

def expectOk (t : Word) : Bool := t = 0 || t = typeD || t = typeB

/-- Accesses of the SASH block (Table 4-6); only P0 clears SASH_EVENTS (log 184). -/
def sashAccess (p : Fin 32) (r : SashReg) (s : State) : Access :=
  let x := s.sash
  let own := s.owns p 0xC0
  let off : Option Byte := if s.isOn domSB then none else some Status.notReady
  match r with
  | .status => roReg (sashStatus s) 0xFFF7
  | .events => w1cReg (p == 0) x.events 0x7F .sash 0
  | .expect => rwReg x.expect 0xFFFFFFFF (p == 0) (range := expectOk) fun v s => s.expect v
  | .type => roReg x.type
  | .serial => roReg x.serial
  | .biasSet g =>
    { val := field x.setpoint[g] 0, mask := 0xFFF, writable := true, who := fun _ => own, doms := fun _ => [domSB]
      range := fun v => (bits v 0 12).toNat ≤ x.vmax.toNat
      rule := fun _ _ => off
      act := fun _ v s => s.setBias fun x => { x with setpoint := x.setpoint.set g (bits v 0 12) } }
  -- The rate may be written whatever PD_SB's state (log 128).
  | .ramp =>
    { val := field x.rate 0, mask := 0xFF, writable := true, who := fun _ => own, doms := fun _ => [domSB]
      range := fun v => 1 ≤ (bits v 0 8).toNat && (bits v 0 8).toNat ≤ 100
      act := fun _ v s => s.onSash fun x => { x with rate := bits v 0 8 } }
  | .biasMon g => roReg (BitVec.ofNat 32 (x.out[g] / 25 % 4096) ||| field x.current[g] 16) 0x0FFF0FFF
  | .matings => roReg (field x.matings 0) 0xFFFF
  | .biasS => roReg x.biasS
  | .charge => roReg x.charge
  | .peakT => roReg (field x.peakT 0) 0xFFFF
  | .page q => roReg (field x.pageWrites[q] 0) 0xFFFFF

/-! ### Meanings: moments -/

/-- SASH_PIN_CHANGE (R73, R79). A write under way tears; one that is due stays due until the sash is ABSENT (R85). A
shutdown by either pin is not written (R80; for SPRES_L alone: log 156). -/
def execSashPinChange (l sp : Bool) (s : State) : Outcome :=
  whenHw s fun s =>
    let x := s.sash
    let opens := (x.pinL && !l) || (x.pinS && !sp)
    let s := s.onSash fun x => { x with pinL := l, pinS := sp }
    let s := if opens then s.biasShutdown else s
    let torn (s : State) : State := s.onSash fun x => { x with state := .partialMate, writing := none }
    match x.state with
    | .absent => if l || sp then torn s else s
    | .partialMate => if l || sp then s else s.sashAbsent
    | .idFault =>
      if x.faultFromAbsent then (if l || sp then torn s else s)
      else if opens then (if l || sp then torn s else s.sashAbsent) else s
    | _ => if opens then (if l || sp then torn s else s.sashAbsent) else s

/-- SASH_MATE_TIMER (R73): both pins closed for 20 ms. -/
def execSashMateTimer (s : State) : Outcome :=
  whenHw s fun s =>
    if s.sash.state = .partialMate && s.sash.pinL && s.sash.pinS then s.onSash fun x => { x with state := .reading } else s

/-- The identity and the pages as read. -/
def State.readIdentity (s : State) (ident : List Byte) (pages : List (List Byte)) : State :=
  (s.onSash fun x => { (x.readPages pages) with ident := ident }).sashJudge

/-- SASH_IDENTITY_READ (R73, R75, R81): the pages are read whatever the identity shows. -/
def execSashIdentityRead (ack : Bool) (ident : List Byte) (pages : List (List Byte)) (real : Bool) (s : State) : Outcome :=
  whenKpr s fun s =>
    if s.sash.state = .reading then
      let (bad, injected, s) := s.check 0x1C3 0 (!ack || !identOk ident || real)
      if bad then (s.onSash fun x => if ack then x.readPages pages else x.noPages).sashFault false injected
      else s.readIdentity ident pages
    else s

/-- SASH_ABSENT_PROBE (R73): 0x50 is addressed with both pins open. -/
def execSashAbsentProbe (ack : Bool) (s : State) : Outcome :=
  whenKpr s fun s =>
    if s.sash.state = .absent && ack then s.sashFault true false
    else if s.sash.state = .idFault && s.sash.faultFromAbsent && !ack then s.sashAbsent
    else s

/-- SASH_ID_RETRY (R74): a read that succeeds goes through READING. -/
def execSashIdRetry (ack : Bool) (ident : List Byte) (pages : List (List Byte)) (s : State) : Outcome :=
  whenKpr s fun s =>
    if s.sash.state = .idFault && !s.sash.faultFromAbsent then
      let (bad, _, s) := s.check 0x1C3 0 (!ack || !identOk ident)
      if bad then s else s.readIdentity ident pages
    else s

/-- One output moves towards its target by `step` mV. -/
def ramped (out target step : Nat) : Nat :=
  if out < target then min target (out + step) else max target (out - step)

/-- One millisecond of bias: time and charge (R80). -/
def Sash.integrate (x : Sash) : Sash :=
  let ms := x.biasMs + 1
  let nc := x.chargeNc + x.current.toList.foldl (fun n i => n + i.toNat) 0
  { x with
    biasMs := ms % 1000, biasS := satAdd x.biasS (ms / 1000)
    chargeNc := nc % 1000000, charge := satAdd x.charge (nc / 1000000) }

/-- BIAS_RAMP_STEP (R78, R80): every 1 ms; the currents are measured. Time and charge count while bias is on (log 127). -/
def execBiasRampStep (current : List Half) (s : State) : Outcome :=
  whenHw s fun s =>
    if s.isOn domSB then
      let on := s.biasOn
      let s := s.onSash fun x => { x with
        out := Vector.ofFn fun g => ramped x.out[g] (25 * x.setpoint[g].toNat) x.rate.toNat
        current := Vector.ofFn fun g => bits (current.getD g.val 0) 0 12 }
      let s := if on then s.onSash Sash.integrate else s
      let there := (List.finRange 4).all fun g =>
        s.sash.out[g] ≤ 25 * s.sash.setpoint[g].toNat + 50 && 25 * s.sash.setpoint[g].toNat ≤ s.sash.out[g] + 50
      if there && !s.sash.settled then
        (s.onSash fun x => { x with settled := true }).raise { ev := .sashBiasSettled, part := s.sashOwner }
      else s
    else s

/-- LIFE_PERIOD_EXPIRY (R80): 600 s of bias. -/
def execLifePeriodExpiry (s : State) : Outcome := whenKpr s fun s => if s.biasOn then s.lifeWrite else s

/-- A failed write: its page is retired at the second failure in succession, and the write is repeated once on the next
live page, under the bar of R62 as any write (R82, R85). It does not count in the page's WRITES (log 159). -/
def State.lifeFailed (s : State) (p : Fin 8) : State :=
  let again := s.sash.again
  let twice := testBit s.sash.failed p.val
  let s := s.onSash fun x => { x with failed := setBit x.failed p.val, writing := none, again := false }
  let s := if twice then s.retirePage p else s
  if again || s.sash.frozen then s else (s.onSash fun x => { x with failedAt := some p }).lifeWrite

/-- A committed write: the commit mark follows the record (R81). -/
def State.lifeCommitted (s : State) (p : Fin 8) : State :=
  let n := s.sash.nextWrites p
  let s := s.onSash fun x => { x with
    writing := none, again := false, page := some p, seq := x.seq + 1, failed := clearBit x.failed p.val
    pageWrites := x.pageWrites.set p n, pages := x.pages.set p (x.record ++ le 4 (0xC3A55A3C : Word)) }
  let s := s.normal (pageMark p)
  if 1000000 ≤ n.toNat then s.retirePage p else s

/-- LIFE_PAGE_VERIFY (R81, R82). -/
def execLifePageVerify (ok : Bool) (s : State) : Outcome :=
  whenKpr s fun s =>
    match s.sash.writing with
    | none => s
    | some p =>
      let (bad, injected, s) := s.check 0x1C2 (BitVec.ofNat 8 p.val) (!ok)
      let s := if bad then (s.carry (pageMark p) injected).lifeFailed p else s.lifeCommitted p
      if s.sash.due && s.sash.writing.isNone then s.lifeWrite else s

/-- LIFE_WRITE_RESUME (R85). -/
def execLifeWriteResume (s : State) : Outcome :=
  whenKpr s fun s => if s.sash.due && !s.pwr.nvwDefer && s.sash.writing.isNone then s.lifeWrite else s

/-- PEAK_T_SAMPLE (R82): a sensor that does not respond leaves PEAK_T. A sample counts once the sash is mated, in PRESENT
or TYPE_MISMATCH (log 160). -/
def execPeakTSample (t : Option Half) (s : State) : Outcome :=
  whenKpr s fun s =>
    match t with
    | some t => if s.sash.mated && s.sash.peakT.toInt < t.toInt then s.onSash fun x => { x with peakT := t } else s
    | none => s

/-! ### Meanings: commands (Table 4-5) -/

/-- Reserved bits of register words are sent as 0 (log 152). -/
def runSashInfoGet : Run := fun s =>
  if s.sash.mated then (s, some (done (le 4 (sashStatus s) ++ s.sash.ident))) else (s, some (failed Status.notReady))

/-- SASH_INFO_GET (R86). -/
def execSashInfoGet (h : Header) (s : State) : Outcome := darem (.sashInfoGet h) h { op := 0x90, idem := true } [] runSashInfoGet s

def runSashExpectSet (t : Word) : Run := fun s =>
  if expectOk t then (s.expect t, some (done [])) else (s, some (failed Status.outOfRange))

/-- SASH_EXPECT_SET (R76). -/
def execSashExpectSet (h : Header) (t : Word) (s : State) : Outcome :=
  darem (.sashExpectSet h t) h { op := 0x91, allowed := h.part == 0 } (le 4 t) (runSashExpectSet t) s

def runSashBiasSet (g0 g1 g2 g3 : Half) (rate : Byte) : Run := fun s =>
  if s.isSuspect domSB then (s, some (failed Status.hwMismatch))
  else if !s.isOn domSB then (s, some (failed Status.notReady))
  else if [g0, g1, g2, g3].any (fun g => s.sash.vmax.toNat < g.toNat || 4095 < g.toNat) || rate.toNat < 1 || 100 < rate.toNat then
    (s, some (failed Status.outOfRange))
  else
    (s.setBias fun x => { x with setpoint := #v[bits g0 0 12, bits g1 0 12, bits g2 0 12, bits g3 0 12], rate := rate }, some (done []))

/-- SASH_BIAS_SET (R78). -/
def execSashBiasSet (h : Header) (g0 g1 g2 g3 : Half) (rate : Byte) (s : State) : Outcome :=
  darem (.sashBiasSet h g0 g1 g2 g3 rate) h { op := 0x92, allowed := s.owns h.part 0xC0, codes := [0xC0] }
    (le 2 g0 ++ le 2 g1 ++ le 2 g2 ++ le 2 g3 ++ [rate]) (runSashBiasSet g0 g1 g2 g3 rate) s

/-- FROZEN and RETIRED_MAP are one byte each (log 180); reserved bits are 0 (log 152). -/
def runSashLifeGet : Run := fun s =>
  let x := s.sash
  if x.state = .absent then (s, some (failed Status.notReady))
  else
    let regs := le 4 (field x.matings 0) ++ le 4 x.biasS ++ le 4 x.charge ++ le 4 (field x.peakT 0)
    let pages := x.pageWrites.toList.flatMap fun w => le 4 (field w 0)
    (s, some (done (regs ++ [if x.frozen then 1 else 0, x.retired] ++ pages)))

/-- SASH_LIFE_GET (R86). -/
def execSashLifeGet (h : Header) (s : State) : Outcome := darem (.sashLifeGet h) h { op := 0x93, idem := true } [] runSashLifeGet s

end Sys2Proof.Machine
end

