-- ==== Sys2Proof/Machine/CanBus.lean ====
section
/-!
DEFINITION. The slow-control bus: frames, reassembly, transmission, announces, discovery, errors (18), and the strap
sampler that latches the node address (R41 to R45).
-/
namespace Sys2Proof.Machine

/-! ### Announces (R348) -/

/-- The announce body (Table 18-3). -/
def State.announceBody (s : State) (reset : Bool) : List Byte :=
  let flags := (flag s.node.valid 0 ||| flag s.clk.freewheel 1 ||| flag s.can.alone 2 ||| flag s.can.dup 3 ||| flag reset 4 |||
    flag s.pwr.held 5)
  le 2 s.node.addr ++ [bits flags 0 8, BitVec.ofNat 8 s.fw.active.val] ++ le 4 (0x5A546432 : Word) ++ le 8 Config.dieId ++
    le 4 Config.serial ++ List.replicate 4 0

/-- An announce as it is sent: one frame without a segment header. -/
def State.announcement (s : State) (reset : Bool) : CanPacket := { id := canId 5 s.canGa 0, raw := true, bytes := s.announceBody reset }

/-- Queue an announce; like a response it waits for room. -/
def State.announce (s : State) (reset : Bool) : State :=
  let p := s.announcement reset
  if s.can.txq.length < 8 then { s with can := { s.can with txq := s.can.txq ++ [p] } }
  else { s with can := { s.can with waiting := s.can.waiting ++ [p] } }

/-- The announce that ends a keeper boot; a further one is due if the address latches later. -/
def State.bootAnnounce (s : State) (reset : Bool) : State :=
  let s := { s with can := { s.can with resetFlag := reset, announceAtLatch := s.node.sampling } }
  s.announce reset

def State.onCan (s : State) (f : Can → Can) : State := { s with can := f s.can }

/-! ### Errors (R351, R352; ISO 11898-1 error counting is PRESUMED, log 28) -/

/-- Error-passive and bus-off by the counters. -/
def Can.judge (c : Can) : Can :=
  let off := 255 < c.tec
  { c with
    errPassive := 127 < c.tec || 127 < c.recErr, busOff := c.busOff || off
    busOffs := if off && !c.busOff then c.busOffs + 1 else c.busOffs }

/-- A transmitted frame was acknowledged: TEC falls, ALONE clears (R352). -/
def State.canAcked (s : State) : State :=
  let s := { s with can := Can.judge { s.can with tec := s.can.tec - 1, txFrames := satInc s.can.txFrames, attempts := 0 } }
  if s.can.alone then ({ s with can := { s.can with alone := false } }).raise { ev := .canJoined } else s

/-- A transmission attempt failed; an acknowledgement error while error-passive does not raise TEC. -/
def State.canFailed (s : State) (ackError : Bool) : State :=
  { s with can := Can.judge { s.can with tec := if ackError && s.can.errPassive then s.can.tec else s.can.tec + 8 } }

/-- The controller takes part in bus traffic. -/
def State.canOn (s : State) : Bool := s.kpr && s.can.enNow && !s.can.busOff

/-- Frames of a queued packet (R345). -/
def CanPacket.frames (p : CanPacket) : Nat := if p.raw then 1 else (p.bytes.length + 62) / 63

/-- The smallest CAN FD data length that holds `n` bytes. -/
def fdLength (n : Nat) : Nat := if n ≤ 8 then n else ([12, 16, 20, 24, 32, 48].find? (n ≤ ·)).getD 64

/-- Data of frame `i` of a packet: FIRST, LAST and INDEX, up to 63 packet bytes, and zeros (R345). -/
def CanPacket.data (p : CanPacket) (i : Nat) : List Byte :=
  let own := if p.raw then p.bytes else
    (flag (i = 0) 7 ||| flag (i + 1 = p.frames) 6 ||| BitVec.ofNat 32 i).setWidth 8 :: (p.bytes.drop (63 * i)).take 63
  padTo (fdLength own.length) own

/-- A frame that starts now carries BRS (R341). -/
def State.brsStart (s : State) : Bool := s.can.brsNow && !s.clk.freewheel

/-- The frame under transmission carries BRS, by the test made at its start; with none, as a frame that starts now. -/
def State.brs (s : State) : Bool := s.can.started.getD s.brsStart

/-- The packet under transmission: the head of the queue; while DUP is set the first announce (R350), and none while ALONE
is set, when only single-shot announces go out (R351). -/
def State.canHead (s : State) : Option CanPacket :=
  if s.can.alone then none
  else if s.can.dup then s.can.txq.find? (·.raw) <|> s.can.waiting.find? (·.raw)
  else s.can.txq.head?

/-- The clock is about to change: a frame under transmission keeps the BRS of its start (R341). -/
def State.holdBrs (s : State) : State :=
  if s.canOn && s.canHead.isSome && s.can.started.isNone then s.onCan fun c => { c with started := some s.brsStart } else s

/-- A packet as it goes out: an announce has the body of this moment, with the RESET bit that it was queued with. -/
def State.fresh (s : State) (p : CanPacket) : CanPacket := if p.raw then s.announcement (testBit (p.bytes.getD 2 0) 4) else p

/-- A frame of a packet goes out. -/
def State.canSends (s : State) (p : CanPacket) (i : Nat) : State :=
  { s with can := { s.can with sent := some ((s.fresh p).id, s.brs, (s.fresh p).data i), started := none } }

/-- Waiting responses take the room in the queue (R347). -/
def State.canRefill (s : State) : State :=
  let room := 8 - s.can.txq.length
  { s with can := { s.can with txq := s.can.txq ++ s.can.waiting.take room, waiting := s.can.waiting.drop room } }

/-! ### Reception (R343 to R346, R350) -/

def segFirst (b : Byte) : Bool := testBit b 7
def segLast (b : Byte) : Bool := testBit b 6
def segIndex (b : Byte) : Nat := (bits b 0 4).toNat

/-- A packet's length from PLEN, with its MAC. -/
def packetLength (bs : List Byte) : Nat := 20 + (rd 16 bs 16 2).toNat + if testBit (bs.getD 6 0) 0 then 16 else 0

def State.segErr (s : State) : State := { s with can := { s.can with segErr := satInc s.can.segErr } }

/-- Another module with this module's GA: DUP is set (R350). -/
def State.sawNode (s : State) (node : Half) (die : BitVec 49) : State :=
  if die ≠ Config.dieId then
    ({ s with can := { s.can with dup := true } }).raise { ev := .canAddrDup, args := le 2 node ++ le 8 die }
  else s

/-- A DISCOVER or ID_GET body that starts at byte `i` names its sender's NODE and DIE_ID. -/
def State.sawBody (s : State) (op : Byte) (bs : List Byte) (i : Nat) : State :=
  if op = 0x02 && i + 24 ≤ bs.length then s.sawNode (rd 16 bs i 2) (rd 49 bs (i + 8) 8)
  else if op = 0x01 && i + 34 ≤ bs.length then s.sawNode (rd 16 bs (i + 20) 2) (rd 49 bs (i + 6) 8)
  else s

/-- A response carries its sender's NODE and DIE_ID if it is of DISCOVER or ID_GET with outcome DONE, sent once or again
as REREAD, whose body has the outcome's STATUS first (Table 16-3). -/
def State.sawResponse (s : State) (bs : List Byte) : State :=
  if bs.getD 7 0 = Status.done then s.sawBody (bs.getD 5 0) bs 20
  else if bs.getD 7 0 = Status.reread && bs.getD 20 1 = Status.done then s.sawBody (bs.getD 5 0) bs 21
  else s

/-- A packet is complete: a command waits for the keeper, a response is examined. -/
def State.canPacket (s : State) (id : BitVec 11) (bs : List Byte) : State :=
  let bs := bs.take (packetLength bs)
  if bits id 8 3 = 2 then { s with keeperIn := s.keeperIn ++ [(.can (bits id 0 2).toFin, bs, false)] }
  else s.sawResponse bs

/-- A frame with a segment header (R345, R346). -/
def State.canSegment (s : State) (id : BitVec 11) (hd : Byte) (bs : List Byte) : State :=
  let old := s.can.rx.find? fun x => x.id = id
  let rest := s.can.rx.filter fun x => x.id ≠ id
  let keep (s : State) (x : CanPart) : State :=
    if segLast hd then ({ s with can := { s.can with rx := rest } }).canPacket id x.bytes
    else { s with can := { s.can with rx := rest ++ [x] } }
  if segFirst hd then keep (if old.isSome then s.segErr else s) { id := id, index := segIndex hd, bytes := bs }
  else match old with
    | none => s
    | some x =>
      if segIndex hd = x.index + 1 then keep s { x with index := x.index + 1, bytes := x.bytes ++ bs }
      else ({ s with can := { s.can with rx := rest } }).segErr

/-- A response or an announce with this module's latched GA. -/
def State.ownGa (s : State) (id : BitVec 11) : Bool := s.node.valid && bits id 2 6 == s.canGa

/-- Receive errors of the controller: REC rises by one for each (log 28). -/
def State.canRecErrors (s : State) (n : Nat) : State := { s with can := Can.judge { s.can with recErr := s.can.recErr + n } }

/-- A frame was received: REC falls by one, and from above 127 it returns to 127 (log 28). -/
def Can.heard (c : Can) : Can := Can.judge { c with recErr := if 127 < c.recErr then 127 else c.recErr - 1 }

/-- A frame is received without an error (R343 to R346, R350 to R352). One of this module's that waited starts anew after it
(R341). -/
def State.canHears (s : State) (id : BitVec 11) (data : List Byte) : State :=
  let s := if s.can.alone then ({ s with can := { s.can with alone := false } }).raise { ev := .canJoined } else s
  let cls := (bits id 8 3).toNat
  let s := s.onCan fun c => { c.heard with started := none }
  if cls = 0 || cls = 4 || cls = 6 || cls = 7 then s
  else
    let s := { s with can := { s.can with rxFrames := satInc s.can.rxFrames } }
    if s.can.dup then s
    else match cls, data with
      | 2, hd :: bs => if bits id 2 6 = 0x3F || s.ownGa id then s.canSegment id hd bs else s
      | 1, hd :: bs => if s.ownGa id then s.canSegment id hd bs else s
      | 5, bs => if s.ownGa id && 24 ≤ bs.length then s.sawNode (rd 16 bs 0 2) (rd 49 bs 8 8) else s
      | _, _ => s

/-- CAN_FRAME_RECEIVE (R343 to R346, R350 to R352): `errors` receive errors, and after them a frame without one, if any
(log 28). -/
def execCanFrameReceive (frame : Option (BitVec 11 × List Byte)) (errors : Nat) (s : State) : Outcome :=
  .next (
    if !s.canOn then s
    else match frame with
      | some x => (s.canRecErrors errors).canHears x.1 x.2
      | none => s.canRecErrors errors)

/-- CAN_REASSEMBLY_TIMEOUT (R346): 10 ms without the next frame. -/
def execCanReassemblyTimeout (id : BitVec 11) (s : State) : Outcome :=
  whenRom s fun s =>
    if s.can.rx.any (fun x => x.id = id) then
      ({ s with can := { s.can with rx := s.can.rx.filter fun x => x.id ≠ id } }).segErr
    else s

/-! ### Transmission (R345, R347, R351) -/

/-- CAN_FRAME_SENT (R345, R352): the frame under transmission is acknowledged; while DUP is set only announces go out. -/
def execCanFrameSent (s : State) : Outcome :=
  .next (
    if !s.canOn then s
    else if s.can.dup && !s.can.alone then
      match s.can.txq.find? (·.raw), s.can.waiting.find? (·.raw) with
      | some p, _ => ((s.canSends p 0).onCan fun c => { c with txq := c.txq.erase p, frame := 0 }).canRefill.canAcked
      | none, some p => ((s.canSends p 0).onCan fun c => { c with waiting := c.waiting.erase p }).canAcked
      | none, none => s
    else if s.can.alone then s
    else match s.can.txq with
      | [] => s
      | p :: rest =>
        let s := s.canSends p s.can.frame
        let s := if s.can.frame + 1 < p.frames then { s with can := { s.can with frame := s.can.frame + 1 } }
          else ({ s with can := { s.can with txq := rest, frame := 0 } }).canRefill
        s.canAcked)

/-- CAN_TRANSMIT_ERROR (R351): the attempt failed and is repeated, as a frame that starts anew; bus-off past a TEC of
255. While ALONE is set the attempt is a single-shot announce, which is not repeated. -/
def execCanTransmitError (ackError : Bool) (s : State) : Outcome :=
  .next (
    if s.canOn && s.can.alone then s.canFailed ackError
    else if s.canOn && s.canHead.isSome then
      ({ s with can := { s.can with attempts := s.can.attempts + 1, started := none } }).canFailed ackError
    else s)

/-- CAN_FRAME_ABANDON (R351): after RETRY_MAX attempts everything queued for the bus is discarded. -/
def execCanFrameAbandon (s : State) : Outcome :=
  .next (
    if s.canOn && s.canHead.isSome && s.can.retryMax.toNat ≤ s.can.attempts then
      let n := s.can.txq.length + s.can.waiting.length
      ({ s with can := { s.can with
        txq := [], waiting := [], frame := 0, attempts := 0, started := none, alone := true, abandoned := satAdd s.can.abandoned n } }).raise { ev := .canAlone }
    else s)

/-- CAN_ALONE_ANNOUNCE (R351): every 100 ms a single-shot announce. -/
def execCanAloneAnnounce (acked : Bool) (s : State) : Outcome :=
  .next (
    if s.canOn && s.can.alone then
      let s := s.canSends (s.announcement false) 0
      if acked then s.canAcked else s.canFailed true
    else s)

/-- CAN_DUP_ANNOUNCE (R350): every second while DUP is set; an ALONE module sends its own announces (R351). -/
def execCanDupAnnounce (s : State) : Outcome :=
  .next (if s.canOn && s.can.dup && !s.can.alone then s.announce false else s)

/-- CAN_BUS_OFF_RECOVERY (R352). -/
def execCanBusOffRecovery (s : State) : Outcome :=
  whenRom s fun s =>
    if s.can.busOff then
      ({ s with can := { s.can with busOff := false, errPassive := false, tec := 0, recErr := 0 } }).raise
        { ev := .canBusOff, args := bytesOf 2 (min 65535 s.can.busOffs) }
    else s

/-- CAN_CTRL_APPLY (R354): between frames EN, TERM and BRS_EN take effect. -/
def execCanCtrlApply (s : State) : Outcome :=
  whenRom s fun s => { s with can := { s.can with enNow := s.can.en, termNow := s.can.term, brsNow := s.can.brsEn, started := none } }

/-! ### Registers (Table 18-4) -/

inductive CanReg where
  | ctrl
  | status
  | err
  | cnt
  | cnt2
  | events
  | clear
deriving DecidableEq, Repr

def clearCan (c : Can) : Can := { c with txFrames := 0, rxFrames := 0, segErr := 0, dropped := 0, abandoned := 0, discarded := 0 }

def canAccess (p : Fin 32) (r : CanReg) (s : State) : Access :=
  let c := s.can
  match r with
  | .ctrl =>
    rwReg (flag c.en 0 ||| flag c.term 1 ||| flag c.brsEn 2 ||| field c.retryMax 8) 0xFF07 (p == 0) (range := fun v => bits v 8 8 ≠ 0)
      fun v s => { s with can := { s.can with en := testBit v 0, term := testBit v 1, brsEn := testBit v 2, retryMax := bits v 8 8 } }
  | .status =>
    roReg (flag c.alone 0 ||| flag c.errPassive 1 ||| flag c.busOff 2 ||| flag c.dup 3 ||| flag s.brs 4) 0x1F
  | .err => roReg (BitVec.ofNat 32 (min 511 c.tec + 65536 * min 511 c.recErr)) 0x01FF01FF
  | .cnt => roReg (field c.txFrames 0 ||| field c.rxFrames 16)
  | .cnt2 => roReg (field c.segErr 0 ||| field c.dropped 8 ||| field c.abandoned 16 ||| field c.discarded 24)
  | .events => w1cReg (p == 0) c.events 0xF .can 0
  | .clear => clearReg (p == 0) fun s => { s with can := clearCan s.can }

/-- CAN_CNT_CLEAR (R402). -/
def execCanCntClear (p : Fin 32) (v : Word) (s : State) : Outcome := whenHw s fun s => s.writeOne p (canAccess p .clear) v

/-- TERM at power-on and warm reset: by GA alone, as the straps show it (R342). -/
def State.termReset (s : State) : Bool := bits s.node.addr 0 6 == 0 || bits s.node.addr 0 6 == 0x3E

/-- TERM takes its reset value. -/
def State.setTerm (s : State) : State := { s with can := { s.can with term := s.termReset, termNow := s.termReset } }

/-! ### Discovery (R348, R349) -/

/-- The cycle at which the delay drawn for R349 has passed: 0 to 15 ms from now. -/
def State.drawDelay (s : State) : Nat × State :=
  (s.ck + 250000 * (Config.randomDelay s.freeCtr % 16), { s with freeCtr := s.freeCtr + 1 })

/-- The delayed response that is due first; of two due together, the one drawn first. -/
def Can.dueFirst (c : Can) : Option (Path × List (List Byte) × Nat) :=
  c.delayed.foldl (fun best x => match best with | some b => if x.2.2 < b.2.2 then some x else best | none => some x) none

def runDiscover (h : Header) : Run := fun s =>
  let r := done (s.announceBody false)
  if h.dest = 0xFFFF && !s.node.valid then
    if h.noresp then (s, none)
    else
      let gen : Half := match s.currentKey h.part with | some k => k.1 | none => 0
      let ps := s.replyPackets h.src h.part 0x02 h.cmdId s.part.epoch h.auth gen true false r
      let (n, s) := s.drawDelay
      ({ s with can := { s.can with delayed := s.can.delayed ++ [(h.path, ps, n)] } }, none)
  else (s, some r)

/-- DISCOVER (R348, R349). -/
def execDiscover (h : Header) (s : State) : Outcome :=
  darem (.discover h) h { op := 0x02, idem := true, always := true } [] (runDiscover h) s

/-- DISCOVER_DELAYED_RESPONSE (R349): the shortest delay of the waiting responses has passed. -/
def execDiscoverDelayedResponse (s : State) : Outcome :=
  whenRom s fun s =>
    match s.can.dueFirst with
    | none => s
    | some x => ({ s with can := { s.can with delayed := s.can.delayed.erase x } }).sendOn x.1 x.2.1

/-! ### The strap sampler (R41 to R45) -/

/-- Valid straps (R42). -/
def strapsOk (ga : BitVec 6) (ca : Byte) : Bool := ga ≠ 0x3F && ca ≠ 0xFF

/-- A node address as the straps spell it (R42). -/
def strapAddr (ga : BitVec 6) (ca : Byte) : Half := ca ++ (0 : BitVec 2) ++ ga

/-- The address latches (R43): DUP clears, TERM follows GA unless the address stays (R342), and an announce that waited for the
latch is sent (R342, R348, R350). MISMATCH stays as it is (log 114), and a latch after VALID 0 changes no address
(log 115). ADDR_CHANGED carries the old address first, and DET 0 (log 178). -/
def State.latchAddr (s : State) (a : Half) : State :=
  let old := s.node.addr
  let had := s.node.valid
  let s := { s with node := { s.node with addr := a, valid := true, sampling := false, differ := 0 }, can := { s.can with dup := false } }
  let s := if had && old = a then s else s.setTerm
  let s := if had && old ≠ a then s.raise { ev := .addrChanged, args := le 2 old ++ le 2 a } else s
  if s.can.announceAtLatch then
    ({ s with can := { s.can with announceAtLatch := false } }).announce s.can.resetFlag
  else s

/-- The straps are invalid or never agreed (R44). -/
def State.noAddr (s : State) (raw : Half) : State :=
  let s := { s with
    node := { s.node with addr := raw, valid := false, sampling := false }
    can := { s.can with announceAtLatch := false } }
  s.setTerm.raise { ev := .addrInvalid }

/-- A reading shows in ADDR while VALID is 0 (Table 2-5, R44). -/
def Node.shows (n : Node) (raw : Half) : Node := if n.valid then n else { n with addr := raw }

/-- STRAP_READING (R43, R44): one of eight readings, 1 ms apart. -/
def execStrapReading (ga : BitVec 6) (ca : Byte) (s : State) : Outcome :=
  whenHw s fun s =>
    let raw := strapAddr ga ca
    let n := s.node.shows raw
    if n.sampling then
      let first := if n.count = 0 then raw else n.first
      let agree := (n.count = 0 || n.agree) && raw = first
      if n.count + 1 < 8 then { s with node := { n with count := n.count + 1, first := first, agree := agree } }
      else
        let s := { s with node := { n with count := 0, first := first, agree := true, sets := if agree then 0 else n.sets + 1 } }
        if agree then (if strapsOk ga ca then s.latchAddr raw else s.noAddr raw)
        else if 16 ≤ n.sets + 1 then s.noAddr raw
        else s
    else s

/-- STRAP_PERIODIC_CHECK (R45): eight readings in a row other than the latched address set MISMATCH; which readings count
and what is reported: log 117. MISMATCH that is cleared while the straps still differ stays clear until they have agreed
once and differ eight times again (log 154). -/
def execStrapPeriodicCheck (ga : BitVec 6) (ca : Byte) (s : State) : Outcome :=
  whenHw s fun s =>
    if s.node.valid && !s.node.sampling then
      let raw := strapAddr ga ca
      let real := raw ≠ s.node.addr
      let (injected, s) := match s.armedOn 0x203 0 with
        | some (j, a) =>
          let s := s.consume j a real
          (!real, if a.left ≤ 1 && !real then s.countDet 0x203 true else s)
        | none => (false, s)
      let n := if real || injected then s.node.differ + 1 else 0
      let s := { s with node := { s.node with differ := n } }
      if n = 8 then
        let s := if real then s.countDet 0x203 false else s
        ({ s with node := { s.node with mismatch := true } }).raise {
          ev := .addrChanged, det := 0x203, injected := injected, args := le 2 s.node.addr ++ le 2 raw }
      else s
    else s

end Sys2Proof.Machine
end

