-- ==== Sys2Proof/Machine/Channel.lean ====
section
/-!
DEFINITION. The reliable channel: flits, windows, acknowledgement and replay, delivery, forwarding and sessions (14).
-/
namespace Sys2Proof.Machine

/-! ### Flits (R259 to R261) -/

/-- A flit's header fields and payload (Table 14-1). -/
structure Flit where
  kind : BitVec 3
  avc : Vc
  vc : Vc
  first : Bool
  last : Bool
  poison : Bool
  seq : BitVec 10
  ack : BitVec 10
  ackv : Bool
  snak : BitVec 16
  session : BitVec 6
  len : BitVec 6
  payload : List Byte
deriving DecidableEq, Repr

def kindCode : PktKind → BitVec 3
  | .darem => 1
  | .record => 2

/-- The 64-bit header word. -/
def Flit.header (f : Flit) : BitVec 64 :=
  let b (x : Bool) (i : Nat) : BitVec 64 := if x then BitVec.ofNat 64 (2 ^ i) else 0
  f.kind.setWidth 64 ||| b (Vc.bit f.avc) 3 ||| b (Vc.bit f.vc) 4 ||| b f.first 5 ||| b f.last 6 ||| b f.poison 7 |||
    (f.seq.setWidth 64 <<< 8) ||| (f.ack.setWidth 64 <<< 18) ||| b f.ackv 28 ||| (f.snak.setWidth 64 <<< 29) |||
    (f.session.setWidth 64 <<< 45) ||| (f.len.setWidth 64 <<< 51)

/-- The 48 bytes of a flit. -/
def Flit.bytes (f : Flit) : List Byte :=
  let m := le 8 f.header ++ padTo 36 f.payload
  m ++ le 4 (crc32 m)

/-- The flit that 48 bytes spell. -/
def readFlit (bs : List Byte) : Flit :=
  let h : BitVec 64 := rd 64 bs 0 8
  { kind := bits h 0 3, avc := vcOf (testBit h 3), vc := vcOf (testBit h 4), first := testBit h 5, last := testBit h 6
    poison := testBit h 7, seq := bits h 8 10, ack := bits h 18 10, ackv := testBit h 28, snak := bits h 29 16
    session := bits h 45 6, len := bits h 51 6, payload := slice bs 8 36 }

/-- A good CRC over 48 bytes (R260). -/
def flitCrcOk (bs : List Byte) : Bool := bs.length == 48 && rd 32 bs 44 4 == crc32 (bs.take 44)

/-- The forms of R261. -/
def Flit.formed (f : Flit) : Bool :=
  if f.kind = 0 then
    f.vc == .req && !f.first && !f.last && !f.poison && f.seq == 0 && f.len == 0 && f.payload.all (· == 0)
  else f.kind.toNat ≤ 2 && 1 ≤ f.len.toNat && f.len.toNat ≤ 36 && (f.last || f.len == 36)

/-- Flits of `n` bytes (R281). -/
def flitsOf (n : Nat) : Nat := (n + 35) / 36

/-! ### Virtual channels -/

def Port.vc (x : Port) : Vc → VcState
  | .req => x.req
  | .rsp => x.rsp
def Port.onVc (x : Port) (v : Vc) (f : VcState → VcState) : Port :=
  match v with
  | .req => { x with req := f x.req }
  | .rsp => { x with rsp := f x.rsp }
def Port.orq (x : Port) : Vc → List Packet
  | .req => x.orqReq
  | .rsp => x.orqRsp
def Port.setOrq (x : Port) (v : Vc) (q : List Packet) : Port :=
  match v with
  | .req => { x with orqReq := q }
  | .rsp => { x with orqRsp := q }
def State.onVc (s : State) (p : Fin 4) (v : Vc) (f : VcState → VcState) : State := s.onPort p fun x => x.onVc v f

/-- The port sends and receives flits: UP and not in LOCK_LOST (R253, R273). -/
def Port.live (x : Port) : Bool := x.state == .up && !x.lockLost

def orqSize : Vc → Nat
  | .req => 1024
  | .rsp => 256
def fwdSize : Vc → Nat
  | .req => 384
  | .rsp => 128

def packetFlits (ps : List Packet) : Nat := ps.foldl (fun n q => n + flitsOf q.bytes.length) 0

/-- Flits of the ORQ's head packet that have been chosen to depart, in this session or before it: their slots are released
(R292). -/
def VcState.chosen (x : VcState) : Nat := max x.released (if x.resend.isEmpty then x.cursor else 0)

/-- Slots of an ORQ that hold committed flits (R291). -/
def Port.committed (x : Port) (v : Vc) : Nat := packetFlits (x.orq v) - (x.vc v).chosen
def Port.reserved (x : Port) : Vc → Nat
  | .req => x.reservedReq
  | .rsp => x.reservedRsp
def Port.orqUsed (x : Port) (v : Vc) : Nat := x.committed v + x.reserved v

/-- Flits of a forwarding buffer in use: those filled, the reservation of the packet under delivery, and what of one is
returned after this cycle (R270, Table 14-3). -/
def VcState.fwdUsed (x : VcState) : Nat :=
  x.fwd.foldl (fun n q => n + flitsOf q.packet.bytes.length) 0 + (match x.consumer with | .forward _ => 15 | _ => 0) + x.fwdLeaving

/-- Flits of a forwarding buffer that are visible as free. -/
def VcState.fwdFree (x : VcState) (v : Vc) : Nat := fwdSize v - (x.fwdUsed + x.fwdHidden)

/-! ### Acknowledgement (R264 to R268) -/

/-- Replay slots are freed packet by packet, when LAST is acknowledged (R266). -/
def freeWhole : List SentFlit → List SentFlit
  | [] => []
  | f :: r => if (f :: r).any fun g => g.last && g.acked then freeWhole r else f :: r

/-- The replay buffer as an acknowledgement leaves it; what it frees counts as used for the rest of this cycle (Table
14-3). -/
def VcState.acked (x : VcState) (fs : List SentFlit) : VcState :=
  { x with replay := freeWhole fs, replayLeaving := x.replayLeaving + (fs.length - (freeWhole fs).length) }

/-- Replay and reorder slots in use. -/
def VcState.replayUsed (x : VcState) : Nat := x.replay.length + x.replayLeaving
def VcState.reorderUsed (x : VcState) : Nat := x.reorder.length + x.reorderLeaving

/-- Acknowledge every sent flit up to `ack`; none when it names a number outside the unacknowledged range (R266). -/
def VcState.ackTo (x : VcState) (ack : BitVec 10) : Option VcState :=
  let un := x.replay.filter fun f => !f.acked
  let base := match un with | f :: _ => f.seq - 1 | [] => x.nextSeq - 1
  if ack = base then some x
  else if un.any fun f => f.seq = ack then
    let mark (f : SentFlit) : SentFlit := if f.acked || (f.seq - base).toNat ≤ (ack - base).toNat then { f with acked := true, due := false } else f
    some (x.acked (x.replay.map mark))
  else none

/-- SNAK makes flits due that are past the wait of R267. -/
def VcState.snakked (x : VcState) (ack : BitVec 10) (snak : BitVec 16) (frame wait : Nat) : VcState :=
  let due (f : SentFlit) : SentFlit :=
    let i := (f.seq - ack - 1).toNat
    if !f.acked && i < 16 && testBit snak i && (f.old || wait ≤ frame - f.left) then { f with due := true } else f
  { x with replay := x.replay.map due, snakAck := ack, snak := snak, snakSeen := true }

/-- The frames of R267's wait. -/
def Port.wait (x : Port) : Nat :=
  let partner := match x.block with | some b => (b.getD 32 0).toNat | none => 0
  x.latTarget.toNat + partner + 1

/-- Acknowledgement fields arrive (R264, R266, R267); one that names a number outside the range counts in FORMAT. -/
def Port.acks (x : Port) (f : Flit) : Port :=
  let v := x.vc f.avc
  let v' := if f.ackv then v.ackTo f.ack else some v
  match v' with
  | some v => x.onVc f.avc fun _ => v.snakked f.ack f.snak x.frames x.wait
  | none => { x with format := satInc x.format }

/-- The acknowledgement fields of a departing flit for one VC (R264). -/
def VcState.snakBits (x : VcState) : BitVec 16 :=
  (List.range 16).foldl (fun w i => if x.reorder.any fun f => f.seq = x.e + 1 + BitVec.ofNat 10 i then w else setBit w i) 0

/-! ### Sending (R262, R263) -/

/-- The packet that new flits of a VC come from: one resent whole, or the head of the ORQ. -/
def Port.source (x : Port) (v : Vc) : Option Packet :=
  match (x.vc v).resend with
  | p :: _ => some p
  | [] => (x.orq v).head?

/-- A replay slot is visible as free and a packet waits. -/
def Port.canSend (x : Port) (v : Vc) : Bool := (x.vc v).replayUsed + (x.vc v).replayHidden < 256 && (x.source v).isSome

/-- Take the next flit of a VC's packet into the replay buffer (R262). -/
def Port.takeNew (x : Port) (v : Vc) (p : Packet) : Port :=
  let c := (x.vc v).cursor
  let f : SentFlit := {
    seq := (x.vc v).nextSeq, kind := p.kind, first := c = 0, last := c + 1 = flitsOf p.bytes.length, poison := p.poison.contains c
    payload := (p.bytes.drop (36 * c)).take 36, acked := false, due := false, left := x.frames, old := false, source := p.source
    forwarded := p.forwarded }
  let x := x.onVc v fun y => { y with nextSeq := y.nextSeq + 1, replay := y.replay ++ [f], cursor := if f.last then 0 else c + 1 }
  let x := if (x.vc v).resend.isEmpty && (x.vc v).released ≤ c then x.onVc v fun y => { y with orqHidden := y.orqHidden + 1 } else x
  if f.last then
    if (x.vc v).resend.isEmpty then (x.setOrq v ((x.orq v).drop 1)).onVc v fun y => { y with released := 0 } else x.onVc v fun y => { y with resend := y.resend.drop 1 }
  else x

/-- The first retransmission that is due. -/
def VcState.firstDue (x : VcState) : Option SentFlit := x.replay.find? fun f => f.due && !f.acked

/-- A retransmission departs. -/
def Port.resendFlit (x : Port) (v : Vc) (q : BitVec 10) : Port :=
  let go (f : SentFlit) : SentFlit := if f.seq = q && !f.acked then { f with due := false, old := false, left := x.frames } else f
  { (x.onVc v fun y => { y with replay := y.replay.map go }) with retx := satInc x.retx }

/-- What departs: the VC and sequence number of the flit chosen, and the port after the choice (R263). -/
def Port.choose (x : Port) : Option (Vc × BitVec 10) × Port :=
  match x.rsp.firstDue, x.req.firstDue with
  | some f, _ => (some (.rsp, f.seq), x.resendFlit .rsp f.seq)
  | none, some f => (some (.req, f.seq), x.resendFlit .req f.seq)
  | none, none =>
    let new (v : Vc) : Option (Vc × BitVec 10) × Port :=
      match x.source v with
      | some p => (some (v, (x.vc v).nextSeq), x.takeNew v p)
      | none => (none, x)
    if x.canSend .rsp then new .rsp else if x.canSend .req then new .req else (none, x)

def VcState.sent (x : VcState) (q : BitVec 10) : Option SentFlit := x.replay.find? fun f => f.seq = q && !f.acked

/-- The flit that departs, built from what was chosen and from the receiver's state before the choice. -/
def Port.buildFlit (before after : Port) (c : Option (Vc × BitVec 10)) : Flit :=
  let avc := vcOf before.avcRsp
  let r := before.vc avc
  let base : Flit := {
    kind := 0, avc := avc, vc := .req, first := false, last := false, poison := false, seq := 0, ack := r.e, ackv := r.ackv
    snak := r.snakBits, session := before.session, len := 0, payload := [] }
  match c with
  | some (v, q) =>
    match (after.vc v).sent q with
    | some f => { base with
        kind := kindCode f.kind, vc := v, first := f.first, last := f.last, poison := f.poison, seq := q
        len := BitVec.ofNat 6 f.payload.length, payload := f.payload }
    | none => base
  | none => base

/-- Mark the stored copy of a flit as poisoned (R271). -/
def Port.poisonFlit (x : Port) (v : Vc) (q : BitVec 10) : Port :=
  x.onVc v fun y => { y with replay := y.replay.map fun f => if f.seq = q && !f.acked then { f with poison := true } else f }

/-- Retention SRAM is read: corrected and uncorrectable errors are counted (R373). -/
def State.readRetention (s : State) (found : EccRead) : Bool × State :=
  let (co, injC, s) := s.check 0x184 0 (found = .corrected)
  let s := if co then
      ({ s with log := { s.log with rsCorr := satInc s.log.rsCorr } }).raise { ev := .rsramCorr, det := 0x184, injected := injC, limit := .ms }
    else s
  let (bad, injU, s) := s.check 0x185 0 (found = .uncorrectable)
  let s := if bad then
      ({ s with log := { s.log with rsUncorr := satInc s.log.rsUncorr } }).raise { ev := .rsramUncorr, det := 0x185, injected := injU }
    else s
  (bad, s)

/-! ### Delivery (R265, R269, R270) -/

/-- The link engines answer a command's packet without a ledger entry (R269, R275); nothing with NORESP or for a packet
that is no command. -/
def State.engineReply (s : State) (cmd : List Byte) (status : Byte) : State :=
  let b4 := cmd.getD 4 0
  let flags := cmd.getD 6 0
  if bits b4 5 3 ≠ 0 || testBit flags 2 || cmd.length < 20 then s
  else
    let part : Fin 32 := (bits b4 0 5).toFin
    let gen : Half := match s.currentKey part with | some k => k.1 | none => 0
    s.respondTo (.link 0) (rd 16 cmd 2 2) part (cmd.getD 5 0) (rd 32 cmd 8 4) s.part.epoch (testBit flags 0) gen true false
      { status := status, body := [] }

/-- The next flit in order, if held. -/
def VcState.nextHeld (x : VcState) : Option HeldFlit := x.reorder.find? fun f => f.seq = x.e + 1

/-- The consumer of a packet whose FIRST flit is delivered (R269), and whether the packet found no route. While the address
is not valid the raw reading stands for it (log 116). -/
def State.consumerOf (s : State) (f : HeldFlit) : Consumer × Bool :=
  let dest := rd 16 f.payload 0 2
  if dest = s.node.addr || dest = 0xFFFF then
    if f.kind = .record then (.discard, true) else (.localInput, false)
  else match s.route dest with
    | some p => (.forward p, false)
    | none => (.discard, true)

/-- No route: counted, raised at most once per port and ms, and answered for a Darem command. -/
def State.noRoute (s : State) (p : Fin 4) (f : HeldFlit) : State :=
  let s := (s.onPort p fun x => { x with noroute := satInc x.noroute }).raise {
    ev := .lnkNoRoute, inst := p.val, unit := BitVec.ofNat 8 p.val, args := f.payload.take 2, limit := .ms }
  if f.kind = .darem then s.engineReply f.payload Status.notReady else s

/-- E advances and the reorder slot leaves use after this cycle (Table 14-3). -/
def VcState.advance (x : VcState) : VcState :=
  { x with e := x.e + 1, ackv := true, reorder := x.reorder.filter fun f => f.seq ≠ x.e + 1, reorderLeaving := x.reorderLeaving + 1 }

/-- The reorder slot of the flit `d` places past the next one is visible as free: the slots of the flits delivered last
are those of the window's end. -/
def VcState.slotFree (x : VcState) (d : Nat) (q : BitVec 10) : Bool :=
  decide (d + x.reorderLeaving + x.reorderHidden < 256) && !x.reorder.any fun g => g.seq = q

/-- The flits of a packet, joined. -/
def joinFlits (fs : List HeldFlit) (kind : PktKind) : Packet :=
  { kind := kind, bytes := fs.flatMap (·.payload), source := none, forwarded := true
    poison := (List.range fs.length).filter fun i => match fs[i]? with | some f => f.poison | none => false }

/-- LAST is taken: the packet goes to its consumer whole. -/
def State.packetDone (s : State) (p : Fin 4) (v : Vc) : State :=
  let x := s.ports[p].vc v
  let kind := match x.partialPkt with | f :: _ => f.kind | [] => .darem
  let pk := joinFlits x.partialPkt kind
  let s := s.onVc p v fun y => { y with consumer := .none, partialPkt := [] }
  match x.consumer with
  | .localInput => { s with keeperIn := s.keeperIn ++ [(.link p, pk.bytes, !pk.poison.isEmpty)] }
  | .forward q => s.onVc p v fun y => { y with
      fwd := y.fwd ++ [{ port := q, packet := pk }], fwdLeaving := y.fwdLeaving + (15 - flitsOf pk.bytes.length) }
  | _ => s

/-- A flit is delivered: FIRST is routed and needs room for 15 flits in a forwarding buffer (R270). -/
def State.deliverFlit (s : State) (p : Fin 4) (v : Vc) (f : HeldFlit) : State :=
  let x := s.ports[p].vc v
  if f.first then
    let (c, lost) := s.consumerOf f
    let room : Bool := match c with | .forward _ => 15 ≤ x.fwdFree v | _ => true
    if room then
      let s := if lost then s.noRoute p f else s
      let s := s.onVc p v fun y => { y.advance with consumer := c, partialPkt := [f] }
      if f.last then s.packetDone p v else s
    else s
  else
    let s := s.onVc p v fun y => { y.advance with partialPkt := if y.consumer = .none then [] else y.partialPkt ++ [f] }
    if f.last then s.packetDone p v else s

/-! ### Sessions (R252, R274, R275) -/

/-- The packets whose flits are in the replay buffer, oldest first: those not yet sent to their end come with the packet
they are taken from. -/
def packetsOf : List SentFlit → List (List SentFlit)
  | [] => []
  | f :: r =>
    match packetsOf r with
    | [] => [[f]]
    | p :: ps => if f.last then [f] :: p :: ps else (f :: p) :: ps

def sentPacket (fs : List SentFlit) : Option Packet :=
  match fs with
  | [] => none
  | f :: _ => some {
      kind := f.kind, bytes := fs.flatMap (·.payload), source := f.source, forwarded := f.forwarded
      poison := (List.range fs.length).filter fun i => match fs[i]? with | some g => g.poison | none => false }

/-- Sequence state of a VC at a new session; packets held whole stay. -/
def VcState.restart (x : VcState) (resend : List Packet) : VcState :=
  { x with
    nextSeq := 0, replay := [], replayLeaving := 0, replayHidden := 0, reorderLeaving := 0, reorderHidden := 0, cursor := 0, snakAck := 0x3FF, snak := 0, snakSeen := false, resend := resend, e := 0x3FF, ackv := false
    reorder := [], consumer := .none, partialPkt := [] }

/-- The ORQ's head packet at a new session when some of its flits have been sent (R275). A record stays there to be resent
whole, its sent flits' slots released; a Darem packet leaves, and the slots of the flits never chosen are visible as free a
cycle later (R292). -/
def Port.cutHead (x : Port) (v : Vc) : Port :=
  match (x.orq v).head? with
  | some p =>
    if p.kind = .record then x.onVc v fun y => { y with released := y.chosen }
    else (x.setOrq v ((x.orq v).drop 1)).onVc v fun y => {
      y with orqHidden := y.orqHidden + (flitsOf p.bytes.length - y.chosen), released := 0 }
  | none => x

/-- The packets sent to their end that stand in the replay buffer. -/
def VcState.sentWhole (x : VcState) : List Packet :=
  ((packetsOf x.replay).filter fun fs => match fs.getLast? with | some f => f.last | none => false).filterMap sentPacket

/-- One VC starts a new session (R275): its records are resent whole, its withdrawn Darem packets and torn packets are
counted, and the commands among the withdrawn are handed back for their answer. -/
def Port.newVc (x : Port) (v : Vc) : Port × Nat × Nat × List (List Byte) :=
  let y := x.vc v
  let whole := y.sentWhole
  let cut : Option Packet := if y.cursor = 0 then none else x.source v
  let fromOrq := y.cursor ≠ 0 && y.resend.isEmpty
  let back := whole ++ cut.toList
  let records := (if fromOrq then whole else back).filter fun p => p.kind = .record
  let darem := back.filter fun p => p.kind = .darem
  let x := if fromOrq then x.cutHead v else x
  let later := if y.cursor = 0 then y.resend else y.resend.drop 1
  let torn := match y.consumer with | .none => 0 | .discard => 0 | _ => 1
  (x.onVc v fun z => z.restart (records ++ later), darem.length, torn, darem.map (·.bytes))

/-- Entry to UP in a new session (R275). -/
def State.newSession (s : State) (p : Fin 4) : State :=
  let (x, w1, t1, c1) := s.ports[p].newVc .req
  let (x, w2, t2, c2) := x.newVc .rsp
  let w := w1 + w2
  let t := t1 + t2
  let s := s.onPort p fun _ => { x with session := x.nextSession, withdrawn := satAdd x.withdrawn w, torn := satAdd x.torn t }
  let s := s.each (c1 ++ c2) fun s c => s.engineReply c Status.partnerChanged
  let unit := BitVec.ofNat 8 p.val
  let s := if 0 < w then s.raise { ev := .lnkWithdrawn, inst := p.val, unit := unit, args := bytesOf 2 w, marks := [27 + p.val] } else s
  if 0 < t then s.raise { ev := .lnkFwdTorn, inst := p.val, unit := unit, args := bytesOf 2 t, marks := [27 + p.val] } else s

/-- Entry to UP in the session that was kept (R274). -/
def State.resumeSession (s : State) (p : Fin 4) : State :=
  let old (y : VcState) : VcState := { y with replay := y.replay.map fun f => { f with old := true } }
  s.onPort p fun x => { x with req := old x.req, rsp := old x.rsp }

/-! ### Registers (Table 14-5) -/

inductive RcReg where
  | ctrl
  | txReq
  | txRsp
  | rx
  | replay
  | reorder
  | fwd
  | session
  | err
  | cnt
  | cnt2
  | events
  | clear
deriving DecidableEq, Repr

/-- NEXT_SEQ and OLDEST, the oldest unacknowledged number or NEXT_SEQ. -/
def txWord (x : VcState) : Word :=
  let oldest := match x.replay.find? fun f => !f.acked with | some f => f.seq | none => x.nextSeq
  field x.nextSeq 0 ||| field oldest 16

def rcWord (x : Port) : RcReg → Word
  | .ctrl => field x.timeout 0
  | .txReq => txWord x.req
  | .txRsp => txWord x.rsp
  | .rx => field x.req.e 0 ||| flag x.req.ackv 10 ||| field x.rsp.e 16 ||| flag x.rsp.ackv 26
  | .replay => BitVec.ofNat 32 (x.req.replayUsed + 65536 * x.rsp.replayUsed)
  | .reorder => BitVec.ofNat 32 (x.req.reorderUsed + 65536 * x.rsp.reorderUsed)
  | .fwd => BitVec.ofNat 32 (x.req.fwdFree .req + 65536 * x.rsp.fwdFree .rsp)
  | .session => field x.session 0
  | .err => field x.flitCrc 0 ||| field x.sessionErr 16
  | .cnt => field x.retx 0 ||| field x.timeouts 16 ||| field x.dup 24
  | .cnt2 => field x.format 0 ||| field x.torn 8 ||| field x.withdrawn 16 ||| field x.noroute 24
  | .events => x.rcEvents
  | .clear => 0

def rcMask : RcReg → Word
  | .ctrl => 0xFFFF
  | .txReq => 0x03FF03FF
  | .txRsp => 0x03FF03FF
  | .rx => 0x07FF07FF
  | .replay => 0x01FF01FF
  | .reorder => 0x01FF01FF
  | .fwd => 0x01FF01FF
  | .session => 0x3F
  | .err => 0xFFFFFFFF
  | .cnt => 0xFFFFFFFF
  | .cnt2 => 0xFFFFFFFF
  | .events => 0xF
  | .clear => 0

def clearRc (x : Port) : Port :=
  { x with flitCrc := 0, sessionErr := 0, retx := 0, timeouts := 0, dup := 0, format := 0, torn := 0, withdrawn := 0, noroute := 0 }

def rcAccess (p : Fin 32) (port : Fin 4) (r : RcReg) (s : State) : Access :=
  let x := s.ports[port]
  match r with
  | .ctrl => rwReg (rcWord x .ctrl) 0xFFFF (p == 0) (range := fun v => bits v 0 16 ≠ 0) (doms := [domOfL port]) fun v s =>
      s.onPort port fun x => { x with timeout := bits v 0 16 }
  | .events => w1cReg (p == 0) x.rcEvents 0xF .lnkRc port.val [domOfL port]
  | .clear => clearReg (p == 0) (doms := [domOfL port]) fun s => s.onPort port clearRc
  | r => roReg (rcWord x r) (rcMask r)

/-- A routing entry (R269, R276): written by the owner of its resource. -/
def routeAccess (p : Fin 32) (e : Fin 320) (s : State) : Access :=
  rwReg ((look 0 s.routes e.val).setWidth 32) 7 (s.owns p (0x200 + e.val)) fun v s =>
    { s with routes := store 0 s.routes e.val (bits v 0 3) }

/-! ### Meanings: moments -/

/-- FLIT_CHOICE (R263, R264): in cycle B − 4; a stored copy with an uncorrectable error departs poisoned (R271). -/
def execFlitChoice (p : Fin 4) (ecc : EccRead) (s : State) : Outcome :=
  whenHw s fun s =>
    let s := s.onPort p fun x => { x with frames := x.frames + 1 }
    let x := s.ports[p]
    if x.live then
      let (c, y) := x.choose
      let s := s.onPort p fun _ => y
      let s := match c with
        | some (v, q) =>
          let (bad, s) := s.readRetention ecc
          if bad then s.onPort p fun z => z.poisonFlit v q else s
        | none => s
      let f := x.buildFlit s.ports[p] c
      s.onPort p fun z => { z with txFlit := f.bytes, avcRsp := !x.avcRsp }
    else s.onPort p fun z => { z with txFlit := (x.buildFlit x none).bytes, avcRsp := !x.avcRsp }

/-- FLIT_ARRIVAL (R265 to R267). -/
def execFlitArrival (p : Fin 4) (flit : List Byte) (s : State) : Outcome :=
  whenHw s fun s =>
    if s.ports[p].live then
      let (bad, _, s) := s.check 0x182 (BitVec.ofNat 8 p.val) (!flitCrcOk flit)
      if bad then s.onPort p fun x => { x with flitCrc := satInc x.flitCrc }
      else
        let f := readFlit flit
        if f.session ≠ s.ports[p].session then s.onPort p fun x => { x with sessionErr := satInc x.sessionErr }
        else
          let s := s.onPort p fun x => x.acks f
          if !f.formed then s.onPort p fun x => { x with format := satInc x.format }
          else if f.kind = 0 then s
          else
            let y := s.ports[p].vc f.vc
            let d := (f.seq - y.e - 1).toNat
            if y.slotFree d f.seq then
              let g : HeldFlit := {
                seq := f.seq, kind := if f.kind = 1 then .darem else .record, first := f.first, last := f.last, poison := f.poison
                payload := f.payload.take f.len.toNat }
              s.onVc p f.vc fun z => { z with reorder := z.reorder ++ [g] }
            else if d < 256 || 768 ≤ d then s.onPort p fun x => { x with dup := satInc x.dup }
            else s.onPort p fun x => { x with format := satInc x.format }
    else s

/-- FLIT_DELIVERY (R265, R269, R270): the next flit in order, once its consumer has room. -/
def execFlitDelivery (p : Fin 4) (v : Vc) (s : State) : Outcome :=
  whenHw s fun s =>
    match (s.ports[p].vc v).nextHeld with
    | some f => s.deliverFlit p v f
    | none => s

/-- REPLAY_TIMER_EXPIRY (R268). -/
def execReplayTimerExpiry (p : Fin 4) (v : Vc) (real : Bool) (s : State) : Outcome :=
  whenHw s fun s =>
    let y := s.ports[p].vc v
    if s.ports[p].live && y.replay.any (fun f => !f.acked) then
      let (fires, injected, s) := s.check 0x183 (BitVec.ofNat 8 p.val) real
      if fires then
        let oldest := y.replay.find? fun f => !f.acked
        let s := match oldest with
          | some f =>
            let i := (f.seq - y.snakAck - 1).toNat
            if y.snakSeen && i < 16 && !testBit y.snak i then s
            else
              let mark (g : SentFlit) : SentFlit := if g.seq = f.seq && !g.acked then { g with due := true } else g
              s.onVc p v fun z => { z with replay := z.replay.map mark }
          | none => s
        (s.onPort p fun x => { x with timeouts := satInc x.timeouts }).raise {
          ev := .lnkRcTimeout, det := 0x183, inst := p.val, unit := BitVec.ofNat 8 p.val, injected := injected, limit := .ms }
      else s
    else s

/-- Slots for `n` more flits are visible as free in an ORQ (R292). -/
def State.orqRoom (s : State) (p : Fin 4) (v : Vc) (n : Nat) : Bool :=
  s.ports[p].orqUsed v + (s.ports[p].vc v).orqHidden + n ≤ orqSize v

/-- The peaks follow the slots in use (Table 15-6). -/
def Port.peaked (x : Port) : Port :=
  { x with peakReq := max x.peakReq (x.orqUsed .req), peakRsp := max x.peakRsp (x.orqUsed .rsp) }

/-- A packet enters an ORQ whole. -/
def State.commitOrq (s : State) (p : Fin 4) (v : Vc) (pk : Packet) : State := s.onPort p fun x => (x.setOrq v (x.orq v ++ [pk])).peaked

/-- LNK_RC_CNT_CLEAR (R278, R402). -/
def execLnkRcCntClear (p : Fin 32) (port : Fin 4) (v : Word) (s : State) : Outcome := whenHw s fun s => s.writeOne p (rcAccess p port .clear) v

/-! ### Meanings: commands (Table 14-4) -/

def routeCodes (entry : Half) (count : Byte) : List Nat :=
  ((List.range count.toNat).filter fun i => entry.toNat + i < 320).map fun i => 0x200 + entry.toNat + i

def runLnkRouteSet (entry : Half) (vals : List Byte) : Run := fun s =>
  if 320 < entry.toNat + vals.length then (s, some (failed Status.outOfRange))
  else
    let set (s : State) (i : Nat) : State :=
      { s with routes := store 0 s.routes (entry.toNat + i) (bits (vals.getD i 0) 0 3) }
    (s.each (List.range vals.length) set, some (done []))

/-- LNK_ROUTE_SET (R276). -/
def execLnkRouteSet (h : Header) (entry : Half) (count : Byte) (vals : List Byte) (s : State) : Outcome :=
  darem (.lnkRouteSet h entry count vals) h
    { op := 0x29, layout := count.toNat = vals.length && 1 ≤ vals.length && vals.length ≤ 64
      allowed := (routeCodes entry count).all (s.owns h.part), codes := routeCodes entry count }
    (le 2 entry ++ [count] ++ vals) (runLnkRouteSet entry vals) s

/-- Reserved bits of register words are sent as 0 (log 152). -/
def rcStatus (x : Port) : List Byte :=
  [RcReg.txReq, .txRsp, .rx, .replay, .reorder, .fwd, .session, .err, .cnt, .cnt2].flatMap fun r => le 4 (rcWord x r)

def runLnkRcStatus (port : Byte) : Run := fun s =>
  match (fin port.toNat : Option (Fin 4)) with
  | some p => (s, some (done (rcStatus s.ports[p])))
  | none => (s, some (failed Status.outOfRange))

/-- LNK_RC_STATUS_GET (R277). -/
def execLnkRcStatusGet (h : Header) (port : Byte) (s : State) : Outcome :=
  darem (.lnkRcStatusGet h port) h { op := 0x2A, idem := true, doms := ((fin port.toNat : Option (Fin 4)).map domOfL).toList } [port] (runLnkRcStatus port) s

end Sys2Proof.Machine
end

