-- ==== Sys2Proof/Machine/Coding.lean ====
section
/-!
DEFINITION. The 8b/10b code of the lanes and the order in which a frame's bytes travel on them (13 R241). The spec names
the code and its control symbols; the code itself is the published one (PRESUMED, log 139).
-/
namespace Sys2Proof.Machine

/-- A symbol of a lane: bits a to j, a the most significant and sent first. -/
abbrev Sym := BitVec 10

/-- Bits abcdei of the low five bits of a byte while the running disparity is negative. -/
def sixOf (x : BitVec 5) : BitVec 6 :=
  #[0b100111, 0b011101, 0b101101, 0b110001, 0b110101, 0b101001, 0b011001, 0b111000,
    0b111001, 0b100101, 0b010101, 0b110100, 0b001101, 0b101100, 0b011100, 0b010111,
    0b011011, 0b100011, 0b010011, 0b110010, 0b001011, 0b101010, 0b011010, 0b111010,
    0b110011, 0b100110, 0b010110, 0b110110, 0b001110, 0b101110, 0b011110, 0b101011].getD x.toNat 0

/-- Bits fghj of the high three bits of a data byte, and of a control byte, while the running disparity is negative. -/
def fourOf (y : BitVec 3) : BitVec 4 := #[0b1011, 0b1001, 0b0101, 0b1100, 0b1101, 0b1010, 0b0110, 0b1110].getD y.toNat 0
def fourOfK (y : BitVec 3) : BitVec 4 := #[0b1011, 0b0110, 0b1010, 0b1100, 0b1101, 0b0101, 0b1001, 0b0111].getD y.toNat 0

/-- As many ones as zeros. -/
def balanced {n : Nat} (v : BitVec n) : Bool := 2 * (bitList n v).length == n

/-- A data byte whose high bits are 7 takes fghj 0111 after these low bits, so that no false comma arises. -/
def alternateSeven (x : BitVec 5) (positive : Bool) : Bool :=
  if positive then x = 11 || x = 13 || x = 14 else x = 17 || x = 18 || x = 20

/-- The symbol of a byte, and the running disparity after it. -/
def encodeByte (control : Bool) (b : Byte) (positive : Bool) : Sym × Bool :=
  let x := bits b 0 5
  let y := bits b 5 3
  let six := if control then 0b001111 else sixOf x
  let six' := if positive && (!balanced six || x = 7) then ~~~six else six
  let mid := positive != !balanced six
  let four := if control then fourOfK y else if y = 7 && alternateSeven x mid then 0b0111 else fourOf y
  let four' := if mid && (control || !balanced four || y = 3) then ~~~four else four
  (six' ++ four', mid != !balanced four)

/-- A lane's symbols of one frame, and its running disparity after them. -/
def encodeLane : List (Bool × Byte) → Bool → List Sym × Bool
  | [], positive => ([], positive)
  | (k, b) :: rest, positive =>
    let (c, positive) := encodeByte k b positive
    let (cs, positive) := encodeLane rest positive
    (c :: cs, positive)

/-- K28.1 and K28.5, and D21.5 of a training frame (R242, R248). -/
def k28_1 : Byte := 0x3C
def k28_5 : Byte := 0xBC
def d21_5 : Byte := 0xB5

/-- The 64 bytes of the frame that departs, each with its control mark: in a training frame symbol 0 of every lane is a
comma (Table 13-1, R248). -/
def Port.frame (x : Port) : List (Bool × Byte) :=
  let commas := if x.txTrain then 4 else 1
  let bs := [if x.txSuper then k28_1 else k28_5] ++ padTo 15 x.txSeg ++ slice x.txFlit 0 48
  (List.range 64).map fun i => (decide (i < commas), bs.getD i 0)

/-- Lane `l` of a frame: its bytes i with i mod 4 = l, in order (R241). -/
def laneOf (frame : List (Bool × Byte)) (l : Fin 4) : List (Bool × Byte) :=
  (List.range 16).map fun k => frame.getD (4 * k + l.val) (false, 0)

/-- The frame leaves on the four lanes. -/
def Port.transmit (x : Port) : Port :=
  let f := x.frame
  let sent := Vector.ofFn fun l => encodeLane (laneOf f l) x.lanes[l].disparity
  { x with txLanes := sent.map (·.1), lanes := Vector.ofFn fun l => { x.lanes[l] with disparity := sent[l].2 } }

end Sys2Proof.Machine
end

