-- ==== Sys2Proof/Machine/Links.lean ====
section
/-!
DEFINITION. The Franum links: training, levelling, partners and sessions, lock loss, trigger segments (13).
-/
namespace Sys2Proof.Machine

def portUnit (p : Fin 4) : Byte := BitVec.ofNat 8 p.val

/-- Raise a link event of a port. -/
def State.lnkEvent (s : State) (p : Fin 4) (e : Ev) (args : List Byte := []) (det : BitVec 10 := 0) (injected : Bool := false) : State :=
  s.raise { ev := e, det := det, inst := p.val, unit := portUnit p, args := args, injected := injected, marks := [27 + p.val] }

/-! ### Training (R248, R254) -/

/-- Training starts afresh: what it has gathered is dropped, and VALID counts as 0 until the port is UP again (R245). -/
def Port.fresh (x : Port) (st : PortState) : Port :=
  { x with state := st, lockLost := false, cause := 0, samples := [], block := none, badBlocks := 0
           rxValid := false, rxSync := false, rxGap := false
           lanes := x.lanes.map fun l => { l with lock := false } }

/-- A port enters SETTLE: its synthesisers calibrate (R254). -/
def State.settle (s : State) (p : Fin 4) : State := s.onPort p fun x => { (x.fresh .settle) with synthLock := false }

/-- A port enters SEEK. -/
def State.seek (s : State) (p : Fin 4) : State := s.onPort p fun x => x.fresh .seek

/-- Finish the commands that wait for a port's synthesisers with a code. -/
def State.endEnabling (s : State) (p : Fin 4) (r : Reply) : State :=
  let cs := s.ports[p].enabling
  let drop (x : Port) : Port := { x with enabling := x.enabling.filter fun c => !cs.contains c }
  ({ s with ports := s.ports.map drop }).finishAll cs r

/-- A port is held in DISABLED (R256). -/
def State.disablePort (s : State) (p : Fin 4) (r : Reply) : State :=
  (s.endEnabling p r).onPort p fun x => { (x.fresh .disabled) with synthLock := false, txLanes := Vector.replicate 4 [] }

/-- The port's domain has become ON: the running disparity of every lane starts negative (R241), and an enabled port settles
(R254). -/
def State.portOn (s : State) (p : Fin 4) : State :=
  let s := s.onPort p fun x => { x with lanes := x.lanes.map fun l => { l with disparity := false } }
  if s.ports[p].en then s.settle p else s

/-- The port's domain has left ON: waiting commands end with FAULT and the port (R254). -/
def State.portOff (s : State) (p : Fin 4) : State := s.disablePort p (failed Status.fault [portUnit p])

/-- LOCK rises after freewheel: every port that is not DISABLED settles anew (R16, R254). -/
def State.relock (s : State) : State :=
  s.each (List.finRange 4) fun s p => if s.ports[p].state = .disabled then s else s.settle p

/-- The link goes down (R253). -/
def State.linkDown (s : State) (p : Fin 4) : State :=
  ((s.seek p).onPort p fun x => { x with downs := satInc x.downs }).lnkEvent p .lnkDown

/-! ### Training blocks (Table 13-5) -/

def portCode : PortState → Nat
  | .disabled => 0
  | .settle => 1
  | .seek => 2
  | .deskew => 3
  | .exchange => 4
  | .level => 5
  | .up => 6
  | .refused => 7

/-- The partner's record matches the block and the session may go on for this side (R252). -/
def Port.kept (x : Port) (b : List Byte) : Bool :=
  x.sessionHeld && !x.newSession && x.partner.valid && x.partner.die == rd 49 b 12 8 && x.partner.port == rd 2 b 6 1

/-- The training block that a port sends (Table 13-5). -/
def State.trainingBlock (s : State) (p : Fin 4) (hold : Word) : List Byte :=
  let x := s.ports[p]
  let kept := match x.block with | some b => x.kept b | none => false
  let flags := flag s.clk.lock 0 ||| flag s.clk.freewheel 1 ||| flag s.clk.etSuspect 2 ||| flag kept 3
  let m := [0xA5, 1, BitVec.ofNat 8 (portCode x.state), bits flags 0 8] ++ le 2 s.node.addr ++ [portUnit p, x.session.setWidth 8] ++
    le 4 (0x5A546432 : Word) ++ le 8 Config.dieId ++ le 4 Config.serial ++ le 2 x.mark ++ le 2 x.echo ++ le 4 hold ++
    [x.latTarget.setWidth 8] ++ List.replicate 11 0
  m ++ le 4 (crc32 m)

/-- A block with the right identifier and a good CRC. -/
def blockOk (b : List Byte) : Bool := b.length == 48 && b.getD 0 0 == 0xA5 && rd 32 b 44 4 == crc32 (b.take 44)

/-- A partner is refused (R251). -/
def State.refuse (s : State) (p : Fin 4) (cause : BitVec 3) : State :=
  (s.onPort p fun x => { x with state := .refused, cause := cause }).lnkEvent p .lnkRefused [cause.setWidth 8]

/-- The first cause of R251 that holds for the block received; on the VCO it is cause 4 (R69). -/
def State.refusal (s : State) (b : List Byte) (drift : Bool) : Option (BitVec 3) :=
  let f := b.getD 3 0
  if !s.clk.lock then some 4
  else if !testBit f 0 || testBit f 1 then some 1
  else if drift then some 2
  else if b.getD 1 0 ≠ 1 then some 3
  else none

/-- What training has measured (R249): FLIGHT, SKEW and the depth in 1/64 CK before any move to a later boundary. -/
structure Level where
  flight : Nat
  skew : Int
  depth : Int
deriving DecidableEq, Repr

/-- FLIGHT is the mean of 16 samples; the partner boundary is the own one nearest to the estimated departure (R249). -/
def Port.level (x : Port) : Level :=
  let flight : Nat := x.samples.foldl (· + ·) 0 / 32
  let est : Int := x.arrival - flight
  let skew := est - 512 * roundDiv est 512
  { flight := flight, skew := skew, depth := 512 * x.latTarget.toNat - 1536 - flight - skew }

/-- Frames that the delivery moves later so that DEPTH is 0 or more (R250). -/
def Level.later (l : Level) : Nat := if l.depth < 0 then ((-l.depth + 511) / 512).toNat else 0
def Level.ck (l : Level) : Nat := ((l.depth + 512 * l.later) / 64).toNat
/-- The fraction below 1 CK (R247, R249). -/
def Level.phi (l : Level) : BitVec 6 := BitVec.ofInt 6 (l.depth % 64)

/-- The partner's record of a block (R251). -/
def partnerOf (b : List Byte) : Partner :=
  { valid := true, node := rd 16 b 4 2, port := rd 2 b 6 1, type := rd 32 b 8 4, die := rd 49 b 12 8, serial := rd 32 b 20 4 }

/-- The partner is accepted: recorded, and the session decided (R251, R252). -/
def State.acceptPartner (s : State) (p : Fin 4) (b : List Byte) : State :=
  let x := s.ports[p]
  let kept := x.kept b
  let ses : BitVec 6 := rd 6 b 7 1
  let goes := kept && testBit (b.getD 3 0) 3 && ses == x.session
  let new := !x.partner.valid || x.partner.die ≠ rd 49 b 12 8 || x.partner.port ≠ rd 2 b 6 1
  let s := s.onPort p fun x => { x with
    state := .level, partner := partnerOf b, partnerNew := new, keptSent := kept, newSession := !goes
    nextSession := if goes then x.session else x.session + ses + 1 }
  let s := if new then s.lnkEvent p .lnkPartnerNew else s
  if goes then s else s.lnkEvent p .lnkSessionNew [s.ports[p].nextSession.setWidth 8]

/-- The end of LEVEL (R250): levelled at T, or LAT_SHIFT. -/
def State.levelled (s : State) (p : Fin 4) : State :=
  let x := s.ports[p]
  let l := x.level
  let now : LatRec := { flight := BitVec.ofNat 16 l.flight, depth := BitVec.ofNat 9 l.ck, skew := BitVec.ofInt 16 l.skew, valid := true }
  let latency := x.latTarget.toNat + l.later
  let near := !x.recd.valid || (l.skew - x.recd.skew.toInt).natAbs ≤ 128
  let s := s.onPort p fun x => { x with now := now, latency := BitVec.ofNat 8 latency, phi := l.phi }
  if 0 ≤ l.depth && near then
    let moved := x.recd.valid && 64 < ((l.flight : Int) - x.recd.flight.toNat).natAbs
    let s := s.onPort p fun x => { x with offTarget := false, recd := if x.latShift then x.recd else now }
    if moved then s.lnkEvent p .lnkFlightChanged (le 2 x.recd.flight ++ le 2 now.flight) else s
  else
    (s.onPort p fun x => { x with latShift := true, offTarget := x.offTarget || latency ≠ x.latTarget.toNat }).lnkEvent p .lnkLatShift
      (le 2 now.skew ++ [BitVec.ofNat 8 latency])

/-- Entry to UP (R250, R264, R274, R275). -/
def State.enterUp (s : State) (p : Fin 4) : State :=
  let s := s.levelled p
  let s := s.onPort p fun x => { x with state := .up, avcRsp := false }
  let s := if s.ports[p].newSession then s.newSession p else s.resumeSession p
  ((s.onPort p fun x => { x with sessionHeld := true, newSession := false }).lnkEvent p .lnkUp).normal (27 + p.val)

/-! ### Registers (Table 13-7) -/

inductive LnkReg where
  | ctrl
  | status
  | latTarget
  | downTime
  | tx
  | segCtrl
  | events
  | latRec
  | latRecSkew
  | latNow
  | latNowSkew
  | errCnt
  | lockCnt
  | partnerNode
  | partnerType
  | partnerDieLo
  | partnerDieHi
  | partnerSerial
  | lane (l : Fin 4)
deriving DecidableEq, Repr

def lnkStatus (x : Port) : Word :=
  BitVec.ofNat 32 (portCode x.state) ||| flag x.lockLost 4 ||| flag x.latShift 5 ||| flag x.offTarget 6 ||| flag x.synthLock 7 |||
    field x.cause 8 ||| field x.session 16
def partnerNodeWord (y : Partner) : Word := field y.node 0 ||| field y.port 16 ||| flag y.valid 31
def laneWord (l : Lane) : Word := field l.phase 0 ||| field l.slip 8 ||| field l.offset 12 ||| flag l.lock 16

/-- LNK_CTRL.EN is written (R254, R256). -/
def State.setEn (s : State) (p : Fin 4) (en : Bool) : State :=
  let was := s.ports[p].en
  let s := s.onPort p fun x => { x with en := en }
  if en then (if !was && s.isOn (domOfL p) then s.settle p else s)
  else if was then s.disablePort p (failed Status.aborted) else s

def lnkAccess (p : Fin 32) (port : Fin 4) (r : LnkReg) (s : State) : Access :=
  let x := s.ports[port]
  let own := p == 0
  let doms := [domOfL port]
  let down : Option Byte := if x.state = .disabled then none else some Status.conflict
  match r with
  | .ctrl => rwReg (bit x.en) 1 own (doms := doms) fun v s => s.setEn port (testBit v 0)
  | .status => roReg (lnkStatus x) 0x003F07F7
  | .latTarget =>
    { val := field x.latTarget 0, mask := 0x7F, writable := true, who := fun _ => own, doms := fun _ => doms
      range := fun v => 4 ≤ (bits v 0 7).toNat && (bits v 0 7).toNat ≤ 64
      rule := fun _ _ => down
      act := fun _ v s => s.onPort port fun x => { x with latTarget := bits v 0 7 } }
  | .downTime =>
    { val := field x.downTime 0, mask := 0xFFFF, writable := true, who := fun _ => own, doms := fun _ => doms
      range := fun v => bits v 0 16 ≠ 0
      rule := fun _ _ => down
      act := fun _ v s => s.onPort port fun x => { x with downTime := bits v 0 16 } }
  | .tx => rwReg (field x.swing 0 ||| field x.emph 4) 0x77 own (doms := doms) fun v s =>
      s.onPort port fun x => { x with swing := bits v 0 3, emph := bits v 4 3 }
  | .segCtrl => rwReg (flag x.txEn 0 ||| field x.syncSel 1 ||| field x.gapSel 4) 0x7F own (doms := doms)
      (range := fun v => (bits v 1 3).toNat ≤ 5 && (bits v 4 3).toNat ≤ 5) fun v s =>
      s.onPort port fun x => { x with txEn := testBit v 0, syncSel := bits v 1 3, gapSel := bits v 4 3 }
  | .events => w1cReg own x.events 0x1FF .lnk port.val doms
  | .latRec => roReg (field x.recd.flight 0 ||| field x.recd.depth 16 ||| flag x.recd.valid 31) 0x81FFFFFF
  | .latRecSkew => roReg (field x.recd.skew 0) 0xFFFF
  | .latNow => roReg (field x.now.flight 0 ||| field x.now.depth 16) 0x01FFFFFF
  | .latNowSkew => roReg (field x.now.skew 0 ||| field x.latency 20) 0x0FF0FFFF
  | .errCnt => roReg (field x.codeErr 0 ||| field x.segCrc 16)
  | .lockCnt => roReg (field x.lockLoss 0 ||| field x.downs 16)
  | .partnerNode => roReg (partnerNodeWord x.partner) 0x8003FFFF
  | .partnerType => roReg x.partner.type
  | .partnerDieLo => roReg (bits x.partner.die 0 32)
  | .partnerDieHi => roReg ((bits x.partner.die 32 17).setWidth 32) 0x1FFFF
  | .partnerSerial => roReg x.partner.serial
  | .lane l => roReg (laneWord x.lanes[l]) 0x0001FF3F

/-! ### Meanings: moments -/

/-- LNK_CTRL_EN_WRITE (R254, R256). -/
def execLnkCtrlEnWrite (p : Fin 32) (port : Fin 4) (v : Word) (s : State) : Outcome := whenHw s fun s => s.writeOne p (lnkAccess p port .ctrl) v

/-- LNK_TX_APPLY (R258): swing and emphasis take effect at the boundary. -/
def execLnkTxApply (p : Fin 4) (s : State) : Outcome := whenHw s fun s => s.onPort p fun x => { x with swingNow := x.swing, emphNow := x.emph }

/-- A command that waits for synthesisers has none left to wait for. -/
def State.enabled (s : State) (c : CmdRef) : Bool := !s.ports.toList.any fun x => x.enabling.contains c

/-- LINK_SYNTH_SETTLED (R254): the synthesisers lock and the port enters SEEK. -/
def execLinkSynthSettled (p : Fin 4) (s : State) : Outcome :=
  whenHw s fun s =>
    if s.ports[p].state = .settle then
      let cs := s.ports[p].enabling
      let s := (s.seek p).onPort p fun x => { x with synthLock := true, enabling := [] }
      s.each cs fun s c => if s.enabled c then s.finish c (done []) else s
    else s

/-- A measured value drawn for a lane (log 13). -/
def State.drawMeasured (s : State) : Word × State := (Config.measured s.freeCtr, { s with freeCtr := s.freeCtr + 1 })

/-- LINK_SEEK_DONE (R248): every lane has shown its comma at one position for 64 frames. -/
def execLinkSeekDone (p : Fin 4) (s : State) : Outcome :=
  whenHw s fun s =>
    if s.ports[p].state = .seek then
      let s := s.onPort p fun x => { x with state := .deskew }
      s.each (List.finRange 4) fun s l =>
        let (w, s) := s.drawMeasured
        s.onPort p fun x => { x with lanes := upd x.lanes l fun y => { y with
          phase := bits w 0 6, slip := BitVec.ofNat 4 ((bits w 8 8).toNat % 10), lock := true } }
    else s

/-- LINK_DESKEW_DONE (R248): symbol 0 of all lanes is aligned. -/
def execLinkDeskewDone (p : Fin 4) (s : State) : Outcome :=
  whenHw s fun s =>
    if s.ports[p].state = .deskew then
      let s := s.onPort p fun x => { x with state := .exchange }
      s.each (List.finRange 4) fun s l =>
        let (w, s) := s.drawMeasured
        s.onPort p fun x => { x with lanes := upd x.lanes l fun y => { y with offset := BitVec.ofNat 4 (w.toNat % 9) } }
    else s

/-- The lanes are aligned enough for training frames to be received (R248). -/
def Port.receivesBlocks (x : Port) : Bool := x.state == .deskew || x.state == .exchange || x.state == .level || x.state == .refused

/-- The last frame boundary, in 1/64 CK of the model's cycle count. -/
def State.frameStart (s : State) : Nat := 64 * (s.ck - s.clk.et.toNat % 8)

/-- TRAINING_BLOCK_RECEIVED (R248, R249, R251): ECHO follows its MARK; in EXCHANGE it gives one round-trip sample, and sixteen
bad blocks in a row refuse the partner, on the VCO with cause 4 (R69). -/
def execTrainingBlockReceived (p : Fin 4) (block : List Byte) (trip arrival : Word) (s : State) : Outcome :=
  whenHw s fun s =>
    let s := if s.ports[p].receivesBlocks && blockOk block then s.onPort p fun x => { x with
      echo := rd 16 block 24 2, echoAt := some (s.frameStart + arrival.toNat) } else s
    if s.ports[p].state = .exchange then
      if blockOk block then
        s.onPort p fun x => { x with
          badBlocks := 0, block := some block, arrival := arrival.toNat
          samples := if x.samples.length < 16 then x.samples ++ [trip.toNat - (rd 32 block 28 4).toNat] else x.samples }
      else
        let n := s.ports[p].badBlocks + 1
        let s := s.onPort p fun x => { x with badBlocks := n }
        if 16 ≤ n then s.refuse p (if s.clk.lock then 3 else 4) else s
    else s

/-- DEPTH would exceed 511 (R250): the partner is refused, and LAT_SHIFT and LNK_LAT_NOW report it. Nothing is delivered, so
OFF_TARGET stays as it is; DEPTH has no room for the value and is free (log 140). -/
def State.tooDeep (s : State) (p : Fin 4) : State :=
  let l := s.ports[p].level
  let (w, s) := s.draw
  let s := s.onPort p fun x => { x with
    latShift := true, latency := x.latTarget.setWidth 8
    now := { flight := BitVec.ofNat 16 l.flight, depth := bits w 0 9, skew := BitVec.ofInt 16 l.skew, valid := true } }
  (s.refuse p 5).lnkEvent p .lnkLatShift (le 2 s.ports[p].now.skew ++ [s.ports[p].latency])

/-- LINK_EXCHANGE_DONE (R250 to R252). -/
def execLinkExchangeDone (p : Fin 4) (drift : Bool) (s : State) : Outcome :=
  whenHw s fun s =>
    let x := s.ports[p]
    if x.state = .exchange then
      match x.block with
      | none => if !s.clk.lock then s.refuse p 4 else if drift then s.refuse p 2 else s
      | some b =>
        match s.refusal b drift with
        | some c => s.refuse p c
        | none =>
          if x.samples.length < 16 then s
          else if 511 < x.level.ck then s.tooDeep p
          else s.acceptPartner p b
    else s

/-- REFUSAL_CLEARED (R248): back to EXCHANGE. -/
def execRefusalCleared (p : Fin 4) (s : State) : Outcome :=
  whenHw s fun s =>
    let x := s.ports[p]
    if x.state = .refused && (x.cause ≠ 4 || s.clk.lock) then
      s.onPort p fun x => { x with state := .exchange, cause := 0, samples := [], block := none, badBlocks := 0 }
    else s

/-- LINK_LEVEL_DONE (R250). -/
def execLinkLevelDone (p : Fin 4) (s : State) : Outcome := whenHw s fun s => if s.ports[p].state = .level then s.enterUp p else s

/-- LOCK_LOSS_DETECT (R253). -/
def execLockLossDetect (p : Fin 4) (real : Bool) (s : State) : Outcome :=
  whenHw s fun s =>
    if s.ports[p].live then
      let frames := match s.armedOn 0x180 (portUnit p) with | some (_, a) => if real then 0 else a.arg.toNat | none => 0
      let (seen, injected, s) := s.check 0x180 (portUnit p) real
      if seen then
        let s := s.onPort p fun x => { x with lockLost := true, lockLoss := satInc x.lockLoss, lockHold := s.ck + 8 * frames }
        (s.carry (27 + p.val) injected).lnkEvent p .lnkLockLost [] 0x180 injected
      else s
    else s

/-- LOCK_RESTORE (R253): at the same position the port is UP again; at another the link goes down. An injected loss first
lasts for its frames (Table 20-4). -/
def execLockRestore (p : Fin 4) (same : Bool) (lost : Half) (s : State) : Outcome :=
  whenHw s fun s =>
    if s.ports[p].state = .up && s.ports[p].lockLost && decide (s.ports[p].lockHold ≤ s.ck) then
      if same then
        let s := (s.onPort p fun x => { x with lockLost := false }).lnkEvent p .lnkLockRestored (le 2 lost)
        s.normal (27 + p.val)
      else s.linkDown p
    else s

/-- LINK_DOWN_TIMEOUT (R253): LOCK_LOST has lasted LNK_DOWN_TIME frames. -/
def execLinkDownTimeout (p : Fin 4) (s : State) : Outcome :=
  whenHw s fun s => if s.ports[p].state = .up && s.ports[p].lockLost then s.linkDown p else s

/-! ### Trigger segments (R242 to R245) -/

/-- R14 and R16 force VALID=0. -/
def State.segmentsHeld (s : State) : Bool := s.clk.freewheel || (s.clk.etSuspect && (s.clk.holdSuspect || !s.clk.lock))

/-- A flag source of Table 13-2. -/
def State.flagSource (s : State) (sel : BitVec 3) (pin : Bool) (of : Port → Bool) : Bool :=
  if sel = 1 then pin
  else match (fin (sel.toNat - 2) : Option (Fin 4)) with
    | some q => 2 ≤ sel.toNat && s.ports[q].rxValid && of s.ports[q]
    | none => false

/-- The 15 segment bytes that depart. -/
def State.segmentBytes (s : State) (p : Fin 4) : List Byte :=
  let x := s.ports[p]
  let valid := x.live && x.txEn && !s.segmentsHeld
  let sync := s.flagSource x.syncSel s.clk.syncPin (·.rxSync)
  let gap := s.flagSource x.gapSel s.clk.gap (·.rxGap)
  let flags := flag valid 0 ||| flag sync 1 ||| flag gap 2 ||| flag s.clk.etSuspect 3
  let m := le 12 x.txUser ++ [bits flags 0 8]
  m ++ le 2 (crc16 m)

/-- A port in training sends training frames (Table 13-4). -/
def Port.trains (x : Port) : Bool := x.state == .seek || x.state == .deskew || x.state == .exchange || x.state == .level || x.state == .refused

/-- HOLD of the frame that departs in this cycle: from the arrival of ECHO's frame (Table 13-5). Before the first it measures
nothing and is free (log 13). -/
def State.holdOf (s : State) (p : Fin 4) : Word × State :=
  match s.ports[p].echoAt with
  | some a => (BitVec.ofNat 32 (64 * s.ck - a), s)
  | none => s.drawMeasured

/-- The frame that departs in training: commas, D21.5 in bytes 4 to 15, and a training block with the next MARK (R248). -/
def State.departTraining (s : State) (p : Fin 4) : State :=
  let s := s.onPort p fun x => { x with mark := x.mark + 1 }
  let (hold, s) := s.holdOf p
  let b := s.trainingBlock p hold
  s.onPort p fun x => { x with
    txTrain := true, txSuper := false, txSeg := List.replicate 3 k28_5 ++ List.replicate 12 d21_5, txFlit := b }

/-- The frame of Table 13-1 that departs with this cycle's segment (R242). -/
def State.departSegment (s : State) (p : Fin 4) : State :=
  let seg := s.segmentBytes p
  s.onPort p fun x => { x with txTrain := false, txSeg := seg, txSuper := bits s.clk.et 0 15 = 0 }

/-- SEGMENT_DEPARTURE (R241, R242, R244, R248): a frame departs at a frame boundary of this module. -/
def execSegmentDeparture (p : Fin 4) (s : State) : Outcome :=
  whenHw s fun s =>
    let x := s.ports[p]
    if x.state = .disabled || !s.clk.atBoundary then s
    else (if x.trains then s.departTraining p else s.departSegment p).onPort p Port.transmit

/-- SEGMENT_DELIVERY (R243, R245). `code` counts the symbols of the frame with a code or disparity error (log 58). -/
def execSegmentDelivery (p : Fin 4) (segment : List Byte) (code : Half) (s : State) : Outcome :=
  whenHw s fun s =>
    let x := s.ports[p]
    let up := x.state == .up
    let crcBad := rd 16 segment 13 2 ≠ crc16 (slice segment 0 13)
    let (bad, _, s) := if up then s.check 0x181 (portUnit p) crcBad else (false, false, s)
    let fl := segment.getD 12 0
    let valid := x.live && !x.latShift && !bad && testBit fl 0
    s.onPort p fun x => { x with
      rxSeg := slice segment 0 13, rxValid := valid, rxSync := valid && testBit fl 1, rxGap := valid && testBit fl 2
      codeErr := if up then satAdd x.codeErr code.toNat else x.codeErr
      segCrc := if bad then satInc x.segCrc else x.segCrc }

/-! ### Meanings: commands (Table 13-6) -/

/-- A port's part of LNK_PARTNER_GET: 28 bytes, of which the last four are not given (log 29). Reserved bits are 0 (log 152). -/
def State.partnerBytes (s : State) (p : Fin 4) (rest : Word) : List Byte :=
  let x := s.ports[p]
  le 4 (lnkStatus x) ++ le 4 (partnerNodeWord x.partner) ++ le 4 x.partner.type ++ le 8 x.partner.die ++ le 4 x.partner.serial ++ le 4 rest

def runLnkPartnerGet : Run := fun s =>
  let (body, s) := (List.finRange 4).foldl (fun (x : List Byte × State) p =>
    let (w, s) := x.2.draw
    (x.1 ++ s.partnerBytes p w, s)) ([], s)
  (s, some (done body))

/-- LNK_PARTNER_GET (R251). -/
def execLnkPartnerGet (h : Header) (s : State) : Outcome := darem (.lnkPartnerGet h) h { op := 0x08, idem := true, doms := (List.finRange 4).map domOfL } [] runLnkPartnerGet s

def portList (mask : Byte) : List (Fin 4) := (List.finRange 4).filter fun p => testBit mask p.val

/-- A command waits until the ports named have left SETTLE. -/
def State.awaitPorts (s : State) (c : CmdRef) (ps : List (Fin 4)) : State × Option Reply :=
  let wait := ps.filter fun p => s.ports[p].state = .settle
  if wait.isEmpty then (s, some (done []))
  else (s.each wait fun s p => s.onPort p fun x => { x with enabling := x.enabling ++ [c] }, none)

/-- The audit of ports' domains before a command that addresses them (R58). -/
def State.auditPorts (s : State) (ps : List (Fin 4)) : State := s.each ps fun s p => s.auditDom (domOfL p)

def State.portsSuspect (s : State) (ps : List (Fin 4)) : Bool := ps.any fun p => s.isSuspect (domOfL p)

def runLnkEnable (c : CmdRef) (en dis : Byte) : Run := fun s =>
  let s := s.auditPorts (portList (en ||| dis))
  if 15 < en.toNat || 15 < dis.toNat || en &&& dis ≠ 0 then (s, some (failed Status.outOfRange))
  else if s.portsSuspect (portList (en ||| dis)) then (s, some (failed Status.hwMismatch))
  else if (portList en).any fun p => !s.isOn (domOfL p) then (s, some (failed Status.notReady))
  else
    let s := s.each (portList dis) fun s p => s.setEn p false
    let s := s.each (portList en) fun s p => s.setEn p true
    let (s, r) := s.awaitPorts c (portList en)
    (if r.isNone then s.interim c { status := Status.deferred, body := [] } else s, r)

/-- LNK_ENABLE (R254, R256). -/
def execLnkEnable (h : Header) (en dis : Byte) (s : State) : Outcome :=
  darem (.lnkEnable h en dis) h { op := 0x26, allowed := h.part == 0 } [en, dis] (runLnkEnable (refOf h) en dis) s

def runLnkRetrain (c : CmdRef) (mask : Byte) : Run := fun s =>
  let s := s.auditPorts (portList mask)
  if 15 < mask.toNat then (s, some (failed Status.outOfRange))
  else if s.portsSuspect (portList mask) then (s, some (failed Status.hwMismatch))
  else if (portList mask).any fun p => s.ports[p].state = .disabled then (s, some (failed Status.notReady))
  else
    let s := s.each (portList mask) fun s p => if s.ports[p].state = .settle then s else s.seek p
    s.awaitPorts c (portList mask)

/-- LNK_RETRAIN (R257). -/
def execLnkRetrain (h : Header) (mask : Byte) (s : State) : Outcome :=
  darem (.lnkRetrain h mask) h { op := 0x27, allowed := h.part == 0 } [mask] (runLnkRetrain (refOf h) mask) s

def runLnkLatAck (mask : Byte) : Run := fun s =>
  let s := s.auditPorts (portList mask)
  if 15 < mask.toNat then (s, some (failed Status.outOfRange))
  else if s.portsSuspect (portList mask) then (s, some (failed Status.hwMismatch))
  else if (portList mask).any fun p => !s.ports[p].latShift then (s, some (failed Status.notReady))
  else
    (s.each (portList mask) fun s p => s.onPort p fun x => { x with recd := { x.now with valid := true }, latShift := false }, some (done []))

/-- LNK_LAT_ACK (R250). -/
def execLnkLatAck (h : Header) (mask : Byte) (s : State) : Outcome :=
  darem (.lnkLatAck h mask) h { op := 0x28, allowed := h.part == 0 } [mask] (runLnkLatAck mask) s

end Sys2Proof.Machine
end

