-- ==== Sys2Proof/Machine/Arbiter.lean ====
section
/-!
DEFINITION. Readout records, the spine and the deadline arbiter (15), with the sequence ceiling of R314.
-/
namespace Sys2Proof.Machine

/-! ### Requesters (R279, R290, R295) -/

/-- The repair slot that serves a requester as the spare of a SHADOW. -/
def State.shadowOf (s : State) (k : Fin 32) (early : Bool) : Option (Fin 3) :=
  match reqBay k with
  | none => none
  | some i => (List.finRange 3).find? fun r =>
      match s.rep.slots[r] with
      | some x => !x.cold && x.spare == i.val && x.past != early
      | none => false

/-! ### Requests (R282 to R286) -/

/-- The first packet that a forwarding engine can move: RSP before REQ, LAST held. -/
def State.fwdHead (s : State) (p : Fin 4) : Option (Vc × Forwarded) :=
  match s.ports[p].rsp.fwd, s.ports[p].req.fwd with
  | f :: _, _ => some (.rsp, f)
  | [], f :: _ => some (.req, f)
  | [], [] => none

/-- B beats less one of a packet of n bytes (R282). -/
def xlenOf (n : Nat) : Nat := (n + 7) / 8 - 3

/-- The port that a request goes to; none when it has no enabled route or names this module (R291). -/
def State.reqPort (s : State) (k : Fin 32) (q : Request) : Option (Fin 4) :=
  if 28 ≤ k.val then
    match (fin (k.val - 28) : Option (Fin 4)) with
    | some p => match (s.ports[p].vc (vcOf q.rsp)).fwd with | f :: _ => some f.port | [] => none
    | none => none
  else if q.dest = s.node.addr then none else s.route q.dest

/-- Bytes of a record with n B beats less one (R281). -/
def recordBytes (n : Nat) : Nat := 16 + 8 * (n + 1)

/-- NEXT_RSEQ has reached the ceiling (R314). -/
def State.atCeiling (s : State) (k : Fin 32) : Bool :=
  let src : Fin 32 := s.arb.reqs[k].srcnum.toFin
  k.val < 27 && s.arb.nextRseq[src] == s.ldg.ceil[src]

/-- The VC of a transfer: records go on REQ, what the keeper sends on RSP (R262, R291). -/
def transferVc (k : Fin 32) (q : Request) : Vc := if k.val = 27 then .rsp else if 28 ≤ k.val then vcOf q.rsp else .req

/-- A waiting request is eligible (R285). -/
def State.eligible (s : State) (k : Fin 32) (q : Request) : Bool :=
  decide (q.raised < s.ck) && !s.reqMasked k && !s.atCeiling k &&
  (match s.reqPort k q with | some p => s.orqRoom p (transferVc k q) (flitsOf q.bytes) | none => false)

/-- Refuse a request for want of a route (R291). The keeper drops the packet. -/
def State.refuseReq (s : State) (k : Fin 32) : State :=
  let s := s.onReq k fun x => { x with waiting := none, noroute := satInc x.noroute, refusedNext := true }
  let s := if k.val = 27 then { s with keeperOut := s.keeperOut.drop 1 } else s
  s.raise { ev := .arbNoroute, unit := BitVec.ofNat 8 k.val, part := s.reqOwner k, limit := .msAny }

/-- Stamp a request (R284). -/
def State.stamp (s : State) (k : Fin 32) (dl : Half) (bytes xlen : Nat) (dest : Half) (rsp : Bool) : State :=
  let q : Request := {
    deadline := s.clk.et + dl.setWidth 48, raised := s.ck, bytes := bytes, xlen := xlen, dest := dest, rsp := rsp, stamped := s.arb.stampCount }
  let s := { s with arb := { s.arb with stampCount := s.arb.stampCount + 1 } }
  s.onReq k fun x => { x with waiting := some q }

/-- Stamp a waiting request anew with an offset (R284). -/
def State.restamp (s : State) (k : Fin 32) (dl : Half) : State :=
  match s.arb.reqs[k].waiting with
  | some q =>
    let q := { q with deadline := s.clk.et + dl.setWidth 48, stamped := s.arb.stampCount }
    let s := { s with arb := { s.arb with stampCount := s.arb.stampCount + 1 } }
    s.onReq k fun x => { x with waiting := some q }
  | none => s

/-- Of two requests, whether the first goes first: class, deadline, index (R285, R405). -/
def State.goesFirst (s : State) (a b : Fin 32 × Request) : Bool :=
  let ca := s.arb.reqs[a.1].cls.toNat
  let cb := s.arb.reqs[b.1].cls.toNat
  if ca ≠ cb then cb < ca
  else if a.2.deadline = b.2.deadline then a.1.val < b.1.val
  else if (b.2.deadline - a.2.deadline).toNat = 2 ^ 47 then a.2.stamped < b.2.stamped
  else serialLt a.2.deadline b.2.deadline

/-- The request that a decision grants. -/
def State.winner (s : State) : Option (Fin 32 × Request) :=
  (List.finRange 32).foldl (fun best k =>
    match s.arb.reqs[k].waiting with
    | some q =>
      if s.eligible k q then
        match best with
        | some b => if s.goesFirst (k, q) b then some (k, q) else best
        | none => some (k, q)
      else best
    | none => best) none

/-- The packet of a keeper or forwarding transfer; it stays in its buffer until the transfer commits (Table 14-3). -/
def State.packetOfReq (s : State) (k : Fin 32) (q : Request) : Option Packet :=
  if k.val = 27 then s.keeperOut.head?
  else if k.val < 28 then none
  else match (fin (k.val - 28) : Option (Fin 4)) with
    | some p => (s.ports[p].vc (vcOf q.rsp)).fwd.head?.map (·.packet)
    | none => none

/-- The packet of a transfer that has committed leaves its buffer. -/
def State.dropPacket (s : State) (h : Holder) (pk : Packet) : State :=
  if h.k.val = 27 then { s with keeperOut := if s.keeperOut.head? = some pk then s.keeperOut.drop 1 else s.keeperOut }
  else match (fin (h.k.val - 28) : Option (Fin 4)) with
    | some p => s.onVc p (vcOf h.rsp) fun y => { y with fwd := y.fwd.drop 1, fwdHidden := y.fwdHidden + h.slots }
    | none => s

/-- Grant a request (R286, R291). -/
def State.grant (s : State) (k : Fin 32) (q : Request) (p : Fin 4) : State :=
  let v := transferVc k q
  let n := flitsOf q.bytes
  let h : Holder := {
    k := k, request := q, port := p, rsp := v == .rsp, slots := n, packet := s.packetOfReq k q, ck0 := s.ck + 1
    jumps := [] }
  let s := s.onPort p fun x => (x.reserve v (· + n)).peaked
  let s := s.onReq k fun x => { x with waiting := none }
  if s.arb.holder.isNone then { s with arb := { s.arb with holder := some h, lastHolder := k } }
  else { s with arb := { s.arb with next := some h } }

/-! ### Records (R280, R293) -/

/-- The header of a record (Table 15-2). -/
def State.recordHeader (s : State) (h : Holder) (src : Fin 32) (lead : Nat) : List Byte :=
  let skipped := s.arb.skipped[src]
  let lost := s.arb.lostAll[src]
  let gap := lost || 0 < skipped
  let declared := if lost then 0xFFFF else min 0xFFFF skipped
  let untimed := match (fin h.k.val : Option (Fin 18)) with | some d => s.dbays[d].untimed | none => false
  let kind : Nat := if h.k.val < 18 then 0 else 1
  le 2 h.request.dest ++ le 2 s.node.addr ++ [BitVec.ofNat 8 (src.val + 32 * kind)] ++
    [BitVec.ofNat 8 (h.request.xlen % 16 + (if gap then 16 else 0) + if untimed then 32 else 0)] ++
    le 2 s.arb.nextRseq[src] ++ bytesOf 2 declared ++ le 6 (s.beatZero h lead)

/-- The payload that the bay of a requester supplies: its beats, or the oldest result of its stream buffer (R281). -/
def State.ownPayload (s : State) (h : Holder) (beats : List Byte) : List Byte × State :=
  if h.k.val < 18 then (beats, s)
  else match (fin (h.k.val - 18) : Option (Fin 9)) with
    | some a => (s.arb.streams[a].headD [], { s with arb := { s.arb with streams := upd s.arb.streams a (·.drop 1) } })
    | none => (beats, s)

/-- The payload of a record: a held record of a SHADOW, as long as there is one, or what the bay supplies (R233). -/
def State.payloadOf (s : State) (h : Holder) (beats : List Byte) : List Byte × State :=
  match s.shadowOf h.k false with
  | some r =>
    match s.rep.slots[r].map (·.held) with
    | some ((_, bs) :: rest) => (bs, s.onRep r fun x => { x with held := rest })
    | _ => s.ownPayload h beats
  | none => s.ownPayload h beats

/-- The original of a SHADOW has committed a record. -/
def State.countOriginal (s : State) (k : Fin 32) (payload : List Byte) : State :=
  match reqBay k with
  | none => s
  | some i => s.each (List.finRange 3) fun s r =>
      match s.rep.slots[r] with
      | some x =>
        if x.orig = i.val && !x.cold && x.compares then
          (s.onRep r fun x => { x with committed := x.committed + 1 }).compareRecord r false payload
        else s
      | none => s

/-- A transfer commits whole (R289, R293). -/
def State.commitTransfer (s : State) (h : Holder) (beats : List Byte) (lead : Nat) : State :=
  let s := s.onPort h.port fun x => x.reserve (vcOf h.rsp) (· - h.slots)
  match h.packet with
  | some pk => ((s.dropPacket h pk).commitOrq h.port (vcOf h.rsp) pk).nextHolder
  | none =>
    let src : Fin 32 := s.arb.reqs[h.k].srcnum.toFin
    let hd := s.recordHeader h src lead
    let (body, s) := s.payloadOf h beats
    let payload := slice body 0 (8 * (h.request.xlen + 1))
    let pk : Packet := { kind := .record, bytes := hd ++ payload, poison := [], source := some (src, s.arb.nextRseq[src]) }
    let s := { s with arb := { s.arb with
      nextRseq := upd s.arb.nextRseq src (· + 1), skipped := s.arb.skipped.set src 0, lostAll := s.arb.lostAll.set src false } }
    let s := (s.commitOrq h.port .req pk).nextHolder
    ((s.countOriginal h.k payload).lastBeatOf h.k true).raiseCeiling src

/-! ### Registers (Table 15-6) -/

inductive ArbReg where
  | ctrl
  | status
  | mask
  | events
  | restamp
  | clear
  | req (k : Fin 32)
  | dest (k : Fin 32)
  | seq (k : Fin 32)
  | cnt (k : Fin 32)
deriving DecidableEq, Repr

def State.maskWord (s : State) : Word := wordOfBits (((List.finRange 32).filter s.maskBit).map (·.val))

def clearReq (x : Requester) : Requester := { x with torn := 0, late := 0, noroute := 0, dropped := 0 }

def reqList (v : Word) : List (Fin 32) := (List.finRange 32).filter fun k => testBit v k.val

/-- The current offset of a requester: DL of its readout port as last presented, or ARB_REQ_k.DEADLINE (R284). -/
def State.offsetOf (s : State) (k : Fin 32) : Half := if k.val < 18 then s.arb.reqs[k].dl else s.arb.reqs[k].deadline

def arbAccess (p : Fin 32) (r : ArbReg) (s : State) : Access :=
  match r with
  | .ctrl => rwReg (field s.arb.bubbleMax 0) 0xF (p == 0) fun v s => { s with arb := { s.arb with bubbleMax := bits v 0 4 } }
  | .status => roReg (BitVec.ofNat 32 s.arb.lastHolder.val ||| flag s.arb.holder.isSome 5) 0x3F
  | .mask => roReg s.maskWord
  | .events => w1cReg (p == 0) s.arb.events 0xF .arb 0
  | .restamp =>
    { val := 0, mask := 0, writable := true
      who := fun v => (reqList v).all fun k => s.reqOwner k == p
      doms := fun v => (reqList v).flatMap reqDoms
      act := fun _ v s => s.each (reqList v) fun s k => s.restamp k (s.offsetOf k) }
  | .clear => clearReg (p == 0) fun s => { s with arb := { s.arb with reqs := s.arb.reqs.map clearReq } }
  | .req k => rwReg (field s.arb.reqs[k].cls 0 ||| field s.arb.reqs[k].deadline 16) 0xFFFF0003 (s.reqOwner k == p) (doms := reqDoms k)
      fun v s => s.onReq k fun x => { x with cls := bits v 0 2, deadline := bits v 16 16 }
  | .dest k =>
    { val := field s.arb.reqs[k].dest 0 ||| field s.arb.reqs[k].srcnum 16, mask := 0x1FFFFF, writable := true
      who := fun _ => s.reqOwner k == p, doms := fun _ => reqDoms k
      act := fun _ v s => s.onReq k fun x => { x with dest := bits v 0 16 } }
  | .seq k => roReg (field (s.arb.nextRseq[k]) 0) 0xFFFF
  | .cnt k =>
    let x := s.arb.reqs[k]
    roReg (field x.torn 0 ||| field x.late 8 ||| field x.noroute 16 ||| field x.dropped 24)

inductive OrqReg where
  | used (p : Fin 4)
  | committed (p : Fin 4)
  | peak (p : Fin 4)
  | clear
deriving DecidableEq, Repr

def pairWord (a b : Nat) : Word := BitVec.ofNat 32 (a + 65536 * b)

def orqAccess (p : Fin 32) (r : OrqReg) (s : State) : Access :=
  match r with
  | .used q => roReg (pairWord (s.ports[q].orqUsed .req) (s.ports[q].orqUsed .rsp)) 0x07FF07FF
  | .committed q => roReg (pairWord (s.ports[q].committed .req) (s.ports[q].committed .rsp)) 0x07FF07FF
  | .peak q => roReg (pairWord s.ports[q].peakReq s.ports[q].peakRsp) 0x07FF07FF
  | .clear => clearReg (p == 0) fun s => { s with ports := s.ports.map fun x => { x with peakReq := x.orqUsed .req, peakRsp := x.orqUsed .rsp } }

/-! ### Meanings -/

/-- The image's record that a SHADOW holds for the spare: payload of opaque logic (R177, log 16). -/
def State.imageBytes : Nat → State → List Byte × State
  | 0, s => ([], s)
  | n + 1, s =>
    let (w, s) := s.fromImage
    let (bs, s) := State.imageBytes n s
    (le 4 w ++ bs, s)

/-- The next record of a SHADOW spare: the image's, or the oldest result of an analogue bay with its DEST (R279). -/
def State.spareRecord (s : State) (k : Fin 32) (dest : Half) (blen : BitVec 4) : Option (Half × List Byte) × State :=
  match (fin (k.val - 18) : Option (Fin 9)) with
  | some a =>
    if k.val < 18 then
      let (bs, s) := s.imageBytes (2 * (blen.toNat + 1))
      (some (dest, bs), s)
    else match s.arb.streams[a] with
      | bs :: rest => (some (s.arb.reqs[k].dest, slice bs 0 16), { s with arb := { s.arb with streams := s.arb.streams.set a rest } })
      | [] => (none, s)
  | none => (none, s)

/-- The engine serves the readout port of a SHADOW spare: it keeps the last 64 records (R233). -/
def State.holdRecord (s : State) (r : Fin 3) (k : Fin 32) (dest : Half) (blen : BitVec 4) : State :=
  match s.spareRecord k dest blen with
  | (none, s) => s
  | (some (dest, bs), s) =>
    match s.rep.slots[r] with
    | some x =>
      if x.compares then
        let held := x.held ++ [(dest, bs)]
        (s.onRep r fun x => { x with held := held.drop (held.length - 64), delivered := x.delivered + 1 }).compareRecord r true bs
      else s
    | none => s

/-- Destination and length of the next record of a SHADOW spare that the engine offers after F. -/
def State.heldNext (s : State) (k : Fin 32) : Option (Half × Nat) :=
  match s.shadowOf k false with
  | some r => match s.rep.slots[r] with
    | some x => match x.held with
      | (d, bs) :: _ => some (d, bs.length / 8 - 1)
      | [] => none
    | none => none
  | none => none

/-- What a request of requester k asks for: offset, bytes, B beats less one, destination, and whether its packet is on RSP. -/
def State.asks (s : State) (k : Fin 32) (dl : Half) (blen : BitVec 4) (dest : Half) : Option (Half × Nat × Nat × Half × Bool) :=
  let own := s.offsetOf k
  let packet (bs : List Byte) (rsp : Bool) := some (own, bs.length, xlenOf bs.length, rd 16 bs 0 2, rsp)
  if k.val < 27 then
    match s.heldNext k, (fin (k.val - 18) : Option (Fin 9)) with
    | some (d, n), _ => some (own, recordBytes n, n, d, false)
    | none, some a =>
      if k.val < 18 then some (dl, recordBytes blen.toNat, blen.toNat, dest, false)
      else if s.arb.streams[a].isEmpty then none else some (own, recordBytes 1, 1, s.arb.reqs[k].dest, false)
    | none, none => none
  else if k.val = 27 then
    match s.keeperOut with
    | p :: _ => packet p.bytes true
    | [] => none
  else match (fin (k.val - 28) : Option (Fin 4)) with
    | some q => match s.fwdHead q with
      | some (v, f) => packet f.packet.bytes (Vc.bit v)
      | none => none
    | none => none

/-- The requester holds the spine, or the grant that follows (R279). -/
def State.holds (s : State) (k : Fin 32) : Bool :=
  (match s.arb.holder with | some h => h.k == k | none => false) || (match s.arb.next with | some h => h.k == k | none => false)

/-- A requester raises a request, unless it is masked or has one already: stamped, or refused for want of a route (R279,
R284, R291). -/
def State.raiseReq (s : State) (k : Fin 32) (dl : Half) (blen : BitVec 4) (dest : Half) : State :=
  if s.reqMasked k || s.arb.reqs[k].waiting.isSome || s.holds k then s
  else match s.asks k dl blen dest with
    | none => s
    | some (dl, len, n, d, rsp) =>
      let s := s.stamp k dl len n d rsp
      match s.arb.reqs[k].waiting with
      | some q => if (s.reqPort k q).isSome then s else s.refuseReq k
      | none => s

/-- A readout port presents its DL (R283). -/
def State.presentDl (s : State) (k : Fin 32) (dl : Half) : State := s.onReq k fun x => { x with dl := dl }

/-- ARB_REQUEST_RAISE (R283, R284, R291). `req` is the level of REQ: at 0 a waiting request is withdrawn. A masked
requester's request is dropped, and a SHADOW spare's is the engine's (R290, R233). -/
def execArbRequestRaise (k : Fin 32) (req : Bool) (dl : Half) (blen : BitVec 4) (dest : Half) (s : State) : Outcome :=
  whenHw s fun s =>
    let s := s.presentDl k dl
    if !req then s.onReq k fun x => { x with waiting := none }
    else match s.shadowOf k true with
      | some r => s.holdRecord r k dest blen
      | none => s.raiseReq k dl blen dest

/-- READOUT_RESTAMP (R284). -/
def execReadoutRestamp (k : Fin 18) (dl : Half) (s : State) : Outcome :=
  whenHw s fun s => (s.presentDl ⟨k.val, by omega⟩ dl).restamp ⟨k.val, by omega⟩ dl

/-- ARB_RESTAMP (R284, R295). -/
def execArbRestamp (p : Fin 32) (v : Word) (s : State) : Outcome := whenHw s fun s => s.writeOne p (arbAccess p .restamp) v

/-- Waiting requests that are masked are dropped, and those without a route are refused (R290, R291). -/
def State.sweepRequests (s : State) : State :=
  s.each (List.finRange 32) fun s k =>
    match s.arb.reqs[k].waiting with
    | some q =>
      if s.reqMasked k then s.onReq k fun x => { x with waiting := none }
      else if (s.reqPort k q).isNone then s.refuseReq k else s
    | none => s

/-- ARB_DECISION (R285, R286): in an idle cycle, or in the last beat of the transfer on the spine. -/
def execArbDecision (s : State) : Outcome :=
  whenHw s fun s =>
    if s.arb.holder.isSome && s.arb.next.isSome then s
    else
      let s := s.sweepRequests
      match s.winner with
      | some (k, q) => match s.reqPort k q with
        | some p => s.grant k q p
        | none => s
      | none => s

/-- GSR or a trip holds for a requester: no transfer of it may go on (Table 15-4). -/
def State.cutCause (s : State) (k : Fin 32) : Option Nat :=
  match reqBay k with
  | none => none
  | some i =>
    if (s.dom i).state = .tripped then some 3
    else match (fin k.val : Option (Fin 18)) with
      | some d => if s.gsr d then some 2 else none
      | none => none

/-- The cause of a tear holds for the holder (R288, Table 15-4), with this many bubbles so far. -/
def State.tearCause (s : State) (h : Holder) (cause : Fin 4) (bubbles : Nat) : Bool :=
  if cause = 0 then decide (s.arb.bubbleMax.toNat < bubbles)
  else if cause = 1 then s.reqMasked h.k && decide (0 < bubbles)
  else s.cutCause h.k == some cause.val

/-- The transfer that GSR or a trip has cut off: LATE is judged by the cycle in which beat 0 was taken, if it was (R286). -/
def State.settleCut (s : State) (lead : Option Byte) : State :=
  match s.arb.cut, lead with
  | some h, some n =>
    let t := s.checkLate h n.toNat
    { t with arb := { t.arb with cut := none } }
  | _, _ => { s with arb := { s.arb with cut := none } }

/-- ARB_TEAR (R288). Of GSR and a trip the tear stands already when it comes (R290). `bubbles` counts the cycles with BVALID 0 since the decision; `lead` are those before beat 0, or none
while it has not been taken. -/
def execArbTear (cause : Fin 4) (bubbles : Byte) (lead : Option Byte) (s : State) : Outcome :=
  whenHw s fun s =>
    let s := if 2 ≤ cause.val then s.settleCut lead else s
    match s.arb.holder with
    | none => s
    | some h =>
      if s.tearCause h cause bubbles.toNat then
        let s := match lead with | some n => s.checkLate h n.toNat | none => s
        let (_, injected, s) := if cause = 0 then s.check 0x240 (BitVec.ofNat 8 h.k.val) true else (true, false, s)
        s.tear h cause.val injected
      else s

/-- A transfer reaches its end (R288 to R290): a requester in GSR or TRIPPED has it torn, and so has one that has exceeded
the bubble limit, in truth or by injection. -/
def State.endTransfer (s : State) (h : Holder) (beats : List Byte) (bubbles lead : Nat) : State :=
  let s := s.checkLate h lead
  match s.cutCause h.k with
  | some cause => s.tear h cause false
  | none =>
    let (bad, injected, s) := s.check 0x240 (BitVec.ofNat 8 h.k.val) (s.arb.bubbleMax.toNat < bubbles)
    if bad then s.tear h 0 injected else s.commitTransfer h beats lead

/-- ARB_COMMIT (R289): in the cycle after the last beat. `bubbles` counts those of the transfer, `lead` those of them before
beat 0. -/
def execArbCommit (beats : List Byte) (bubbles lead : Byte) (s : State) : Outcome :=
  whenHw s fun s =>
    match s.arb.holder with
    | none => s
    | some h => s.endTransfer h beats bubbles.toNat (min bubbles.toNat lead.toNat)

/-- FORWARDING_MOVE (R270, R285): a forwarding engine that holds the spine with a packet of this VC has moved it whole; one
that does not asks for the spine. -/
def execForwardingMove (p : Fin 4) (v : Vc) (s : State) : Outcome :=
  whenHw s fun s =>
    let k : Fin 32 := ⟨28 + p.val, by omega⟩
    match s.arb.holder with
    | some h => if h.k = k && h.rsp == Vc.bit v then s.endTransfer h [] 0 0 else s.raiseReq k 0 0 0
    | none => s.raiseReq k 0 0 0

/-- One cycle of a readout port's outputs TORN and REFUSED (R288, R291). -/
def Requester.tick (x : Requester) : Requester :=
  { x with tornOut := x.tornNext, refusedOut := x.refusedNext, tornNext := false, refusedNext := false }

/-- TAKEN of a readout port (R283): the payload beat that it presents in this cycle is taken, after `taken` valid beats of
the transfer. The first two of them are the A burst, which the arbiter writes (R280, R287). The engine takes the beats of a
SHADOW's spare until F, and supplies the held records itself after it (R233, R290). -/
def State.beatTaken (s : State) (k : Fin 32) (bvalid : Bool) (taken : Nat) : Bool :=
  if (s.shadowOf k true).isSome then bvalid
  else match s.arb.holder with
    | some h =>
      h.k == k && bvalid && decide (2 ≤ taken) && decide (taken < h.request.xlen + 3) && decide (h.ck0 + taken ≤ s.ck) &&
        (s.heldNext k).isNone
    | none => false

/-- ARB_CNT_CLEAR (R295). -/
def execArbCntClear (p : Fin 32) (v : Word) (s : State) : Outcome := whenHw s fun s => s.writeOne p (arbAccess p .clear) v

/-- ORQ_CLEAR (R295). -/
def execOrqClear (p : Fin 32) (v : Word) (s : State) : Outcome := whenHw s fun s => s.writeOne p (orqAccess p .clear) v

end Sys2Proof.Machine
end

