-- ==== Sys2Proof/Machine/Repair.lean ====
section
/-!
DEFINITION. In-service repair of bays (12), and the end of a revocation's drain, which a recall and a cut-over wait for
(R223, R235, R330).
-/
namespace Sys2Proof.Machine

/-! ### Choosing the spare (R223) -/

/-- A bay of a repair's type, numbered as a domain. -/
def bayNo (digital : Bool) (b : Nat) : Option Nat :=
  if digital then (if b < 18 then some (9 + b) else none) else if b < 9 then some b else none

/-- The index of a bay within its type. -/
def bayIndex (i : Nat) : Nat := if i < 9 then i else i - 9

/-- The bays of a type in index order. -/
def baysOf (digital : Bool) : List Nat := if digital then (List.range 18).map (9 + ·) else List.range 9

/-- The lowest free spare, or else the lowest lent one, which is recalled. -/
def State.chooseSpare (s : State) (digital : Bool) (orig : Nat) : Option (Nat × Bool) :=
  match (baysOf digital).find? fun i => i ≠ orig && s.freeSpare i with
  | some i => some (i, false)
  | none =>
    ((baysOf digital).find? fun i => i ≠ orig && testBit s.rep.spares i && testBit s.rep.loans i && !s.inRepair i).map fun i => (i, true)

/-- A bay in a repair or chosen for one: calibration jobs on its units end (R157, R225). -/
def State.endBayJobs (s : State) (i : Nat) : State :=
  match (fin i : Option (Fin 32)) with
  | some i => s.endJobs (fun j => j.inDom i) (failed Status.aborted) true
  | none => s

/-! ### Warm-up and comparison (R229, R230) -/

/-- The least warm-up of a digital spare in frames: its DELAY depths and LOOKBACK spans. -/
def digitalWarmup (b : DBay) : Nat :=
  let ck := b.mems.toList.foldl (fun n m =>
    max n (if m.mode = 2 then m.depth.toNat else if m.mode = 3 then entries m.shape * 2 ^ m.decim.toNat else 0)) 0
  max 1 ((ck + 7) / 8)

/-- The gap test of R156 and R224. -/
def State.noGapSource (s : State) : Bool := s.clk.gapSrc = 0 || (s.clk.gapSrc = 6 && s.clk.genInvalid)

/-! ### MEM_COPY (R228) -/

/-- The block and first word of step `n` of a MEM_COPY mask. -/
def copyTarget (mask : BitVec 4) (n : Nat) : Option (Fin 4 × Nat) :=
  match (bitList 4 mask)[n / 16]? with
  | some m => (fin m).map fun m => (m, n % 16 * 64)
  | none => none

/-- Copy one word: an uncorrectable one is written as 0 and counted. -/
def State.copyWord (s : State) (r : Fin 3) (o d : Fin 18) (m : Fin 4) (k : Nat) : State :=
  let (w, bad, s) := s.memRead o m k
  let s := (s.setWord d m k (if bad then 0 else w)).onMem d m fun b => b.clean k
  if bad then s.onRep r fun x => { x with memLost := satInc x.memLost } else s

/-- The gap ends in a step of MEM_COPY: the block is given back in that cycle, and the step is repeated in a later gap
(R156, R228). -/
def State.abandonCopy (s : State) (r : Fin 3) : State :=
  match s.rep.slots[r] with
  | none => s
  | some x =>
    match dBay x.orig, copyTarget x.memCopy (x.copyStep - 1) with
    | some o, some (m, _) =>
      if x.copyStep = 0 || !s.memHeld s.dbays[o].mems[m] then s
      else (s.onMem o m fun b => { b with heldUntil := s.ck }).onRep r fun x => {
        x with copyStep := x.copyStep - 1, memLost := x.memLostWas }
    | _, _ => s

def State.abandonCopies (s : State) : State := s.each (List.finRange 3) State.abandonCopy

/-! ### Cut-over (R231 to R234) -/

/-- The source of the spare that corresponds to a source of the original. -/
def spareSource (x : Repair) (src : BitVec 12) : Option (BitVec 12) :=
  let n := src.toNat
  if sourceDom n == fin x.orig then
    if n < 0x480 then some (BitVec.ofNat 12 (64 * bayIndex x.spare + n % 64))
    else if n < 0x900 then some (BitVec.ofNat 12 (0x480 + 128 * x.spare + n % 128))
    else if n < 0x912 then some (BitVec.ofNat 12 (0x900 + 2 * x.spare + n % 2))
    else none
  else none

/-- Step 1 of R232: one set of routes, at F itself. -/
def State.switchRoutes (s : State) (x : Repair) : State :=
  let act := s.lin.active.foldl (fun m e => match spareSource x e.2 with
    | some src => store 0xFFF m e.1 src
    | none => m) s.lin.active
  { s with lin := { s.lin with active := act } }

/-- Step 2 of R232: PRIMARY and SECONDARY of the octet are exchanged. -/
def State.switchOctet (s : State) (o a : Fin 9) : State :=
  match (List.finRange 8).find? fun c => s.xbar.primary[c].toNat = o.val && s.xbar.secondary[c].toNat = a.val with
  | some c =>
    let pri := s.xbar.primary[c]
    let sec := s.xbar.secondary[c]
    let x2 : Xbar := { s.xbar with primary := s.xbar.primary.set c sec, secondary := s.xbar.secondary.set c pri }
    let x3 : Xbar := { x2 with primaryNow := x2.primaryNow.set c sec, secondaryNow := x2.secondaryNow.set c pri }
    ({ s with xbar := x3 } : State).terminate
  | none => s

/-- Step 2 of R232: the ASB claims move to the spare at repair class. -/
def State.switchClaims (s : State) (o a : Fin 9) : State :=
  let en := s.abays[o].so &&& 0x8080
  let moved (d : AsbDriver) : AsbDriver := if d.bay = o then { d with bay := a, cls := .repair } else d
  let s := { s with xbar := { s.xbar with lines := s.xbar.lines.map fun (d : Option AsbDriver) => d.map moved } }
  let s := s.onAbay a fun b => { b with so := b.so ||| en, soNow := b.so ||| en }
  s.onAbay o fun b => { b with so := b.so &&& 0xFFFF7F7F, soNow := b.so &&& 0xFFFF7F7F }

/-- Exchange two members of a group mask. -/
def swapMember (m : BitVec 18) (o n : Fin 18) : BitVec 18 := if testBit m o.val then setBit (clearBit m o.val) n.val else m

/-- Steps 2 and 3 of R232 for one ADC: group, displacement, queue, tag and EN. -/
def State.switchAdc (s : State) (o n : Fin 18) : State :=
  let s := { s with groups := s.groups.map fun (g : Group) => { g with mask := swapMember g.mask o n } }
  let x := s.adcs[o]
  let s := (s.takeAdc o .repair).2
  let s := s.onAdc o fun y => { y with queue := [], fullArmed := true }
  s.onAdc n fun y => { y with
    queue := (x.queue ++ y.queue).take 64, fullArmed := x.fullArmed, tag := x.tag, ctrl := y.ctrl ||| (x.ctrl &&& 1)
    inside := Vector.replicate 16 none }

/-- LEAD at a boundary (R233): a transfer of the original that is still on the spine has not committed (R289, log 187). -/
def Repair.leadNow (x : Repair) : Nat := x.delivered - x.committed

/-- Records of a COLD original that are formed and not committed: PEND of the image, or the results in the stream buffer,
with the one that waits (R234, R294). -/
def State.coldLost (s : State) (x : Repair) : Nat × State :=
  let k := bayReq x.orig
  let waiting := if s.arb.reqs[k].waiting.isSome then 1 else 0
  match aBay x.orig with
  | some a =>
    let held := if s.holds k then 1 else 0
    (s.arb.streams[a].length - held, { s with arb := { s.arb with streams := s.arb.streams.set a (s.arb.streams[a].take held) } })
  | none =>
    let (w, s) := s.fromImage
    ((bits w 0 4).toNat + waiting, s)

/-- The cut-over at F (R232 to R234). -/
def State.cutOver (s : State) (r : Fin 3) (x : Repair) : State :=
  let n := x.leadNow
  let last := !x.cold && s.holds (bayReq x.orig)
  let s := s.switchRoutes x
  let s := match aBay x.orig, aBay x.spare with
    | some o, some a =>
      let s := (s.switchOctet o a).switchClaims o a
      s.each (List.finRange 2) fun s k => s.switchAdc (adcOf o k) (adcOf a k)
    | _, _ => s
  let (lost, s) := if x.cold then s.coldLost x else (0, s)
  let s := if x.cold then s.skipRseq (bayReq x.orig) lost else s
  let src := s.arb.reqs[bayReq x.orig].srcnum
  let s := s.onReq (bayReq x.spare) fun q => { q with srcnum := src }
  let s := s.onReq (bayReq x.orig) fun q => { q with waiting := none }
  let s := s.onRep r fun y => { y with
    past := true, phase := .cutover, unwarm := y.cold, lost := BitVec.ofNat 16 lost
    lead := BitVec.ofNat 7 n, held := y.held.drop (y.held.length - n), lastBeat := last }
  let s := s.change (.exchange x.orig x.spare)
  let s := if x.cold && 0 < lost then s.repEvent .repRecordsLost r x (bytesOf 2 lost) else s
  s.repEvent .repCutOver r x ([BitVec.ofNat 8 r.val, BitVec.ofNat 8 (bayIndex x.orig), BitVec.ofNat 8 (bayIndex x.spare)] ++ le 6 s.clk.et)

/-- The rules of R231 fix this boundary as F: it opens a gap, unless NO_GAP or ON_LOSS takes any. -/
def State.cutDue (s : State) (x : Repair) : Bool :=
  let lost := x.onLoss && x.origLost
  x.warm && !x.past && !s.halted x &&
    (lost || ((x.cold || x.cutRequested || (x.phase == .ready && x.auto)) && (x.noGap || s.gapOpens)))

/-! ### Recall and the drain (R223, R330) -/

/-- Steps 3 and 4 of R223 after the borrower's revocation. -/
def State.recalled (s : State) (r : Fin 3) : State :=
  match s.rep.slots[r] with
  | none => s
  | some x =>
    if x.phase ≠ RepPhase.recall || s.halted x then s
    else
      let s := match (fin x.spare : Option (Fin 32)) with | some i => s.clearOutputs i | none => s
      let s := match aBay x.spare, dBay x.spare with
        | some a, _ => s.leaveOctet a
        | none, some d => s.repairGsr d
        | none, none => s
      let s := { s with rep := { s.rep with loans := clearBit s.rep.loans x.spare } }
      s.prepare r

/-- A revocation completes, and a recall that waited for it goes on. -/
def State.drainEnds (s : State) (d : Drain) : State :=
  let s := s.drained d
  s.each (List.finRange 3) fun s r => match s.rep.slots[r] with
    | some x => if x.phase = .recall && d.codes.contains (bayCode x.spare) then s.recalled r else s
    | none => s

/-- Every revocation whose drain set is empty completes; its record waits while NVW_DEFER is set (R62, R337). -/
def State.settleDrains (s : State) : State :=
  s.each s.part.drains fun s d => if (s.drainSet d).isEmpty && !s.pwr.nvwDefer then s.drainEnds d else s

/-- REVOCATION_DRAINED (R330, R223). -/
def execRevocationDrained (s : State) : Outcome := whenKpr s State.settleDrains

/-- The drain with FORCE whose limit ends first. -/
def State.nextExpiry (s : State) : Option Drain :=
  s.part.drains.foldl (fun best d =>
    if d.force then
      match best with
      | some (b : Drain) => if d.expiry < b.expiry then some d else best
      | none => some d
    else best) none

/-- DRAIN_LIMIT_EXPIRY (R330): every command still in the set completes with ABORTED, and the revocation completes, or
waits for NVW_DEFER to clear (R62, R337). -/
def execDrainLimitExpiry (s : State) : Outcome :=
  whenKpr s fun s =>
    match s.nextExpiry with
    | none => s
    | some d =>
      let set := s.drainSet d
      let s := s.each set fun s e => s.abortCommand { part := e.part, id := e.id }
      let d2 := { d with aborted := satAdd d.aborted set.length }
      let swap (x : Drain) : Drain := if x = d then d2 else x
      let s := { s with part := { s.part with drains := s.part.drains.map swap } }
      if s.pwr.nvwDefer then s else s.drainEnds d2

/-! ### Registers (Table 12-3) -/

inductive RepReg where
  | spare
  | loan
  | retired
  | events
  | cfg (r : Fin 3)
  | state (r : Fin 3)
  | cmp (r : Fin 3)
  | param (r : Fin 3)
  | warmup (r : Fin 3)
  | maskLo (r : Fin 3)
  | maskHi (r : Fin 3)
  | record (r : Fin 3)
deriving DecidableEq, Repr

def repPhaseCode : RepPhase → Nat
  | .recall => 1
  | .prepare => 2
  | .calibrate => 3
  | .warmup => 4
  | .compare => 5
  | .ready => 6
  | .cutover => 7
  | .retire => 8

/-- The repair that a slot's registers describe: the one under way, or the last. -/
def State.repairOf (s : State) (r : Fin 3) : Option Repair := match s.rep.slots[r] with | some x => some x | none => s.rep.ended[r]

def repCfg (x : Repair) : Word :=
  flag x.digital 0 ||| flag x.cold 1 ||| BitVec.ofNat 32 (16 * bayIndex x.orig + 4096 * bayIndex x.spare + 2 ^ 20 * x.owner.val) |||
    flag x.auto 25 ||| flag x.onLoss 26 ||| flag x.noGap 27

def repState (s : State) (r : Fin 3) : Word :=
  match s.rep.slots[r], s.rep.ended[r] with
  | some x, _ => BitVec.ofNat 32 (repPhaseCode x.phase) ||| flag (s.halted x) 4 ||| flag x.unwarm 5 ||| field x.windows 16
  | none, some x => flag x.unwarm 5 ||| field x.windows 16
  | none, none => 0

def State.repWord (s : State) (r : Fin 3) (f : Repair → Word) : Word := match s.repairOf r with | some x => f x | none => 0

def repAccess (p : Fin 32) (r : RepReg) (s : State) : Access :=
  match r with
  | .spare => roReg (s.rep.spares.setWidth 32) 0x07FFFFFF
  | .loan => roReg (s.rep.loans.setWidth 32) 0x07FFFFFF
  | .retired => roReg (s.rep.retired.setWidth 32) 0x07FFFFFF
  | .events => w1cReg (p == 0) s.rep.events 0x1F .rep 0
  | .cfg r => roReg (s.repWord r repCfg) 0x0FF1F1F3
  | .state r => roReg (repState s r) 0xFFFF003F
  | .cmp r => roReg (s.repWord r (·.mismatch))
  | .param r => roReg (s.repWord r fun x => field x.cmpFrames 0 ||| field x.missTol 16 ||| field x.ftTol 24) 0x3FFFFFFF
  | .warmup r => roReg (s.repWord r (·.effective))
  | .maskLo r => roReg (s.repWord r fun x => bits x.mask 0 32)
  | .maskHi r => roReg (s.repWord r fun x => bits x.mask 32 32)
  | .record r => roReg (s.repWord r fun x => field x.lead 0 ||| field x.memLost 8 ||| field x.lost 16) 0xFFFFFF7F

/-- The eight words of a slot, as REPAIR_STATUS_GET returns them. Reserved bits are 0 (log 152). -/
def repWords (s : State) (r : Fin 3) : List Word :=
  [s.repWord r repCfg, repState s r, s.repWord r (·.mismatch),
   s.repWord r fun x => field x.cmpFrames 0 ||| field x.missTol 16 ||| field x.ftTol 24, s.repWord r (·.effective),
   s.repWord r fun x => bits x.mask 0 32, s.repWord r fun x => bits x.mask 32 32,
   s.repWord r fun x => field x.lead 0 ||| field x.memLost 8 ||| field x.lost 16]

/-! ### Meanings: moments -/

/-- RECALL_NOTICE_EXPIRY (R223): the borrower's ownership is revoked with FORCE; without a borrower the recall goes on. -/
def execRecallNoticeExpiry (r : Fin 3) (s : State) : Outcome :=
  whenKpr s fun s =>
    match s.rep.slots[r] with
    | none => s
    | some x =>
      if x.phase ≠ RepPhase.recall || s.halted x then s
      else
        let code := bayCode x.spare
        let o := s.ownOf code
        if o.owner ≠ 0 then
          (if s.part.changes.contains (.recall o.owner code) then s else s.change (.recall o.owner code))
        else if o.draining then s else s.recalled r

/-- REPAIR_SPARE_PREPARED (R226, R227): the spare is ON, copied, loaded or connected, and MEM_COPY is done. -/
def execRepairSparePrepared (r : Fin 3) (s : State) : Outcome :=
  whenHw s fun s =>
    match s.rep.slots[r] with
    | none => s
    | some x =>
      let on := match (fin x.spare : Option (Fin 32)) with | some i => s.isOn i | none => false
      if x.phase ≠ RepPhase.prepare || s.halted x || !on then s
      else match aBay x.spare, dBay x.orig, dBay x.spare with
        | some a, _, _ =>
          if s.xbar.pending then s
          else
            let units := (List.finRange 2).map (fun k => (adcOf a k).val) ++ (List.range 8).map fun k => 0x20 + 8 * a.val + k
            let todo (u : Nat) : List (Nat × BitVec 4) :=
              ((bitList 8 x.calMask).filter fun k => match unitOf u with | some c => c.suits k | none => false).map fun k => (u, BitVec.ofNat 4 k)
            (s.onRep r fun x => { x with phase := .calibrate, calLeft := units.flatMap todo }).feedRepair r
        | none, some o, some d =>
          if s.dbays[d].cfg ≠ CfgState.loaded || x.copyStep < 16 * (bitList 4 x.memCopy).length then s
          else
            let ob := s.dbays[o]
            let copy (b : MemBlock) (c : MemBlock) : MemBlock :=
              { b with scrub := c.scrub, decim := c.decim, af := c.af, ae := c.ae, depth := c.depth }
            let s := s.onDbay d fun b => { b with
              mems := Vector.ofFn fun m => copy b.mems[m] ob.mems[m], peep := ob.peep, faultAction := ob.faultAction }
            let least := digitalWarmup s.dbays[d]
            s.onRep r fun x => { x with phase := .warmup, effective := if x.warmup.toNat < least then BitVec.ofNat 32 least else x.warmup }
        | none, _, _ => s

/-- REPAIR_MEM_COPY_STEP (R156, R228): 64 words of a block, with the original's window held for 96 CK that fit in the
gap. -/
def execRepairMemCopyStep (r : Fin 3) (s : State) : Outcome :=
  whenHw s fun s =>
    match s.rep.slots[r] with
    | none => s
    | some x =>
      match dBay x.orig, dBay x.spare, copyTarget x.memCopy x.copyStep with
      | some o, some d, some (m, k0) =>
        if x.phase ≠ RepPhase.prepare || s.halted x || s.dbays[d].cfg ≠ CfgState.loaded || !s.gapFits || s.memHeld s.dbays[o].mems[m] then s
        else
          let s := s.onMem o m fun b => { b with window := false, heldUntil := s.ck + 96 }
          let s := s.onRep r fun x => { x with memLostWas := x.memLost }
          let s := s.each (List.range 64) fun s j => s.copyWord r o d m (k0 + j)
          s.onRep r fun x => { x with copyStep := x.copyStep + 1 }
      | _, _, _ => s

/-- REPAIR_WARMUP_END (R226, R229): COMPARE in SHADOW; a COLD repair waits for its boundary. -/
def execRepairWarmupEnd (r : Fin 3) (s : State) : Outcome :=
  whenHw s fun s =>
    match s.rep.slots[r] with
    | none => s
    | some x =>
      if x.phase ≠ RepPhase.warmup || s.halted x then s
      else s.onRep r fun x => { x with
        phase := if x.cold then .cutover else .compare, delivered := 0, committed := 0, held := [], origLost := false
        missed := 0, edges := [], crcSpare := [], crcOrig := [] }

/-- REPAIR_COMPARE_WINDOW_END (R230): the window passes with at most MISS_TOL mismatches, and the next one begins. -/
def execRepairCompareWindowEnd (r : Fin 3) (s : State) : Outcome :=
  whenHw s fun s =>
    match s.rep.slots[r] with
    | none => s
    | some x =>
      if !x.compares then s
      else
        let pass := decide (x.missed ≤ x.missTol.toNat)
        let hold := s.halted x
        let s := s.onRep r fun x => { x with
          missed := 0
          windows := if pass then satInc x.windows else x.windows
          phase := if hold then x.phase else if pass then .ready else .compare }
        if pass && !hold && x.phase = .compare then s.repEvent .repReady r x [BitVec.ofNat 8 r.val] else s

/-- REPAIR_CUTOVER_BOUNDARY (R231 to R233): a candidate boundary; a LEAD above 64 defers it. -/
def execRepairCutoverBoundary (r : Fin 3) (s : State) : Outcome :=
  whenHw s fun s =>
    match s.rep.slots[r] with
    | none => s
    | some x =>
      if !s.cutDue x then s
      else if !x.cold && 64 < x.leadNow then s.repEvent .repMismatch r x [BitVec.ofNat 8 r.val] .ms
      else s.cutOver r x

/-- REPAIR_UNWARM_END (R234). -/
def execRepairUnwarmEnd (r : Fin 3) (s : State) : Outcome :=
  whenHw s fun s =>
    let f (x : Repair) : Repair := if x.past then { x with unwarm := false } else x
    { s with rep := { s.rep with
      slots := upd s.rep.slots r fun (x : Option Repair) => x.map f
      ended := if s.rep.slots[r].isSome then s.rep.ended else upd s.rep.ended r fun (x : Option Repair) => x.map f } }

/-- The revocation of a cut-over has drained. -/
def State.exchangeDrained (s : State) (x : Repair) : Bool :=
  !s.part.changes.contains (.exchange x.orig x.spare) && !(s.part.drains.any fun d => d.codes.contains (bayCode x.orig))

/-- The retired original: EMPTY, not FAULTED, in REP_RETIRED; the spare leaves REP_SPARE, and claims made at repair class
become the owner's (R235, log 31). -/
def State.retire (s : State) (r : Fin 3) (x : Repair) : State :=
  let s := match dBay x.orig with
    | some o => s.onDbay o fun b => { b with cfg := .empty, cause := 0, gsrHold := false }
    | none => s
  let s := match aBay x.orig, aBay x.spare with
    | some o, some a =>
      let user (d : AsbDriver) : AsbDriver := if d.bay = a && d.cls = Cls.repair then { d with cls := Cls.user } else d
      let s := { s with xbar := { s.xbar with lines := s.xbar.lines.map fun (d : Option AsbDriver) => d.map user } }
      s.each (List.finRange 2) fun s k => s.giveAdc (adcOf o k)
    | _, _ => s
  let s := { s with rep := { s.rep with retired := setBit s.rep.retired x.orig, spares := clearBit s.rep.spares x.spare } }
  s.freeRepair r { x with phase := .retire } (done [BitVec.ofNat 8 (bayIndex x.spare)])

/-- RETIRE goes on once the revocation has drained: the original is turned OFF, and once it is OFF the repair is complete
(R235). -/
def State.retireStep (s : State) (r : Fin 3) (x : Repair) : State :=
  match (fin x.orig : Option (Fin 32)) with
  | none => s
  | some i =>
    let st := (s.dom i).state
    if st = .off || st = .tripped then
      (match dBay x.orig with | some o => s.clearInputs o | none => s).retire r x
    else if (s.dom i).wantOff || st ≠ .on then s
    else (match dBay x.orig with | some o => s.clearInputs o | none => s).askOff i

/-- REPAIR_RETIRE_COMPLETE (R226, R235): with the held records drained and the original's last beat past RETIRE begins, and it goes on with the revocation. -/
def execRepairRetireComplete (r : Fin 3) (s : State) : Outcome :=
  whenKpr s fun s =>
    match s.rep.slots[r] with
    | none => s
    | some x =>
      if !x.past || s.halted x || !x.held.isEmpty || x.lastBeat then s
      else
        let s := s.onRep r fun x => { x with phase := .retire }
        if s.exchangeDrained x then s.retireStep r x else s

/-! ### Meanings: commands (Table 12-2) -/

/-- The operands of REPAIR_START. -/
structure RepairArgs where
  type : Byte
  orig : Byte
  mode : Byte
  source : Byte
  calMask : Byte
  memCopy : Byte
  flags : Byte
  warmup : Word
  cmpFrames : Half
  missTol : Byte
  ftTol : Byte
  mask : BitVec 64

/-- The limits of R224 to R231. -/
def RepairArgs.inRange (a : RepairArgs) : Bool :=
  a.type.toNat ≤ 1 && a.mode.toNat ≤ 1 && (bayNo (a.type = 1) a.orig.toNat).isSome && a.flags.toNat ≤ 15 && a.memCopy.toNat ≤ 15 &&
    a.ftTol.toNat ≤ 63 && (a.mode = 1 || a.cmpFrames ≠ 0) && (a.type = 0 || a.source.toNat < 32 || a.source = 0xFF)

/-- The repair as it is accepted. -/
def RepairArgs.repair (a : RepairArgs) (c : CmdRef) (orig spare : Nat) : Repair where
  cmd := c
  digital := a.type = 1
  cold := a.mode = 1
  orig := orig
  spare := spare
  owner := c.part
  auto := testBit a.flags 0
  onLoss := testBit a.flags 1
  noGap := testBit a.flags 2
  source := a.source
  calMask := if a.type = 1 then 0 else a.calMask
  memCopy := if a.type = 1 then bits a.memCopy 0 4 else 0
  warmup := a.warmup
  effective := a.warmup
  cmpFrames := a.cmpFrames
  missTol := a.missTol
  ftTol := bits a.ftTol 0 6
  mask := a.mask
  phase := .prepare
  past := false
  unwarm := false
  waitsLoad := false
  windows := 0
  mismatch := 0
  missed := 0
  edges := []
  crcSpare := []
  crcOrig := []
  cutRequested := false
  origLost := false
  lead := 0
  memLost := 0
  memLostWas := 0
  lost := 0
  copyStep := 0
  delivered := 0
  committed := 0
  held := []
  lastBeat := false
  calLeft := []

/-- What refuses a digital repair: the image of the source, and the blocks of MEM_COPY (R224, R228). -/
def State.digitalRefused (s : State) (a : RepairArgs) (part : Fin 32) (o : Fin 18) : Option Byte :=
  let img := if a.source = 0xFF && s.cfg.holder ≠ some part then none else s.sourceImage a.source
  let same := match img with | some img => rd 64 img 16 8 == s.dbays[o].design | none => false
  if !same && !testBit a.flags 3 then some Status.unitMismatch
  else if (List.finRange 4).any fun m => testBit a.memCopy m.val && s.dbays[o].mems[m].mode ≠ 0 then some Status.outOfRange
  else none

/-- A bay, numbered as a domain, is SUSPECT (R59). -/
def State.baySuspect (s : State) (i : Nat) : Bool := testBit s.pwr.suspect i

/-- The slot, original and spare of a repair, and whether the spare is lent; or the code that refuses it (R59, R223, R224). -/
def State.repairChoice (s : State) (part : Fin 32) (a : RepairArgs) : Except Byte (Fin 3 × Nat × Nat × Bool) :=
  match bayNo (a.type = 1) a.orig.toNat with
  | none => .error Status.outOfRange
  | some orig =>
    let steps := a.mode = 0 && (a.calMask ≠ 0 || a.memCopy ≠ 0)
    let refused := match dBay orig with | some o => s.digitalRefused a part o | none => none
    if !a.inRange then .error Status.outOfRange
    else if s.baySuspect orig then .error Status.hwMismatch
    else match (List.finRange 3).find? fun r => s.rep.slots[r].isNone with
      | none => .error Status.conflict
      | some r =>
        if s.inRepair orig then .error Status.conflict
        else if (steps || !testBit a.flags 2) && s.noGapSource then .error Status.notReady
        else match refused, s.chooseSpare (a.type = 1) orig with
          | some code, _ => .error code
          | none, none => .error Status.notReady
          | none, some (spare, lent) => if s.baySuspect spare then .error Status.hwMismatch else .ok (r, orig, spare, lent)

/-- The repair begins: its slot is taken, jobs on both bays end, and the spare is recalled or prepared (R223, R225, R227). -/
def State.beginRepair (s : State) (r : Fin 3) (x : Repair) (lent : Bool) : State :=
  let x := if lent then { x with phase := RepPhase.recall } else x
  let s := { s with rep := { s.rep with slots := s.rep.slots.set r (some x) } }
  let s := (s.endBayJobs x.orig).endBayJobs x.spare
  if lent then
    s.raise { ev := .loanRecalled, unit := BitVec.ofNat 8 r.val, part := (s.ownOf (bayCode x.spare)).owner, marks := [x.orig, cfgMark x.orig]
              args := [if x.digital then 1 else 0, BitVec.ofNat 8 (bayIndex x.spare)] }
  else s.prepare r

def runRepairStart (c : CmdRef) (a : RepairArgs) : Run := fun s =>
  match s.repairChoice c.part a with
  | .error code => (s, some (failed code))
  | .ok (r, orig, spare, lent) => (s.beginRepair r (a.repair c orig spare) lent, none)

/-- The body of ACCEPTED: the number of the repair that begins at once (Table 12-2). -/
def repairBody (part : Fin 32) (a : RepairArgs) (s : State) : List Byte :=
  match s.repairChoice part a with
  | .ok (r, _) => [BitVec.ofNat 8 r.val]
  | .error _ => []

/-- REPAIR_START (R223 to R225, R302). -/
def execRepairStart (h : Header) (type orig mode source calMask memCopy flags : Byte) (warmup : Word) (cmpFrames : Half)
    (missTol ftTol : Byte) (mask : BitVec 64) (s : State) : Outcome :=
  let a : RepairArgs := {
    type := type, orig := orig, mode := mode, source := source, calMask := calMask, memCopy := memCopy, flags := flags
    warmup := warmup, cmpFrames := cmpFrames, missTol := missTol, ftTol := ftTol, mask := mask }
  let code := (bayNo (type = 1) orig.toNat).map bayCode
  darem (.repairStart h type orig mode source calMask memCopy flags warmup cmpFrames missTol ftTol mask) h
    { op := 0x60, long := true, codes := code.toList, acceptBody := repairBody h.part a
      allowed := match code with | some c => 1 < type.toNat || s.owns h.part c | none => true }
    ([type, orig, mode, source, calMask, memCopy, flags] ++ le 4 warmup ++ le 2 cmpFrames ++ [missTol, ftTol] ++ le 8 mask)
    (runRepairStart (refOf h) a) s

/-- The repair of a REP operand. -/
def State.repairArg (s : State) (rep : Byte) : Option (Fin 3 × Repair) :=
  match (fin rep.toNat : Option (Fin 3)) with
  | some r => s.rep.slots[r].map fun x => (r, x)
  | none => none

/-- The sender owns the original of a REP operand; a slot without a repair is left to the run. -/
def State.ownsRepair (s : State) (p : Fin 32) (rep : Byte) : Bool :=
  match s.repairArg rep with
  | some (_, x) => s.owns p (bayCode x.orig) || x.past && x.owner == p
  | none => true

def repCodes (s : State) (rep : Byte) : List Nat := match s.repairArg rep with | some (_, x) => [bayCode x.orig] | none => []

def runRepairCutover (rep force : Byte) : Run := fun s =>
  if 2 < rep.toNat || 1 < force.toNat then (s, some (failed Status.outOfRange))
  else match s.repairArg rep with
    | none => (s, some (failed Status.notReady))
    | some (r, x) =>
      if x.past then (s, some (done []))
      else if s.halted x then (s, some (failed Status.hwMismatch))
      else if !x.warm || (force = 0 && x.phase ≠ RepPhase.ready) then (s, some (failed Status.notReady))
      else (s.onRep r fun x => { x with cutRequested := true }, some (done []))

/-- REPAIR_CUTOVER (R231, R236). -/
def execRepairCutover (h : Header) (rep force : Byte) (s : State) : Outcome :=
  darem (.repairCutover h rep force) h { op := 0x61, allowed := s.ownsRepair h.part rep, codes := repCodes s rep } [rep, force]
    (runRepairCutover rep force) s

def runRepairAbort (rep : Byte) : Run := fun s =>
  if 2 < rep.toNat then (s, some (failed Status.outOfRange))
  else match s.repairArg rep with
    | none => (s, some (failed Status.notReady))
    | some (r, x) =>
      if x.past then (s, some (failed Status.conflict))
      else if x.phase ≠ RepPhase.recall && s.baySuspect x.spare then (s, some (failed Status.hwMismatch))
      else (s.dropRepair r (failed Status.aborted), some (done []))

/-- REPAIR_ABORT (R59, R237). -/
def execRepairAbort (h : Header) (rep : Byte) (s : State) : Outcome :=
  darem (.repairAbort h rep) h { op := 0x62, allowed := h.part == 0 || s.ownsRepair h.part rep, codes := repCodes s rep } [rep]
    (runRepairAbort rep) s

def runRepairLend (c : CmdRef) (type bay part : Byte) : Run := fun s =>
  match bayNo (type = 1) bay.toNat, (fin part.toNat : Option (Fin 32)) with
  | some i, some p =>
    if 1 < type.toNat || p = 0 then (s, some (failed Status.outOfRange))
    else (s.change (.lend c p (bayCode i)), none)
  | _, _ => (s, some (failed Status.outOfRange))

def typeCodes (type bay : Byte) : List Nat := ((bayNo (type = 1) bay.toNat).map bayCode).toList

/-- REPAIR_LEND (R222, R329). -/
def execRepairLend (h : Header) (type bay part : Byte) (s : State) : Outcome :=
  darem (.repairLend h type bay part) h { op := 0x63, allowed := h.part == 0, codes := typeCodes type bay } [type, bay, part]
    (runRepairLend (refOf h) type bay part) s

/-- A retired bay is OFF and EMPTY (R221). -/
def State.returnable (s : State) (i : Nat) : Bool :=
  (match (fin i : Option (Fin 32)) with | some d => (s.dom d).state == .off | none => false) &&
  (match dBay i with | some d => s.dbays[d].cfg == .empty | none => true)

def runRepairReturn (c : CmdRef) (type bay : Byte) : Run := fun s =>
  match bayNo (type = 1) bay.toNat with
  | none => (s, some (failed Status.outOfRange))
  | some i =>
    let o := s.ownOf (bayCode i)
    if 1 < type.toNat then (s, some (failed Status.outOfRange))
    else if s.inRepair i then (s, some (failed Status.notReady))
    else if testBit s.rep.retired i then
      if s.returnable i then
        ({ s with rep := { s.rep with retired := clearBit s.rep.retired i, spares := setBit s.rep.spares i } }, some (done []))
      else (s, some (failed Status.notReady))
    else if testBit s.rep.loans i && o.owner ≠ 0 then (s.change (.revoke c o.owner false 0 [bayCode i]), none)
    else (s, some (failed Status.notReady))

/-- REPAIR_RETURN (R221, R222). -/
def execRepairReturn (h : Header) (type bay : Byte) (s : State) : Outcome :=
  darem (.repairReturn h type bay) h { op := 0x64, allowed := h.part == 0, codes := typeCodes type bay } [type, bay]
    (runRepairReturn (refOf h) type bay) s

def runRepairStatusGet (rep : Byte) : Run := fun s =>
  match (fin rep.toNat : Option (Fin 3)) with
  | none => (s, some (failed Status.outOfRange))
  | some r => (s, some (done ((repWords s r).flatMap (le 4))))

/-- REPAIR_STATUS_GET (R239). -/
def execRepairStatusGet (h : Header) (rep : Byte) (s : State) : Outcome :=
  darem (.repairStatusGet h rep) h { op := 0x65, idem := true } [rep] (runRepairStatusGet rep) s

end Sys2Proof.Machine
end

