-- ==== Sys2Proof/Machine/Firmware.lean ====
section
/-!
DEFINITION. Keeper firmware (19): images and their checks, slots, writing, verification, the commands and the registers.
The restarts that a switchover and a rollback make stand in Restart.lean.
-/
namespace Sys2Proof.Machine

/-! ### The image (R355, R356) -/

def fwVersion (h : List Byte) : Word := rd 32 h 0x10 4
def fwSvn (h : List Byte) : Word := rd 32 h 0x14 4
def fwLen (h : List Byte) : Nat := (rd 32 h 0x18 4).toNat

/-- MAGIC, FORMAT, HDR_LEN, IMAGE_LEN and KEY_ID (Table 19-2, step 3). -/
def fwFormOk (h : List Byte) : Bool :=
  rd 32 h 0 4 == 0x5A4B4657 && rd 16 h 4 2 == 1 && rd 16 h 6 2 == 256 && fwLen h % 16 == 0 && 256 ≤ fwLen h &&
    fwLen h ≤ 4194304 && (rd 8 h 0x0E 1).toNat ≤ 1

/-- TYPE and MIN_HWREV (step 4). -/
def fwTypeOk (h : List Byte) : Bool := rd 32 h 8 4 == 0x5A546432 && (rd 8 h 0x0C 1).toNat ≤ Config.hwRev.toNat

/-- Binding (step 5). -/
def fwBindOk (h : List Byte) : Bool := !testBit (rd 8 h 0x0D 1) 0 || rd 49 h 0x20 8 == Config.dieId

/-- Signature over bytes 0x00 to 0x7F under the key that KEY_ID selects, r then s (R355, step 6, log 15). -/
def fwSigned (h : List Byte) : Bool :=
  let id := rd 8 h 0x0E 1
  P256.verifies (Config.fwKeyX id, Config.fwKeyY id) (bigEndian (sha256 (slice h 0 0x80))) (bigEndian (slice h 0x80 32)) (bigEndian (slice h 0xA0 32))

/-- Steps 3 to 7 of Table 19-2: the first that fails gives the outcome. -/
def fwHeaderCheck (floor : Word) (h : List Byte) : Option Reply :=
  if !fwFormOk h then some (failed Status.badImage [1])
  else if !fwTypeOk h then some (failed Status.badImage [2])
  else if !fwBindOk h then some (failed Status.unitMismatch)
  else if !fwSigned h then some (failed Status.badImage [3])
  else if (fwSvn h).toNat < floor.toNat then some (failed Status.badImage [4])
  else none

/-- LENGTH of a slot. -/
def FwSlot.length (x : FwSlot) : Nat :=
  if x.factory then Config.factoryLength.toNat else if x.header.isEmpty then 0 else 256 + x.body.length

/-- VERSION and SVN of a slot's image. -/
def FwSlot.version (x : FwSlot) : Word := if x.factory then Config.factoryVersion else fwVersion x.header
def FwSlot.svn (x : FwSlot) : Word := if x.factory then Config.factorySvn else fwSvn x.header

/-- BODY_HASH matches (R360). -/
def FwSlot.hashOk (x : FwSlot) : Bool := sha256 x.body == slice x.header 0x40 32

/-- The full check of a slot (R360): the header's steps first, which factory firmware passes but for the floor (log 10), and
then the hash, by which a corrupted image fails (log 173). -/
def FwSlot.check (x : FwSlot) (floor : Word) : Option Reply :=
  let header := if x.factory then (if x.svn.toNat < floor.toNat then some (failed Status.badImage [4]) else none)
    else fwHeaderCheck floor x.header
  let body := !x.corrupted && (x.factory || (x.length = fwLen x.header && x.hashOk))
  match header with
  | some r => some r
  | none => if body then none else some (failed Status.badImage [5])

/-- The boot check of R366: signature, BODY_HASH and floor. -/
def FwSlot.boots (x : FwSlot) (floor : Word) : Bool :=
  !x.corrupted && (x.factory || (!x.header.isEmpty && fwSigned x.header && x.length == fwLen x.header && x.hashOk)) && floor.toNat ≤ x.svn.toNat

/-- The slot's directory holds VALID, of which VERIFIED is the volatile form (R361). -/
def FwSlot.recordedValid (x : FwSlot) : Bool := x.state == .valid || x.state == .verified

def otherSlot (k : Fin 2) : Fin 2 := if k = 0 then 1 else 0

/-- The boot selector names a slot. Under the bar of R62 its commit waits, and flash keeps the selector before it. -/
def Fw.select (x : Fw) (bar : Bool) (k : Fin 2) (trial : Bool) (tries : BitVec 2) : Fw :=
  { x with
    active := k, trial := trial, tries := tries
    stored := if bar then some (x.stored.getD (x.active, x.trial, x.tries)) else none }

/-- What a power loss leaves of the selector: the one that flash holds. -/
def Fw.reload (x : Fw) : Fw :=
  match x.stored with
  | some (k, trial, tries) => { x with active := k, trial := trial, tries := tries, stored := none }
  | none => x

def State.onFw (s : State) (f : Fw → Fw) : State := { s with fw := f s.fw }
def State.onFwSlot (s : State) (k : Fin 2) (f : FwSlot → FwSlot) : State := s.onFw fun x => { x with slots := upd x.slots k f }

/-- A slot becomes WORN (R367). -/
def State.wearOut (s : State) (k : Fin 2) (det : BitVec 10) (injected : Bool) : State :=
  if s.fw.slots[k].worn then s
  else (s.onFwSlot k fun x => { x with worn := true }).raise {
    ev := .fwSlotWorn, det := det, unit := BitVec.ofNat 8 k.val, injected := injected }

/-- Highest erase count of a slot's blocks. -/
def FwSlot.maxErases (x : FwSlot) : Nat := x.erases.toList.foldl max 0

/-! ### Boot check and fallback (R366) -/

/-- The flash of a slot is corrupted from here on. -/
def State.corruptSlot (s : State) (k : Fin 2) (now : Bool) : State :=
  if now then s.onFwSlot k fun x => { x with corrupted := true } else s

/-- At every boot the active slot is checked; on a failure the other boots if it passes, else the keeper stays in
RECOVERY. The operands say whether the flash of a slot has been corrupted. -/
def State.bootCheck (s : State) (corruptA corruptB : Bool) : State :=
  let s := (s.corruptSlot 0 corruptA).corruptSlot 1 corruptB
  let ok (k : Fin 2) : Bool := s.fw.slots[k].boots s.fw.floor
  let a := s.fw.active
  let b := otherSlot a
  let judge (x : FwSlot) (good : Bool) : FwSlot :=
    if good then { x with state := if x.state = .verified then .verified else .valid }
    else { x with state := if x.recordedValid then .written else x.state }
  let s := s.onFwSlot a fun x => judge x (ok a)
  if ok a then s.onFw fun x => { x with recovery := false }
  else
    let s := s.onFwSlot b fun x => judge x (ok b)
    if ok b then s.onFw fun x => { x.select s.pwr.nvwDefer b false 0 with fallback := true, recovery := false }
    else s.onFw fun x => { x with recovery := true }

/-! ### Registers (Table 19-4) -/

inductive FwReg where
  | status
  | floor
  | confirmTime
  | confirmLeft
  | events
  | slotState (k : Fin 2)
  | slotLength (k : Fin 2)
  | slotSvn (k : Fin 2)
  | slotWear (k : Fin 2)
deriving DecidableEq, Repr

def fwStateCode : FwState → Nat
  | .empty => 0
  | .writing => 1
  | .written => 2
  | .valid => 3
  | .verified => 4

def fwStatus (x : Fw) : Word :=
  BitVec.ofNat 32 x.active.val ||| flag x.trial 1 ||| flag x.recovery 2 ||| field x.lastStart 4 ||| field x.tries 8

def fwSlotState (x : FwSlot) : Word := BitVec.ofNat 32 (fwStateCode x.state) ||| flag x.worn 4

/-- The registers of a slot, in order. -/
def fwSlotWords (x : FwSlot) : List Word :=
  [fwSlotState x, BitVec.ofNat 32 x.length, x.svn, BitVec.ofNat 32 x.maxErases]

def fwAccess (p : Fin 32) (r : FwReg) (s : State) : Access :=
  match r with
  | .status => roReg (fwStatus s.fw) 0x337
  | .floor => roReg s.fw.floor
  | .confirmTime => rwReg (field s.fw.confirmTime 0) 0xFFFF (p == 0) (range := fun v => 10 ≤ (bits v 0 16).toNat) fun v s =>
      s.onFw fun x => { x with confirmTime := bits v 0 16 }
  | .confirmLeft => roReg (field s.fw.confirmLeft 0) 0xFFFF
  | .events => w1cReg (p == 0) s.fw.events 0x1F .fw 0
  | .slotState k => roReg (fwSlotState s.fw.slots[k]) 0x17
  | .slotLength k => roReg (BitVec.ofNat 32 s.fw.slots[k].length) 0x7FFFFF
  | .slotSvn k => roReg s.fw.slots[k].svn
  | .slotWear k => roReg (BitVec.ofNat 32 s.fw.slots[k].maxErases) 0x1FFFF

/-! ### Meanings: moments -/

/-- FW_ERASE_COMPLETE (R357, R367): the blocks are erased and the header programmed, or a verification failed twice. The
header waits while NVW_DEFER is set (R359). A slot that an earlier erase has worn is not written again. -/
def execFwEraseComplete (ok : Bool) (s : State) : Outcome :=
  whenRom s fun s =>
    match s.fw.erasing with
    | [] => s
    | (c, k, h) :: rest =>
      if s.pwr.nvwDefer then s else
      let s := s.onFw fun x => { x with erasing := rest }
      if s.fw.slots[k].worn then s.finish c (failed Status.slotWorn) else
      let blocks := (fwLen h + 65535) / 65536
      let wear (x : FwSlot) : FwSlot := { x with
        erases := Vector.ofFn fun i => x.erases[i] + if i.val < blocks then 1 else 0
        header := [], body := [], factory := false, corrupted := false, state := .empty }
      let s := s.onFwSlot k wear
      let (bad, injected, s) := s.check 0x1C1 (BitVec.ofNat 8 k.val) (!ok)
      if bad then (s.wearOut k 0x1C1 injected).finish c (failed Status.slotWorn)
      else if 100000 ≤ s.fw.slots[k].maxErases then (s.wearOut k 0 false).finish c (failed Status.slotWorn)
      else (s.onFwSlot k fun x => { x with header := h, state := if fwLen h = 256 then .written else .writing }).finish c (done [])

/-- FW_VERIFY_COMPLETE (R360): the slot becomes VERIFIED, or WRITTEN after a mismatch. Where that changes the directory in
flash, it waits while NVW_DEFER is set. -/
def execFwVerifyComplete (s : State) : Outcome :=
  whenRom s fun s =>
    match s.fw.verifying with
    | [] => s
    | (c, k) :: rest =>
      if s.pwr.nvwDefer && (s.fw.slots[k].check s.fw.floor).isNone != s.fw.slots[k].recordedValid then s else
      let s := s.onFw fun x => { x with verifying := rest }
      match s.fw.slots[k].check s.fw.floor with
      | none => (s.onFwSlot k fun x => { x with state := .verified }).finish c (done [])
      | some r =>
        let drop (x : FwSlot) : FwSlot := { x with state := if x.recordedValid then .written else x.state }
        (s.onFwSlot k drop).finish c r

/-- FW_CONFIRM_TICK (R364): one second under TRIAL; the count is paused while NVW_DEFER is set. -/
def execFwConfirmTick (s : State) : Outcome :=
  whenRom s fun s =>
    if s.fw.trial && !s.pwr.nvwDefer then
      s.onFw fun x => { x with confirmLeft := if x.confirmLeft = 0 then 0 else x.confirmLeft - 1 }
    else s

/-! ### Meanings: commands (Table 19-3) -/

/-- Reserved bits of register words are sent as 0 (log 152). -/
def runFwInfoGet : Run := fun s =>
  (s, some (done (([fwStatus s.fw, s.fw.floor, field s.fw.confirmLeft 0] ++ fwSlotWords s.fw.slots[0] ++ fwSlotWords s.fw.slots[1]).flatMap (le 4))))

/-- FW_INFO_GET (R361). -/
def execFwInfoGet (h : Header) (s : State) : Outcome := darem (.fwInfoGet h) h { op := 0x80, idem := true } [] runFwInfoGet s

def runFwWriteBegin (c : CmdRef) (slot : Byte) (header : List Byte) : Run := fun s =>
  match (fin slot.toNat : Option (Fin 2)) with
  | none => (s, some (failed Status.outOfRange))
  | some k =>
    if k = s.fw.active || s.fw.trial then (s, some (failed Status.conflict))
    else if s.fw.slots[k].worn then (s, some (failed Status.slotWorn))
    else match fwHeaderCheck s.fw.floor header with
      | some r => (s, some r)
      | none =>
        let s := s.onFwSlot k fun x => { x with state := .empty, header := [], body := [], factory := false, corrupted := false }
        (s.onFw fun x => { x with erasing := x.erasing ++ [(c, k, header)] }, none)

/-- FW_WRITE_BEGIN (R357). -/
def execFwWriteBegin (h : Header) (slot : Byte) (header : List Byte) (s : State) : Outcome :=
  darem (.fwWriteBegin h slot header) h
    { op := 0x81, layout := header.length = 256, allowed := h.part == 0, durable := true, long := true } (slot :: header)
    (runFwWriteBegin (refOf h) slot header) s

def runFwWrite (slot : Byte) (offset : Word) (data : List Byte) : Run := fun s =>
  match (fin slot.toNat : Option (Fin 2)) with
  | none => (s, some (failed Status.outOfRange))
  | some k =>
    let x := s.fw.slots[k]
    let n := data.length
    if x.state ≠ .writing || s.fw.erasing.any (fun y => y.2.1 == k) then (s, some (failed Status.notReady))
    else if offset.toNat ≠ x.length || fwLen x.header < x.length + n then
      (s, some (failed Status.outOfRange))
    else if x.worn then (s, some (failed Status.slotWorn))
    else
      let (fails, s) := s.drawFlash
      let (bad, injected, s) := s.check 0x1C1 (BitVec.ofNat 8 k.val) fails
      if bad then (s.wearOut k 0x1C1 injected, some (failed Status.slotWorn))
      else
        let grow (x : FwSlot) : FwSlot := { x with
          body := x.body ++ data, state := if x.length + n = fwLen x.header then .written else .writing }
        let s := s.onFwSlot k grow
        (s, some (done (bytesOf 4 s.fw.slots[k].length)))

/-- FW_WRITE (R358, R367): whether the program fails verification twice is free (log 149). -/
def execFwWrite (h : Header) (slot : Byte) (offset : Word) (count : Half) (data : List Byte) (s : State) : Outcome :=
  darem (.fwWrite h slot offset count data) h
    { op := 0x82, layout := count.toNat = data.length && 16 ≤ data.length && data.length ≤ 448 && data.length % 16 = 0, allowed := h.part == 0, durable := true }
    ([slot] ++ le 4 offset ++ le 2 count ++ data) (runFwWrite slot offset data) s

def runFwVerify (c : CmdRef) (slot : Byte) : Run := fun s =>
  match (fin slot.toNat : Option (Fin 2)) with
  | none => (s, some (failed Status.outOfRange))
  | some k => (s.onFw fun x => { x with verifying := x.verifying ++ [(c, k)] }, none)

/-- FW_VERIFY (R360). -/
def execFwVerify (h : Header) (slot : Byte) (s : State) : Outcome :=
  darem (.fwVerify h slot) h { op := 0x83, allowed := h.part == 0, long := true } [slot] (runFwVerify (refOf h) slot) s

def runFwSwitch (c : CmdRef) (slot mode : Byte) : Run := fun s =>
  match (fin slot.toNat : Option (Fin 2)) with
  | none => (s, some (failed Status.outOfRange))
  | some k =>
    if 1 < mode.toNat then (s, some (failed Status.outOfRange))
    else if s.fw.trial || s.fw.switching.isSome || k = s.fw.active then (s, some (failed Status.conflict))
    else if s.fw.slots[k].state ≠ .verified || (mode = 0 && s.clk.gapSrc = 0) then (s, some (failed Status.notReady))
    else (s.onFw fun x => { x with switching := some (c, k, mode = 0) }, none)

/-- FW_SWITCH (R362). -/
def execFwSwitch (h : Header) (slot mode : Byte) (s : State) : Outcome :=
  darem (.fwSwitch h slot mode) h { op := 0x84, allowed := h.part == 0, long := true } [slot, mode] (runFwSwitch (refOf h) slot mode) s

def runFwConfirm : Run := fun s =>
  if s.fw.trial then
    let svn := s.fw.slots[s.fw.active].svn
    let s := s.onFw fun x => { x with
      trial := false, tries := 0, confirmLeft := 0, floor := if x.floor.toNat < svn.toNat then svn else x.floor }
    (s.raise { ev := .fwConfirmed, unit := BitVec.ofNat 8 s.fw.active.val }, some (done []))
  else (s, some (failed Status.notReady))

/-- FW_CONFIRM (R364). -/
def execFwConfirm (h : Header) (s : State) : Outcome :=
  darem (.fwConfirm h) h { op := 0x85, allowed := h.part == 0, durable := true } [] runFwConfirm s

end Sys2Proof.Machine
end

