-- ==== Sys2Proof/Machine/Sequencer.lean ====
section
/-!
DEFINITION. The power sequencer (R52 to R58): how a domain joins and leaves ON, its monitors and trips, the audit, the
measured values and the thermal comparators (R61, R62).
-/
namespace Sys2Proof.Machine

/-! ### Leaving ON (R54, R80, R129, R184, R215, R231, R254) -/

/-- What an analogue bay loses: running sequences stop, and its comparators deliver 0. -/
def State.abayOff (s : State) (a : Fin 9) : State :=
  (s.adcsOff a).onAbay a fun b => { b.onCmps fun c => { c with out := false, feed := 0 } with feedQ := [] }

/-- What the units of a domain lose when it leaves ON. -/
def State.unitsOff (s : State) (i : Fin 32) (trip : Bool) : State :=
  let s := if trip then s.tripJobs i else s
  let s := match aBay i.val, dBay i.val with
    | some a, _ => s.abayOff a
    | none, some d => (s.loseMems d).loseImage d (if trip then Status.fault else Status.interrupted)
    | none, none => match (fin (i.val - 27) : Option (Fin 4)) with
      | some p => s.portOff p
      | none => s.onSash Sash.noBias
  s.originalLost i.val

/-- A domain goes from its state to one that is not ON; one that leaves ON presents 0 from here on (R172). -/
def State.leaveOn (s : State) (i : Fin 32) (st : DomState) (trip : Bool) : State :=
  let bias := s.biasOn
  let was := s.isOn i
  let s := s.onDom i fun d => { d with state := st }
  let s := if was then ((s.unitsOff i trip).biasEdge bias).sourceOff i else if trip then s.tripJobs i else s
  let s := if trip && i.val < 27 then s.cutOff (bayReq i.val) 3 else s
  (if was || trip then s.spareLost i.val trip else s).dropMasked

/-! ### Joining (R53, R78, R106, R119, R135, R254) -/

/-- An analogue bay's settings apply, and its thresholds load (R102, R106, R135). Staged thresholds stay staged (R134). -/
def State.abayOn (s : State) (a : Fin 9) : State :=
  let slot (k : Slot) : Slot := { k with masked := k.masked || k.cfg ≠ k.cfgNow, cfgNow := k.cfg }
  let s := s.onAbay a fun b => { b with soNow := b.so, asbNow := bits b.sumCfg 20 4, slots := b.slots.map slot }
  (s.terminate.loadThresholds a).adcsOn a

/-- The domain becomes ON at a frame boundary. -/
def State.becomeOn (s : State) (i : Fin 32) : State :=
  let s := s.onDom i fun d => { d with state := .on, good := false, isolated := false }
  let s := s.spareOn i.val
  let s := match aBay i.val, dBay i.val with
    | some a, _ => s.abayOn a
    | none, some d => s.loseMems d
    | none, none => match (fin (i.val - 27) : Option (Fin 4)) with
      | some p => s.portOn p
      | none => s.onSash fun x => { x.noBias with setpoint := Vector.replicate 4 0 }
  (s.normal i.val).settleServed

/-! ### Trips (R55, R56) -/

/-- A trip opens the switch and asserts isolation in the same cycle (R55). The keeper sees it and clears the table's bit;
while the keeper is down the next audit finds the difference (R58). -/
def State.trip (s : State) (i : Fin 32) (kind : BitVec 3) (det : BitVec 10) (injected : Bool) : State :=
  let s := s.carry i.val injected
  let s := s.leaveOn i .tripped true
  let s := s.onDom i fun d => { d with
    tripKind := kind, tripCount := satInc d.tripCount, wantOn := false, good := false, wantOff := false, isolated := true, switchOpen := true }
  let s := if s.serves then { s with pwr := { s.pwr with req := clearBit s.pwr.req i.val } } else s
  (s.raise { ev := .pwrTrip, det := det, unit := BitVec.ofNat 8 i.val, part := s.domOwner i, injected := injected, marks := [i.val] }).settleServed

/-! ### Meanings of the sequencer's moments -/

/-- The domain that ramps and has not reached power-good. -/
def State.rampingDom (s : State) : Option (Fin 32) := (List.finRange 32).find? fun i => (s.dom i).state == .ramping && !(s.dom i).good

/-- DOMAIN_RAMP_START (R53): the first pending domain in index order ramps, one at a time; none while the module is held
after a HOT STOP (R64). -/
def execDomainRampStart (s : State) : Outcome :=
  whenHw s fun s =>
    if s.pwr.held || s.rampingDom.isSome then s
    else match (List.finRange 32).find? fun i => (s.dom i).wantOn && (s.dom i).state == .off with
      | some i => s.onDom i fun d => { d with state := .ramping, wantOn := false, good := false, isolated := true, switchOpen := false }
      | none => s

/-- DOMAIN_POWER_GOOD (R53). An injected ramp failure takes its place (log 36). -/
def execDomainPowerGood (s : State) : Outcome :=
  whenHw s fun s =>
    match s.rampingDom with
    | none => s
    | some i =>
      let (failed, injected, s) := s.check 0x043 (BitVec.ofNat 8 i.val) false
      if failed then s.trip i 4 0x043 injected else s.onDom i fun d => { d with good := true }

/-- DOMAIN_RAMP_TIMEOUT (R53): 200 µs without power-good. -/
def execDomainRampTimeout (s : State) : Outcome :=
  whenHw s fun s =>
    match s.rampingDom with
    | none => s
    | some i =>
      let (_, injected, s) := s.check 0x043 (BitVec.ofNat 8 i.val) true
      s.trip i 4 0x043 injected

/-- DOMAIN_ISOLATION_RELEASE (R53): the frame boundary after power-good. -/
def execDomainIsolationRelease (i : Fin 32) (s : State) : Outcome :=
  whenHw s fun s => if (s.dom i).state = .ramping && (s.dom i).good then s.becomeOn i else s

/-- DOMAIN_DRAIN_START (R54): the frame boundary after an off request. A domain that was RAMPING when it was named OFF has
become ON before it drains (log 118). -/
def execDomainDrainStart (i : Fin 32) (s : State) : Outcome :=
  whenHw s fun s =>
    if (s.dom i).state = .on && (s.dom i).wantOff then
      (s.leaveOn i .draining false).onDom i fun d => { d with wantOff := false }
    else s

/-- A requester of the domain holds the grant, or has been given the next one. -/
def State.domHolds (s : State) (i : Fin 32) : Bool := (s.arb.holder.toList ++ s.arb.next.toList).any fun h => reqBay h.k == some i

/-- DOMAIN_ISOLATE (R54): after the last beat of a record that the domain sends. -/
def execDomainIsolate (i : Fin 32) (s : State) : Outcome :=
  whenHw s fun s =>
    if s.draining i && !s.domHolds i then s.onDom i fun d => { d with isolated := true } else s

/-- DOMAIN_SWITCH_OPEN (R54): 8 CK later. -/
def execDomainSwitchOpen (i : Fin 32) (s : State) : Outcome :=
  whenHw s fun s =>
    if (s.dom i).state = .draining && (s.dom i).isolated then s.onDom i fun d => { d with switchOpen := true } else s

/-- DOMAIN_RAIL_FALLEN (R54): the domain is reported OFF. -/
def execDomainRailFallen (i : Fin 32) (s : State) : Outcome :=
  whenHw s fun s =>
    if (s.dom i).state = .draining && (s.dom i).switchOpen then (s.onDom i fun d => { d with state := .off }).settleServed else s

def Monitor.det : Sys2Proof.Monitor → BitVec 10
  | .uv => 0x040
  | .ov => 0x041
  | .oc => 0x042
def Monitor.kind : Sys2Proof.Monitor → BitVec 3
  | .uv => 1
  | .ov => 2
  | .oc => 3

/-- MONITOR_TRIP (R55, R56): of a domain whose switch is closed; PD_SB has no undervoltage monitor (Table 3-2). -/
def execMonitorTrip (i : Fin 32) (k : Sys2Proof.Monitor) (real : Bool) (s : State) : Outcome :=
  whenHw s fun s =>
    if (s.dom i).switchOpen || (i = domSB && k = .uv) then s
    else
      let (seen, injected, s) := s.check (Monitor.det k) (BitVec.ofNat 8 i.val) real
      if seen then s.trip i (Monitor.kind k) (Monitor.det k) injected else s

/-- POWER_AUDIT (R58): every 1 ms. -/
def execPowerAudit (s : State) : Outcome := whenKpr s fun s => ((List.finRange 32).foldl State.auditDom s).dropMasked

/-- PWR_MEASURE_UPDATE (R407): `mon` is PWR_DOM_MON_i of each domain in order. -/
def execPwrMeasureUpdate (vin iin : Half) (mon : List Word) (s : State) : Outcome :=
  whenKpr s fun s =>
    let doms := Vector.ofFn fun (i : Fin 32) =>
      let w := mon.getD i.val (s.dom i |> fun d => field d.v 0 ||| field d.i 16)
      { s.dom i with v := w.setWidth 16, i := (w >>> 16).setWidth 16 }
    { s with pwr := { s.pwr with vin := vin, iin := iin, doms := doms } }

/-! ### Heat (R61, R62) -/

/-- Temperatures in steps of 0.0625 °C: 100.0, 98.0, 105.0, 103.0, 115.0 and 90.0 °C (Table 3-3). -/
def warnSet : Int := 1600
def warnClear : Int := 1568
def barSet : Int := 1680
def barClear : Int := 1648
def hotSet : Int := 1840
def hotClear : Int := 1440

/-- An injected thermal condition is held (R378). -/
def State.thermHeld (s : State) (det : BitVec 10) : Bool := s.inj.held.contains det
def State.holdTherm (s : State) (det : BitVec 10) (injected : Bool) : State :=
  if injected && !s.thermHeld det then { s with inj := { s.inj with held := s.inj.held ++ [det] } } else s

/-- DIE_T_SAMPLE (R61). -/
def execDieTSample (t : Half) (s : State) : Outcome := whenKpr s fun s => { s with pwr := { s.pwr with dieT := t } }

/-- THERM_PEAK_SAMPLE (R61): kept by hardware; none is taken at HOT STOP (log 119). -/
def execThermPeakSample (t : Half) (s : State) : Outcome :=
  whenHw s fun s => if s.pwr.peak.toInt < t.toInt then { s with pwr := { s.pwr with peak := t } } else s

/-- WARN clears below 98.0 °C unless an injection holds it. -/
def State.warnEnds (s : State) (t : Half) : Bool := s.pwr.warn && t.toInt < warnClear && !s.thermHeld 0x082
def State.endWarn (s : State) : State := { s with pwr := { s.pwr with warn := false } }

/-- THERMAL_WARNING_CROSSING (R61). -/
def execThermalWarningCrossing (t : Half) (s : State) : Outcome :=
  whenHw s fun s =>
    if s.warnEnds t then s.endWarn
    else
      let (seen, injected, s) := s.check 0x082 0 (!s.pwr.warn && warnSet ≤ t.toInt)
      let s := s.holdTherm 0x082 injected
      if seen && !s.pwr.warn then
        ({ s with pwr := { s.pwr with warn := true } }).raise { ev := .thermWarn, det := 0x082, injected := injected }
      else s

/-- Records that waited in keeper memory are written to the ring (R318). -/
def State.flushWaiting (s : State) : State :=
  let ring := s.log.ring ++ s.log.waiting
  { s with log := { s.log.waiting.foldl (fun x r => x.written r.lseq) s.log with ring := ring.drop (ring.length - 1024), waiting := [] } }

/-- NVW_DEFER clears below 103.0 °C unless an injection holds it. -/
def State.barEnds (s : State) (t : Half) : Bool := s.pwr.nvwDefer && t.toInt < barClear && !s.thermHeld 0x083
def State.endBar (s : State) : State :=
  let s := ({ s with pwr := { s.pwr with nvwDefer := false, underway := [] } }).flushWaiting
  ((s.raise { ev := .thermNvResume, marks := [barMark] }).normal barMark).eraseOldKeys.raiseCeilings

/-- The writes in progress as NVW_DEFER is set (R62, log 120). -/
def State.writesNow (s : State) : List NvWrite :=
  let has (b : Bool) (w : NvWrite) : List NvWrite := if b then [w] else []
  let erase : Bool := match s.cfg.job with | some (.erase _ _ _) => true | _ => false
  has (!s.part.changes.isEmpty) .table ++ has (!s.keys.jobs.isEmpty) .key ++ has erase .directory ++
    ((List.finRange 34).filter s.eraseDue).map .area ++
    ((List.finRange 256).filter fun i => s.ldg.segs[i].state = .erasing).map .segment

/-- NVW_BAR_CROSSING (R61, R62). -/
def execNvwBarCrossing (t : Half) (s : State) : Outcome :=
  whenHw s fun s =>
    if s.barEnds t then s.endBar
    else
      let (seen, injected, s) := s.check 0x083 0 (!s.pwr.nvwDefer && barSet ≤ t.toInt)
      let s := s.holdTherm 0x083 injected
      if seen && !s.pwr.nvwDefer then
        (({ s with pwr := { s.pwr with nvwDefer := true, underway := s.writesNow } }).carry barMark injected).raise {
          ev := .thermNvDefer, det := 0x083, injected := injected }
      else s

/-- DEFERRED_WRITE_RESUME (R63): the boot selector and the results that waited on a deferred write are committed. -/
def execDeferredWriteResume (s : State) : Outcome :=
  whenRom s fun s =>
    if s.pwr.nvwDefer then s
    else
      let due := s.ldg.deferred
      let s := { s with ldg := { s.ldg with deferred := [] }, fw := { s.fw with stored := none } }
      s.each due fun s x => s.finish x.1 x.2

end Sys2Proof.Machine
end

