-- ==== Sys2Proof/Machine/Restart.lean ====
section
/-!
DEFINITION. What each kind of reset keeps and loses (R67, Table 3-4), the inrush controller and the loss of power (R46,
R47, R64 to R66), and the restarts of the keeper (R312, R353, R362 to R366, R377).
-/
namespace Sys2Proof.Machine

/-! ### What every restart of the keeper ends -/

/-- Injection closes: every armed injection is cancelled and its INJECT completes with ABORTED (R377). -/
def State.closeInjection (s : State) : State :=
  let armed := s.inj.armed.toList.filterMap fun (a : Option Armed) => a.map fun x => x.cmd
  let was := s.inj.enable
  let s := { s with inj := { s.inj with enable := false, expiry := 0, armed := Vector.replicate 16 none } }
  let s := s.finishAll armed (failed Status.aborted)
  if was then s.raise { ev := .injDisabled, marks := bootMarks } else s

/-- Every lease ends, and old generations without one are wiped (R334); their flash copies go as the boot ends
(`State.bootDone`). -/
def endLeases (k : KeySlot) : KeySlot := wipe { k with gens := k.gens.map fun g => { g with leases := [] } }

/-- The keeper restarts: what stands in keeper memory is lost; the journal, results, slots and engines stand (R312), and
packets from links wait on (R270). A life write that was under way is due again (log 162). -/
def State.keeperRestart (s : State) (boot : Boot) : State :=
  let s := { s with pwr := { s.pwr with phase := .booting, boot := boot, served := [] } }
  let s := s.closeInjection.calRestart.dropStoreJob
  let lost := s.log.waiting.length
  let keep (x : Change) : Bool := x.cmd.isNone
  let s := s.onReq 27 fun x => { x with waiting := none }
  { s with
    can := { s.can with
      rx := [], txq := [], waiting := [], delayed := [], frame := 0, attempts := 0, started := none, announceAtLatch := false }
    log := { s.log with waiting := [], lost := satAdd s.log.lost lost, lostBefore := s.log.lostBefore || lost ≠ 0 }
    keys := { s.keys with slots := s.keys.slots.map endLeases, jobs := [] }
    pwr := { s.pwr with underway := s.pwr.underway.filter fun w => w ≠ .key && w ≠ .directory && (w ≠ .table || s.part.changes.head?.any keep) }
    part := { s.part with changes := s.part.changes.filter keep }
    fw := { s.fw with erasing := [], verifying := [], switching := none }
    sash := { s.sash with due := s.sash.due || s.sash.writing.isSome, writing := none }
    ldg := { s.ldg with reruns := [] }
    keeperIn := s.keeperIn.filter fun x => !Path.isCan x.1
    keeperOut := [], unstarted := [], resuming := false, snaps := [], staged := [] }

/-! ### Power-on resets (Table 3-4) -/

/-- What a power-on reset of a used module keeps: flash, the ledger, the image store and its own inputs. A command that
had reached DONE while its result waited has its commit in its store: recovery finds it there (R311). -/
def State.cold (s : State) (phase : Phase) : State :=
  let s := { s.dropStoreJob with fw := s.fw.reload }
  let slot (x : FwSlot) : FwSlot := { x with state := if x.state = .verified then .valid else x.state }
  { State.reset with
    pwr := { pwrReset with
      phase := phase, count := s.pwr.count, inputGood := s.pwr.inputGood, presLow := s.pwr.presLow
      lossSeen := s.pwr.lossSeen, hotSeen := s.pwr.hotSeen }
    cfg := { cfgReset with slots := s.cfg.slots, areas := s.cfg.areas }
    rep := { repReset with loans := s.rep.loans }
    ldg := { ldgReset with
      entries := s.ldg.entries, floors := s.ldg.floors, useCount := s.ldg.useCount, segs := s.ldg.segs, openSeg := s.ldg.openSeg
      last := s.ldg.last, ceil := s.ldg.ceil, ceilRec := s.ldg.ceilRec, fixed := s.ldg.fixed, superCopy := s.ldg.superCopy
      snapshot := s.ldg.snapshot, deferred := s.ldg.deferred }
    log := { logReset with next := s.log.next, ring := s.log.ring, lostBefore := s.log.lostBefore || s.log.waiting.length ≠ 0 }
    part := { partReset with
      epoch := s.part.epoch, own := s.part.own, loss := s.part.loss, quota := s.part.quota, drains := s.part.drains
      tableBlock := s.part.tableBlock, tableWrites := s.part.tableWrites }
    keys := { keysReset with slots := s.keys.slots.map endLeases, blocks := s.keys.blocks, active := s.keys.active }
    fw := { fwReset with
      slots := s.fw.slots.map slot, active := s.fw.active, trial := s.fw.trial, tries := s.fw.tries, recovery := s.fw.recovery
      floor := s.fw.floor }
    inj := { injReset with held := s.inj.held, lapsed := s.inj.enable || s.inj.lapsed }
    ck := s.ck, freeCtr := s.freeCtr, acc := s.acc, pending := s.pending }

/-! ### Loss of power (R65, R66, R313) -/

/-- RSEQ of the lowest committed record of a source that no first hop has acknowledged (R313): of those in an ORQ or a
replay buffer, the one furthest behind NEXT_RSEQ. -/
def State.lowRseq (s : State) (k : Fin 32) : Half :=
  let next := s.arb.nextRseq[k]
  let ofPkt (p : Packet) : List Half := match p.source with | some (j, q) => if j = k then [q] else [] | none => []
  let ofFlit (f : SentFlit) : List Half := match f.source with | some (j, q) => if j = k && !f.acked then [q] else [] | none => []
  let ofVc (v : VcState) : List Half := v.replay.flatMap ofFlit ++ v.resend.flatMap ofPkt
  let ofPort (p : Port) : List Half := p.orqReq.flatMap ofPkt ++ p.orqRsp.flatMap ofPkt ++ ofVc p.req ++ ofVc p.rsp
  next - BitVec.ofNat 16 ((s.ports.toList.flatMap ofPort).foldl (fun n q => max n (next - q).toNat) 0)

/-- Forwarded packets that a port holds whole: in its forwarding buffers, its ORQs and its replay buffers (R275, R313). -/
def Port.forwardedHeld (x : Port) : Nat :=
  let held (y : VcState) (orq : List Packet) : Nat := y.fwd.length + ((orq ++ y.resend ++ y.sentWhole).filter (·.forwarded)).length
  held x.req x.orqReq + held x.rsp x.orqRsp

/-- The snapshot of R313. -/
def State.snapshotNow (s : State) : Snapshot where
  next := s.arb.nextRseq
  low := Vector.ofFn s.lowRseq
  fwd := s.ports.map Port.forwardedHeld

/-- The record being written is a cut-over's exchange: it stands in the table after a power loss (R238). -/
def State.exchangeDue (s : State) : Bool :=
  match s.part.changes with
  | .exchange _ _ :: _ => true
  | _ => false

/-- A cut-over's exchange whose boundary has passed commits (R238), but under the bar of R62 only one whose write was under
way. -/
def State.commitExchange (s : State) : State := if s.exchangeDue && s.mayWrite .table then s.commitTable else s

/-- The next program of the table or key store fails verification: an injection makes it fail, or it is free (log 149). -/
def State.programFails (s : State) : Bool := (s.armedOn 0x1C1 3).isSome || s.drawFlash.1

/-- The first ownership record is finished in the hold-up time; whether its program verified (R66). -/
def State.finishTable (s : State) : Bool × State :=
  if s.mayWrite .table && !s.part.changes.isEmpty then (!s.programFails, s.commitTable) else (true, s)

/-- The first key record is finished in the hold-up time; whether its program verified (R66). -/
def State.finishKey (s : State) : Bool × State :=
  if s.mayWrite .key && s.keyRoom && !s.keys.jobs.isEmpty then (!s.programFails, s.commitKey) else (true, s)

/-- Flash programs in progress are finished in the hold-up time, and whether all of them verified; an erase is abandoned.
Recovery finds their commits (R66, R311, log 121). -/
def State.finishPrograms (s : State) : Bool × State :=
  let (a, s) := s.finishTable
  let (b, s) := s.finishKey
  (a && b, s)

/-- The hold-up writes: POWER_FAIL and the snapshot, to the log, whether or not NVW_DEFER is set (R66). When they or another
write of the hold-up time fail verification no snapshot is committed, and the next start follows R314. -/
def State.holdUpWrites (s : State) (programs ok : Bool) : State :=
  let seg := s.ldg.fixed[(⟨2 + (logSeg s.log.next).val, by omega⟩ : Fin 6)]
  let (bad, _, s) := s.check 0x1C0 (BitVec.ofFin seg) (!ok)
  if bad then { s with ldg := { s.ldg with snapshot := none } } else
  let s := { s with ldg := { s.ldg with snapshot := if programs then some s.snapshotNow else none } }
  let lost := s.log.lostBefore || s.log.waiting.length ≠ 0
  let r : Rec := {
    lseq := s.log.next, et := s.clk.et, det := 0, part := 0, unit := 0, code := Ev.powerFail.code, flags := if lost then 8 else 0
    rep := 0, arg0 := 0 }
  let ring := s.log.ring ++ [r]
  { s with log := { s.log with ring := ring.drop (ring.length - 1024), next := nextLseq s.log.next, waiting := [], lostBefore := false } }

/-- What the keeper does on hold-up energy (R66). In RECOVERY the boot ROM has no ledger to write, and the snapshot of the last
loss stands (log 174). -/
def State.holdUp (s : State) (ok : Bool) : State :=
  let s := { s with pwr := { s.pwr with phase := .holdUp } }
  if s.fw.recovery then s.commitExchange
  else
    let (programs, s) := s.finishPrograms
    s.holdUpWrites programs ok

/-- The 12 V switch opens (R47, R66): every domain is off and retention SRAM is lost. A running keeper makes its hold-up
writes first; `ok` says whether they verify. -/
def State.powerLoss (s : State) (ok : Bool) : State :=
  match s.pwr.phase with
  | .off | .holdUp => s
  | .running =>
    let s := (s.holdUp ok).cold .holdUp
    { s with pwr := { s.pwr with lossSeen := true, hotSeen := false }, inj := { injReset with lapsed := s.inj.lapsed } }
  | _ =>
    let s := s.commitExchange.cold .off
    { s with pwr := { s.pwr with lossSeen := true, hotSeen := false }, inj := { injReset with lapsed := s.inj.lapsed } }

def State.onPwr (s : State) (f : Pwr → Pwr) : State := { s with pwr := f s.pwr }

/-- The 20 ms count runs while PRES_L is low and the input is good, with the switch open (R46, R66). -/
def Pwr.recount (x : Pwr) : Pwr := { x with counting := x.phase == .off && x.inputGood && x.presLow }

/-- INPUT_POWER_APPLIED (R46). -/
def execInputPowerApplied (s : State) : Outcome := .next (s.onPwr fun x => ({ x with inputGood := true }).recount)

/-- PRES_L_LOW (R46). -/
def execPresLLow (s : State) : Outcome := .next (s.onPwr fun x => ({ x with presLow := true }).recount)

/-- INRUSH_COUNT_EXPIRY (R46): the switch closes. -/
def execInrushCountExpiry (s : State) : Outcome :=
  .next (if s.pwr.counting && s.pwr.phase = .off then s.onPwr fun x => { x with phase := .closed, counting := false } else s)

/-- PRES_L_HIGH (R46, R47): the count restarts, and a closed switch opens. -/
def execPresLHigh (ok : Bool) (s : State) : Outcome := .next ((s.onPwr fun x => { x with presLow := false, counting := false }).powerLoss ok)

/-- POWER_INPUT_LOSS (R46, R66): the input below 10.4 V for 1 µs. -/
def execPowerInputLoss (ok : Bool) (s : State) : Outcome := .next ((s.onPwr fun x => { x with inputGood := false, counting := false }).powerLoss ok)

/-- HOLD_UP_END (R66): the keeper stops; a fresh count may start. -/
def execHoldUpEnd (s : State) : Outcome :=
  .next (if s.pwr.phase = .holdUp then s.onPwr fun x => ({ x with phase := .off }).recount else s)

/-! ### Boots -/

/-- A rollback (R365): the previous slot is CONFIRMED, the trial slot falls to VALID, and a FW_SWITCH that had not
completed will complete with FAULT. -/
def State.rollBack (s : State) (cause : Byte) : State :=
  let t := s.fw.active
  let s := s.onFwSlot t fun x => { x with state := if x.state = .verified then .valid else x.state }
  s.onFw fun x => { x.select s.pwr.nvwDefer (otherSlot t) false 0 with confirmLeft := 0, lastStart := 3, rollback := some cause }

/-- KEEPER_RESET_RELEASE (R46, R69, R365, R366): the keeper starts to boot after a power-on reset. The operands say
whether the flash of slot A or B has been corrupted. -/
def execKeeperResetRelease (corruptA corruptB : Bool) (s : State) : Outcome :=
  .next (
    if s.pwr.phase ≠ .closed then s
    else
      let s := s.onPwr fun x => { x with
        phase := .booting, boot := .power, cause := if x.lossSeen then 1 else 0, count := satInc x.count, lossSeen := false }
      let s := { s with node := nodeReset }
      let s := if s.fw.trial then (if 3 ≤ s.fw.tries.toNat then s.rollBack 3 else s.onFw fun x => { x with tries := x.tries + 1 }) else s
      s.bootCheck corruptA corruptB)

/-- HOT_STOP (R64): every switch opens, retention SRAM is lost, and the keeper is held in reset. An injected HOT STOP
commits its DONE result first (R378). LNK_CTRL.EN keeps its value (R256). -/
def execHotStop (t : Half) (s : State) : Outcome :=
  whenHw s fun s =>
    let armed := (s.armedOn 0x084 0).map fun x => x.2.cmd
    let (seen, injected, s) := s.check 0x084 0 (hotSet ≤ t.toInt)
    if !seen then s
    else
      let s := (s.ldg.deferred.filter fun x => some x.1 = armed).foldl (fun s x => s.commitResult x.1 x.2 false) s
      let s := s.holdTherm 0x084 injected
      let en := s.ports.map fun (p : Port) => p.en
      let s := s.cold .hotStop
      let s := s.onPwr fun x => { x with hotSeen := true, lossSeen := false }
      { s.carry hotMark injected with ports := Vector.ofFn fun i => { portReset with en := en[i] } }

/-- HOT_STOP_RELEASE (R64): below 90.0 °C the keeper boots as after power-on, and the module is held. -/
def execHotStopRelease (t : Half) (s : State) : Outcome :=
  .next (
    if s.pwr.phase = .hotStop && t.toInt < hotClear && !s.thermHeld 0x084 then
      let s := s.onPwr fun x => { x with
        phase := .booting, boot := .power, held := true, hotSeen := false, cause := 2, count := satInc x.count }
      let s := if s.fw.trial then (if 3 ≤ s.fw.tries.toNat then s.rollBack 3 else s.onFw fun x => { x with tries := x.tries + 1 }) else s
      s.bootCheck false false
    else s)

/-! ### Keeper restarts -/

/-- The watchdog resets the keeper (R67, R68); under TRIAL it rolls back (R365). -/
def State.watchdog (s : State) : State :=
  let s := s.keeperRestart .watchdog
  let s := s.onPwr fun x => { x with cause := 3, count := satInc x.count }
  (if s.fw.trial then s.rollBack 1 else s.onFw fun x => { x with lastStart := 1 }).bootCheck false false

/-- KEEPER_WATCHDOG_EXPIRY (R67): the keeper has been silent for 100 ms. With `starts` the keeper falls silent and the
count starts, so that events are held for it from here on (R408, log 165). -/
def execKeeperWatchdogExpiry (starts : Bool) (s : State) : Outcome :=
  .next (
    if starts then (if s.kpr then s.onPwr fun x => { x with phase := .silent } else s)
    else if s.kpr || s.pwr.phase = .silent then (s.countDet 0x200 false).watchdog
    else s)

/-- A domain goes OFF at a warm reset (Table 3-4). -/
def State.warmOff (s : State) (i : Fin 32) : State :=
  let st := (s.dom i).state
  if st = .on || st = .ramping || st = .draining then
    (s.leaveOn i .off false).onDom i fun d => { d with good := false, wantOff := false, isolated := true, switchOpen := true }
  else s

/-- The domains that a warm reset turns OFF. -/
def warmDoms : List (Fin 32) := (List.finRange 32).filter fun i => i.val < 27 || i = domSB

/-- The reset turns the domain OFF. -/
def State.goesOff (s : State) (i : Fin 32) : Bool :=
  let st := (s.dom i).state
  warmDoms.contains i && (st = .on || st = .ramping || st = .draining)

/-- A bay, numbered as a domain, goes OFF. -/
def State.bayGoesOff (s : State) (i : Nat) : Bool := match (fin i : Option (Fin 32)) with | some i => s.goesOff i | none => false

/-- What engines carry for units in domains that go OFF ends with INTERRUPTED; what they carry for others goes on (R312). -/
def State.warmInterrupt (s : State) : State :=
  let s := s.each (List.finRange 3) fun s r => match s.rep.slots[r] with
    | some x =>
      if s.bayGoesOff x.orig || s.bayGoesOff x.spare then
        let s := { s with rep := { s.rep with slots := s.rep.slots.set r none } }
        let s := s.endJobs (fun j => j.cls == .repair && (match fin x.spare with | some i => j.inDom i | none => false)) (failed Status.interrupted)
        s.freeRepair r x (failed Status.interrupted)
      else s
    | none => s
  let goes (j : Job) : Bool := match (unitOf j.unit).bind (·.dom) with | some i => s.goesOff i | none => false
  let s := s.endJobs goes (failed Status.interrupted)
  let out (x : Load) : Bool := s.goesOff (domOfD x.bay)
  let now := match s.cfg.running with | some y => if out y.load then [y.load] else [] | none => []
  let lost := now ++ s.cfg.queue.filter out
  let s := { s with cfg := { s.cfg with
    running := if now.isEmpty then s.cfg.running else none, queue := s.cfg.queue.filter fun x => !out x } }
  s.finishAll (lost.filterMap (·.cmd)) (failed Status.interrupted)

/-- A waveform DAC at a warm reset: one that a calibration step holds stays held to the step's end (R146, R160). -/
def warmWdac (x : Wdac) : Wdac := if x.state = .lent then { wdacReset with state := .lent, cls := x.cls } else wdacReset

/-- A repair that goes on with its spare not yet ON asks for it again (R227, R312). -/
def State.warmPrepare (s : State) : State :=
  s.each (List.finRange 3) fun s r => match s.rep.slots[r] with
    | some x => if x.phase = .prepare then (match fin x.spare with | some i => s.askOn i | none => s) else s
    | none => s

/-- Module warm reset (Table 3-4): a keeper restart that also turns the bays' domains OFF and returns settings held in the
always-on core to their reset values (R106, R145, R146, R150, R168, R208, R342, R354; log 38). The keeper's table is
rebuilt from the sequencer (R58). -/
def State.warmReset (s : State) : State :=
  let s := s.keeperRestart .warm
  let s := s.onPwr fun x => { x with cause := 4, count := satInc x.count }
  let s := s.warmInterrupt
  let s := { s with cfg := { s.cfg with holder := none, buf := [], valid := false } }
  let s := s.each warmDoms State.warmOff
  let noReq (d : Dom) : Dom := { d with wantOn := false }
  let s := { s with
    pwr := { s.pwr with doms := Vector.ofFn fun (i : Fin 32) => if warmDoms.contains i then noReq s.pwr.doms[i] else s.pwr.doms[i] }
    node := { s.node with sampling := true, sets := 0, count := 0, first := 0, agree := true, differ := 0 }
    cal := { s.cal with coefs := [], pending := [] }
    abays := Vector.replicate 9 abayReset, xbar := xbarReset, adcs := Vector.replicate 18 adcReset
    timers := Vector.replicate 16 timerReset, groups := Vector.replicate 8 { mask := 0, ctrl := 0, miss := 0 }
    adcStarts := [], wdacs := s.wdacs.map warmWdac, wdacWaits := [], lin := { linReset with events := s.lin.events, offSrc := s.lin.offSrc }
    can := { canReset with term := s.termReset, termNow := s.termReset } }
  let s := s.onPwr fun x => { x with req := wordOfBits (((List.finRange 32).filter s.seqOn).map fun i => i.val) }
  s.warmPrepare.bootCheck false false

/-- FW_SWITCH_RESTART (R362, R363): at the boundary the floor is checked again, the selector names the slot as TRIAL with
TRIES 1, and the keeper restarts from it. With MODE 0 the boundary opens a gap. The commit waits for NVW_DEFER. -/
def execFwSwitchRestart (s : State) : Outcome :=
  whenRom s fun s =>
    match s.fw.switching with
    | none => s
    | some (c, k, gap) =>
      if s.pwr.nvwDefer || (gap && !s.gapOpens) then s
      else if s.fw.slots[k].svn.toNat < s.fw.floor.toNat then
        (s.onFw fun x => { x with switching := none }).finish c (failed Status.badImage [4])
      else
        let s := (s.keeperRestart .firmware).onFw fun x => {
          x.select false k true 1 with lastStart := 2, switched := some c }
        s.bootCheck false false

/-- FW_CONFIRM_EXPIRY (R365): none falls while a boot selector write is barred (R364). -/
def execFwConfirmExpiry (s : State) : Outcome :=
  whenRom s fun s =>
    if s.fw.trial && s.fw.confirmLeft = 0 && !s.pwr.nvwDefer then
      let s := (s.keeperRestart .firmware).rollBack 0
      s.bootCheck false false
    else s

/-- FW_TRIAL_BOOT_TIMEOUT (R365): the boot that runs is the trial firmware's. The reset that it followed stays the last
reset, with its report and its steps (R68, R69). -/
def execFwTrialBootTimeout (s : State) : Outcome :=
  .next (
    if s.pwr.phase = .booting && s.fw.trial then
      let s := (s.keeperRestart s.pwr.boot).rollBack 2
      s.bootCheck false false
    else s)

end Sys2Proof.Machine
end

