-- ==== Sys2Proof/Machine/Power.lean ====
section
/-!
DEFINITION. The commands and registers of power, heat and resets (R58 to R64, R71, R72, R406).
-/
namespace Sys2Proof.Machine

/-! ### Registers (Table 3-7) -/

inductive PwrReg where
  | domState
  | domReq
  | domTripped
  | domSuspect
  | therm
  | peak
  | thermClear
  | cause
  | input
  | events
  | ctrl (i : Fin 32)
  | mon (i : Fin 32)
deriving DecidableEq, Repr

/-- A word with bit i for each domain that meets a condition. -/
def State.domWord (s : State) (f : Dom → Bool) : Word := wordOfBits (((List.finRange 32).filter fun i => f (s.dom i)).map (·.val))

def State.onWord (s : State) : Word := s.domWord fun d => d.state == .on
def State.trippedWord (s : State) : Word := s.domWord fun d => d.state == .tripped
def thermWord (x : Pwr) : Word := field x.dieT 0 ||| flag x.warn 16 ||| flag x.nvwDefer 17
def domCtrl (d : Dom) : Word := BitVec.ofNat 32 (domStateCode d.state) ||| field d.tripKind 4 ||| field d.tripCount 8

def pwrAccess (p : Fin 32) (r : PwrReg) (s : State) : Access :=
  match r with
  | .domState => roReg s.onWord
  | .domReq => roReg s.pwr.req
  | .domTripped => roReg s.trippedWord
  | .domSuspect => roReg s.pwr.suspect
  | .therm => roReg (thermWord s.pwr) 0x3FFFF
  | .peak => roReg (field s.pwr.peak 0) 0xFFFF
  | .thermClear => clearReg (p == 0) fun s => s.onPwr fun x => { x with peak := 0x8000 }
  | .cause => roReg (field s.pwr.cause 0 ||| field s.pwr.count 16) 0xFFFF000F
  | .input => roReg (field s.pwr.vin 0 ||| field s.pwr.iin 16)
  | .events => w1cReg (p == 0) s.pwr.events 0x3F .pwr 0
  | .ctrl i => roReg (domCtrl (s.dom i)) 0xFF77
  | .mon i => roReg (field (s.dom i).v 0 ||| field (s.dom i).i 16)

/-- PWR_THERM_CLEAR (R61, R72). -/
def execPwrThermClear (p : Fin 32) (v : Word) (s : State) : Outcome := whenHw s fun s => s.writeOne p (pwrAccess p .thermClear) v

/-! ### Commands (Table 3-6) -/

/-- The domains of a mask, in index order. -/
def domsOf (m : Word) : List (Fin 32) := (List.finRange 32).filter fun i => testBit m i.val

/-- A partition owns every domain of a mask (Who column of Table 3-6). -/
def State.ownsDoms (s : State) (p : Fin 32) (m : Word) : Bool := (domsOf m).all fun i => s.domOwner i == p

/-- The resource codes of a mask's domains. -/
def domCodes (m : Word) : List Nat := (domsOf m).filterMap domCode

/-- Reserved bits of register words are sent as 0 (log 152). -/
def runPwrStatusGet : Run := fun s =>
  (s, some (done ([s.onWord, s.pwr.suspect, s.trippedWord, thermWord s.pwr].flatMap (le 4))))

/-- PWR_STATUS_GET (Table 3-6). -/
def execPwrStatusGet (h : Header) (s : State) : Outcome := darem (.pwrStatusGet h) h { op := 0x20, idem := true } [] runPwrStatusGet s

/-- The bay of a domain is in LOADING (R215). -/
def State.domLoading (s : State) (i : Fin 32) : Bool :=
  match dBay i.val with
  | some d => s.dbays[d].cfg == .loading
  | none => false

/-- Checks 2 to 5 of R406. -/
def State.domainRefused (s : State) (on off : Word) : Option Byte :=
  let named := on ||| off
  if on &&& off ≠ 0 then some Status.outOfRange
  else if (domsOf named).any (fun i => s.inRepair i.val) || (domsOf off).any (fun i => s.domLoading i || s.domHeld i) ||
      (domsOf on).any (fun i => (s.dom i).state == .tripped) then some Status.conflict
  else if (domsOf named).any s.isSuspect then some Status.hwMismatch
  else if testBit on 31 && !s.sash.biasReady then some Status.notReady
  else none

/-- A request that passed: the domains change under R53 and R54, and the command is served until its outcome is known. -/
def State.serveDomains (s : State) (x : DomReq) : State :=
  let on := (domsOf x.on).filter fun i => !s.isOn i
  let off := (domsOf x.off).filter fun i => (s.dom i).state ≠ .off && (s.dom i).state ≠ .tripped
  let s := s.each (domsOf x.on) State.askOn
  let s := s.each (domsOf x.off) State.askOff
  let y : DomReq := { x with on := wordOfBits (on.map (·.val)), off := wordOfBits (off.map (·.val)) }
  (s.onPwr fun z => { z with served := z.served ++ [y] }).settleServed

/-- The exchange of a command that keeps no ledger entry. -/
def State.exchangeOf (s : State) (h : Header) (op : Byte) : Exchange where
  path := h.path
  src := h.src
  part := h.part
  op := op
  id := h.cmdId
  epoch := s.part.epoch
  auth := h.auth
  gen := match s.currentKey h.part with | some k => k.1 | none => 0
  noresp := h.noresp

def runPwrDomainSet (h : Header) (on off : Word) : Run := fun s =>
  let s := (domsOf (on ||| off)).foldl State.auditDom s
  match s.domainRefused on off with
  | some c => (s, some (failed c))
  | none =>
    let direct := if h.idemp && on = 0 then some (s.exchangeOf h 0x21) else none
    (s.serveDomains { cmd := refOf h, direct := direct, on := on, off := off }, none)

/-- PWR_DOMAIN_SET (R53, R54, R63, R303, R406). -/
def execPwrDomainSet (h : Header) (on off : Word) (s : State) : Outcome :=
  darem (.pwrDomainSet h on off) h
    { op := 0x21, allowed := s.ownsDoms h.part (on ||| off), codes := domCodes (on ||| off), idem := on = 0 } (le 4 on ++ le 4 off)
    (runPwrDomainSet h on off) s

/-- The audit of R60 for one domain: its bit clears unless the audit finds a difference, and its requester's mask with it:
a later finding masks it from the next boundary on (R290). -/
def State.ackDom (s : State) (i : Fin 32) : State :=
  let s := (s.onPwr fun x => { x with suspect := clearBit x.suspect i.val }).auditDom i
  let s := if s.isSuspect i || 27 ≤ i.val then s else { s with arb := { s.arb with suspects := clearBit s.arb.suspects (bayReq i.val).val } }
  if s.isSuspect i || (s.dom i).state = .tripped then s else s.normal i.val

/-- The bits of a mask that were SUSPECT and stay, or that the audit has set. A repair that was halted goes on (R236). -/
def runPwrSuspectAck (mask : Word) : Run := fun s =>
  let s := s.each (domsOf mask) State.ackDom
  let stay := s.pwr.suspect &&& mask
  let s := s.feedRepairs
  (s, some (if stay = 0 then done [] else failed Status.hwMismatch (le 4 stay)))

/-- PWR_SUSPECT_ACK (R60). -/
def execPwrSuspectAck (h : Header) (mask : Word) (s : State) : Outcome :=
  darem (.pwrSuspectAck h mask) h
    { op := 0x22, allowed := h.part == 0 || s.ownsDoms h.part mask, codes := domCodes mask } (le 4 mask) (runPwrSuspectAck mask) s

/-- A bay reset of domain `i` waits for its boundary (R67, R176). -/
def State.resetBay (s : State) (i : Fin 32) : State :=
  match aBay i.val, dBay i.val with
  | some a, _ => s.onAbay a fun b => { b with resetDue := true }
  | none, some d => s.onDbay d fun b => { b with resetDue := true }
  | none, none => s

def runPwrReset (c : CmdRef) (kind unit : Byte) : Run := fun s =>
  if kind = 0 then ((s.onPwr fun x => { x with warmCmd := x.warmCmd ++ [c] }).warmReset, none)
  else if kind ≠ 1 then (s, some (failed Status.outOfRange))
  else match (fin unit.toNat : Option (Fin 27)) with
    | none => (s, some (failed Status.outOfRange))
    | some u =>
      let i : Fin 32 := ⟨u.val, by omega⟩
      if s.isSuspect i then (s, some (failed Status.hwMismatch))
      else if s.domLoading i || s.inRepair i.val then (s, some (failed Status.conflict))
      else (s.resetBay i, some (done []))

/-- The sender of a PWR_RESET: P0 for WARM, the bay's owner for BAY. -/
def State.mayReset (s : State) (p : Fin 32) (kind unit : Byte) : Bool :=
  if kind = 0 then p == 0
  else if kind = 1 && unit.toNat < 27 then (match (fin unit.toNat : Option (Fin 32)) with | some i => s.domOwner i == p | none => true)
  else true

/-- PWR_RESET (R67, R176, R215, R225). For BAY, UNIT is the bay's domain index (log 40). -/
def execPwrReset (h : Header) (kind unit : Byte) (s : State) : Outcome :=
  darem (.pwrReset h kind unit) h
    { op := 0x23, allowed := s.mayReset h.part kind unit
      codes := if kind = 1 then (match (fin unit.toNat : Option (Fin 32)) with | some i => (domCode i).toList | none => []) else [] }
    [kind, unit] (runPwrReset (refOf h) kind unit) s

/-- Step 4 and step 5 of Table 3-5: the link domains are requested, and SAFE is reached. -/
def State.startLinks (s : State) : State :=
  let s := s.onPwr fun x => { x with held := false }
  (s.each ((List.finRange 4).map domOfL) State.askOn).raise { ev := .safeReached }

def runPwrRestart : Run := fun s =>
  if !s.pwr.held then (s, some (failed Status.conflict))
  else if hotClear ≤ s.pwr.dieT.toInt then (s, some (failed Status.notReady))
  else (s.startLinks, some (done []))

/-- PWR_RESTART (R64). -/
def execPwrRestart (h : Header) (s : State) : Outcome :=
  darem (.pwrRestart h) h { op := 0x24, allowed := h.part == 0 && Path.isCan h.path } [] runPwrRestart s

/-- A TRIPPED domain returns to OFF (R55). -/
def State.clearTrip (s : State) (i : Fin 32) : State :=
  if (s.dom i).state = .tripped then (s.onDom i fun d => { d with state := .off }).normal i.val else s

def runPwrTripClear (mask : Word) : Run := fun s =>
  let s := (domsOf mask).foldl State.auditDom s
  if (domsOf mask).any s.isSuspect then (s, some (failed Status.hwMismatch))
  else (s.each (domsOf mask) State.clearTrip, some (done []))

/-- PWR_TRIP_CLEAR (R55, R59). -/
def execPwrTripClear (h : Header) (mask : Word) (s : State) : Outcome :=
  darem (.pwrTripClear h mask) h { op := 0x25, allowed := s.ownsDoms h.part mask, codes := domCodes mask } (le 4 mask)
    (runPwrTripClear mask) s

end Sys2Proof.Machine
end

