-- ==== Sys2Proof/Machine/Clock.lean ====
section
/-!
DEFINITION. One clock (01): the reference and the PLL, SYNC and experiment time, gaps, the CLK registers and the commands of
group 0xFx.
-/
namespace Sys2Proof.Machine

def State.onClk (s : State) (f : Clk → Clk) : State := { s with clk := f s.clk }

/-! ### Reference and PLL (R12 to R16) -/

/-- The reference is lost (R14): the VCO is held at factory trim. LOCK falls with it (log 41). `present` says whether
edges still come. -/
def State.refLoss (s : State) (present injected : Bool) : State :=
  let n := if s.clk.freewheel then s.clk.freewheelCnt else satInc s.clk.freewheelCnt
  let s := s.holdBrs.onClk fun x => { x with
    freewheel := true, etSuspect := true, lock := false, qualified := false, refPresent := present, freewheelCnt := n }
  (s.carry refMark injected).raise { ev := .refLost, det := 0x080, injected := injected }

/-- REFERENCE_LOSS_DETECT (R14): an injection suppresses one edge, and edges go on after it (R378). -/
def execReferenceLossDetect (real : Bool) (s : State) : Outcome :=
  whenHw s fun s =>
    if !s.clk.refPresent then s
    else
      let (seen, injected, s) := s.check 0x080 0 real
      if seen then s.refLoss injected injected else s

/-- REFERENCE_RETURN (R15). -/
def execReferenceReturn (s : State) : Outcome :=
  whenHw s fun s => if s.clk.refPresent then s else s.onClk fun x => { x with refPresent := true, qualified := false }

/-- The reference's measured error is within ±500 ppm (R12). -/
def Clk.inRange (x : Clk) : Bool := x.ferr.toInt.natAbs ≤ 500

/-- REFERENCE_QUALIFIED (R12): of edges that are present and not treated as lost. -/
def execReferenceQualified (s : State) : Outcome :=
  whenHw s fun s => if s.clk.refPresent && s.clk.inRange then s.onClk fun x => { x with qualified := true } else s

/-- PLL_LOCK_ACHIEVED (R12, R15, R254). -/
def execPllLockAchieved (s : State) : Outcome :=
  whenHw s fun s =>
    if s.clk.qualified && !s.clk.lock then
      let s := s.holdBrs.onClk fun x => { x with lock := true, freewheel := false }
      ((s.raise { ev := .pllLocked, marks := [refMark] }).normal refMark).relock
    else s

/-- REF_FERR_MEASURE (R12): a reference beyond ±500 ppm is treated as lost, while REF_PRESENT keeps showing its edges
(log 42). -/
def execRefFerrMeasure (ppm : Half) (s : State) : Outcome :=
  whenHw s fun s =>
    if !s.clk.refPresent then s
    else
      let s := s.onClk fun x => { x with ferr := ppm }
      if !s.clk.inRange && (s.clk.lock || s.clk.qualified) then
        let (_, _, s) := s.check 0x080 0 true
        s.refLoss true false
      else s

/-! ### SYNC (R18 to R23, R31) -/

/-- A time on a frame boundary: the low three bits are taken as 0 (R20). -/
def aligned (v : Et) : Et := v &&& 0xFFFFFFFFFFF8

/-- A SYNC or a SYNC_NOW is ignored while FREEWHEEL is set (R22, R31). -/
def State.missSync (s : State) : State := (s.onClk fun x => { x with missed := satInc x.missed }).raise { ev := .syncIgnored, marks := [refMark] }

/-- The selected source is 1 in this frame and was 0 in the one before (R19). A port's bit counts with VALID and a good
CRC only. -/
def State.syncRises (s : State) : Bool :=
  match s.clk.syncSrc.toNat with
  | 0 => false
  | 1 => s.clk.syncPin && !s.clk.syncPinWas
  | n => match (fin (n - 2) : Option (Fin 4)) with
    | some p => s.ports[p].rxValid && s.ports[p].rxSync && !s.ports[p].rxSyncWas
    | none => false

/-- A SYNC occurs: it waits for the boundary that ends its frame, or it is ignored under FREEWHEEL (R19, R22). -/
def State.syncOccurs (s : State) : State :=
  let s := s.onClk fun x => { x with syncSeen := true }
  if s.clk.freewheel then s.missSync else s.onClk fun x => { x with syncDue := true, syncCk := s.ck }

/-- SYNC_DETECT (R18 to R20, R22): `pin` is the level of SYNC± that phase 4 of this frame samples. -/
def execSyncDetect (pin : Bool) (s : State) : Outcome :=
  whenHw s fun s =>
    let s := s.onClk fun x => { x with syncPin := pin }
    if s.clk.syncArmed && !s.clk.syncSeen && s.syncRises then s.syncOccurs else s

/-- A frame ends: this frame's samples become those of the frame before (R19). -/
def State.nextSamples (s : State) : State :=
  { s with
    clk := { s.clk with syncPinWas := s.clk.syncPin, syncSeen := false }
    ports := s.ports.map fun (x : Port) => { x with rxSyncWas := x.rxValid && x.rxSync, rxGapWas := x.rxValid && x.rxGap } }

/-- The samples at a boundary: the cycle that opens the frame has moved them on already (`State.tick`). -/
def State.frameSamples (s : State) : State := if s.clk.atBoundary then s else s.nextSamples

/-- Load ET (R21). -/
def State.loadEt (s : State) : State :=
  let old := s.clk.et
  let new := aligned s.clk.syncValue
  let s := (s.onClk fun x => { x with et := new, etSuspect := false, genCount := 0, loads := satInc x.loads }).jumpEt (new - old)
  s.raise { ev := .etLoaded, args := le 6 old ++ le 6 new }

/-- Compare ET (R20, R21). ET_SLIP carries ET less SYNC_VALUE modulo 2^48 (log 153). -/
def State.checkEt (s : State) : State :=
  let diff := aligned s.clk.et - aligned s.clk.syncValue
  let (slip, injected, s) := s.check 0x081 0 (diff ≠ 0)
  if slip then
    (s.onClk fun x => { x with etSuspect := true }).raise { ev := .etSlip, det := 0x081, injected := injected, args := le 6 diff }
  else s.onClk fun x => { x with etSuspect := false }

/-- A SYNC of the selected source acts at this boundary: it occurred in the frame that ends here, not in the one that the
boundary opens (R19, R20). -/
def State.syncActs (s : State) : Bool := s.clk.syncDue && s.clk.syncArmed && s.clk.syncCk < s.ck

/-- The boundary at which a SYNC and the SYNC_NOW requests act: one load serves both (R20, R31). -/
def State.boundarySync (s : State) : State :=
  let due := s.syncActs
  let cmds := s.clk.syncNow
  let s := (s.onClk fun x => { x with syncDue := x.syncDue && s.ck ≤ x.syncCk, syncNow := [] }).frameSamples
  if s.clk.freewheel then
    let s := if due then s.missSync else s
    s.each cmds fun s c => s.missSync.finish c (failed Status.notReady)
  else if !cmds.isEmpty || (due && s.clk.syncMode ≠ 2) then
    let s := s.loadEt
    let s := if due && s.clk.syncMode = 0 then s.onClk fun x => { x with syncArmed := false } else s
    s.finishAll cmds (done [])
  else if due then s.checkEt
  else s

/-- SYNC_BOUNDARY_ACTION (R20 to R22). -/
def execSyncBoundaryAction (s : State) : Outcome := whenHw s fun s => if s.clk.syncDue && s.clk.syncCk < s.ck then s.boundarySync else s

/-- SYNC_NOW_LOAD (R31). -/
def execSyncNowLoad (s : State) : Outcome := whenHw s fun s => if s.clk.syncNow.isEmpty then s else s.boundarySync

/-! ### Gaps (R25 to R28) -/

/-- GAP of the segment that a port delivered in the frame that ends at this boundary (R25). -/
def State.gapBit (s : State) (p : Fin 4) : Bool :=
  if s.clk.atBoundary then s.ports[p].rxGapWas else s.ports[p].rxValid && s.ports[p].rxGap

/-- The level of a gap source: `pin` is the GAP± pin's level in the frame before. -/
def State.gapLevel (s : State) (src : BitVec 3) (pin : Bool) : Bool :=
  match src.toNat with
  | 0 => false
  | 1 => pin
  | 6 => !s.clk.genInvalid && s.clk.genCount.toNat < s.clk.genLength.toNat
  | n => match (fin (n - 2) : Option (Fin 4)) with
    | some p => s.gapBit p
    | none => false

/-- Frames of the gap that ends now; a gap beyond 65,535 frames is recorded as 0xFFFF (log 112). -/
def State.gapFrames (s : State) : Half := BitVec.ofNat 16 (min 0xFFFF ((s.ck - s.clk.gapStart) / 8))

/-- The gap ends: its length is recorded (R28) and running steps are abandoned (R156, R228). -/
def State.endGap (s : State) : State :=
  let n := s.gapFrames
  let s := s.onClk fun x => { x with gap := false, lastLen := n, minLen := if n.toNat < x.minLen.toNat then n else x.minLen }
  s.abandonSteps.abandonCopies

/-- The gap state follows a level. -/
def State.followGap (s : State) (level : Bool) : State :=
  if level && !s.clk.gap then s.onClk fun x => { x with gap := true, gapStart := s.ck }
  else if !level && s.clk.gap then s.endGap
  else s

/-- GAP_STATE_CHANGE (R25). -/
def execGapStateChange (level : Bool) (s : State) : Outcome :=
  whenHw s fun s => s.followGap (s.gapLevel s.clk.gapActive level)

/-- GAP_SOURCE_APPLY (R27). -/
def execGapSourceApply (level : Bool) (s : State) : Outcome :=
  whenHw s fun s =>
    if s.clk.gapSrc = s.clk.gapActive then s
    else
      let s := (s.onClk fun x => { x with gapActive := x.gapSrc }).raise { ev := .gapSourceChanged }
      s.followGap (s.gapLevel s.clk.gapActive level)

/-- GAPGEN_WRITE_APPLY (R26). -/
def execGapgenWriteApply (s : State) : Outcome :=
  whenHw s fun s =>
    if s.clk.genPend then
      s.onClk fun x => { x with genPeriod := x.period, genLength := x.length, genCount := 0, genPend := false }
    else s

/-! ### Registers (Table 1-3) -/

inductive ClkReg where
  | status
  | ctrl
  | events
  | etLo
  | etHi
  | syncValueLo
  | syncValueHi
  | syncCtrl
  | gapCtrl
  | gapGen
  | gapStats
  | gapClear
  | syncCount
  | freewheelCnt
  | refFerr
deriving DecidableEq, Repr

def clkStatus (x : Clk) : Word :=
  flag x.lock 0 ||| flag x.freewheel 1 ||| flag x.refPresent 2 ||| flag x.etSuspect 3 ||| flag x.gap 4 ||| flag x.syncArmed 5 |||
    flag x.genInvalid 6

/-- SRC and MODE are set; a change of either disarms, and ARM arms (R20). A SYNC that waits for its boundary is dropped
by a change, even one that arms (log 113). -/
def Clk.setSync (x : Clk) (src : BitVec 3) (mode : BitVec 2) (arm : Bool) : Clk :=
  let changed := src ≠ x.syncSrc || mode ≠ x.syncMode
  { x with syncSrc := src, syncMode := mode, syncArmed := arm || (x.syncArmed && !changed), syncDue := x.syncDue && !changed }

/-- SRC and MODE lie in Table 1-3. -/
def syncOk (src mode : Nat) : Bool := src ≤ 5 && mode ≤ 2

def clkAccess (p : Fin 32) (r : ClkReg) (s : State) : Access :=
  let x := s.clk
  match r with
  | .status => roReg (clkStatus x) 0x7F
  | .ctrl => rwReg (flag x.holdSuspect 0) 1 (p == 0) fun v s => s.onClk fun x => { x with holdSuspect := testBit v 0 }
  | .events => w1cReg (p == 0) x.events 0x3F .clk 0
  | .etLo => roReg (bits x.et 0 32)
  | .etHi => roReg (field (bits x.et 32 16) 0) 0xFFFF
  | .syncValueLo => { val := bits x.syncValue 0 32, writable := true, who := fun _ => p == 0 }
  | .syncValueHi =>
    { val := field (bits x.syncValue 32 16) 0, mask := 0xFFFF, writable := true, who := fun _ => p == 0
      act := fun lo v s => s.onClk fun x => { x with syncValue := bits v 0 16 ++ lo.getD (bits x.syncValue 0 32) } }
  | .syncCtrl =>
    { val := field x.syncSrc 0 ||| field x.syncMode 4 ||| flag x.syncArmed 8, mask := 0x137, writable := true, who := fun _ => p == 0
      range := fun v => syncOk (bits v 0 3).toNat (bits v 4 2).toNat
      act := fun _ v s => s.onClk fun x => x.setSync (v.extractLsb' 0 3) (v.extractLsb' 4 2) (testBit v 8) }
  | .gapCtrl => rwReg (field x.gapSrc 0) 7 (p == 0) (range := fun v => (bits v 0 3).toNat ≤ 6) fun v s =>
      s.onClk fun x => { x with gapSrc := v.extractLsb' 0 3 }
  | .gapGen => rwReg (field x.period 0 ||| field x.length 16) 0xFFFFFFFF (p == 0) fun v s =>
      s.onClk fun x => { x with period := v.extractLsb' 0 16, length := v.extractLsb' 16 16, genPend := true }
  | .gapStats => roReg (field x.lastLen 0 ||| field x.minLen 16)
  | .gapClear => clearReg (p == 0) fun s => s.onClk fun x => { x with minLen := 0xFFFF }
  | .syncCount => roReg (field x.loads 0 ||| field x.missed 16)
  | .freewheelCnt => roReg (field x.freewheelCnt 0) 0xFFFF
  | .refFerr => roReg (field x.ferr 0) 0xFFFF

/-- CLK_SYNC_CTRL_ARM (R20, R32): a write of CLK_SYNC_CTRL. -/
def execClkSyncCtrlArm (p : Fin 32) (v : Word) (s : State) : Outcome := whenHw s fun s => s.writeOne p (clkAccess p .syncCtrl) v

/-- CLK_GAP_CLEAR (R28). -/
def execClkGapClear (p : Fin 32) (v : Word) (s : State) : Outcome := whenHw s fun s => s.writeOne p (clkAccess p .gapClear) v

/-! ### Commands (Table 1-2, R30) -/

/-- ET and CLK_STATUS; the reserved bits of the word are sent as 0 (log 152). -/
def runTimeGet : Run := fun s => (s, some (done (le 6 s.clk.et ++ le 4 (clkStatus s.clk))))

/-- TIME_GET. -/
def execTimeGet (h : Header) (s : State) : Outcome := darem (.timeGet h) h { op := 0xF0, idem := true } [] runTimeGet s

def runSyncArm (src mode : Byte) (value : Et) : Run := fun s =>
  if !syncOk src.toNat mode.toNat then (s, some (failed Status.outOfRange))
  else (s.onClk fun x => { (x.setSync (src.setWidth 3) (mode.setWidth 2) true) with syncValue := value }, some (done []))

/-- SYNC_ARM (R20). -/
def execSyncArm (h : Header) (src mode : Byte) (value : Et) (s : State) : Outcome :=
  darem (.syncArm h src mode value) h { op := 0xF1, allowed := h.part == 0 } ([src, mode] ++ le 6 value) (runSyncArm src mode value) s

def runSyncNow (c : CmdRef) (value : Et) : Run := fun s =>
  if s.clk.freewheel then (s, some (failed Status.notReady))
  else (s.onClk fun x => { x with syncValue := value, syncNow := x.syncNow ++ [c] }, none)

/-- SYNC_NOW (R31). -/
def execSyncNow (h : Header) (value : Et) (s : State) : Outcome :=
  darem (.syncNow h value) h { op := 0xF2, allowed := h.part == 0, now := true } (le 6 value) (runSyncNow (refOf h) value) s

def runGapSet (src : Byte) (period length : Half) : Run := fun s =>
  if 6 < src.toNat || (src = 6 && !genValid period length) then (s, some (failed Status.outOfRange))
  else (s.onClk fun x => { x with gapSrc := src.setWidth 3, period := period, length := length, genPend := true }, some (done []))

/-- GAP_SET (R25 to R27). -/
def execGapSet (h : Header) (src : Byte) (period length : Half) (s : State) : Outcome :=
  darem (.gapSet h src period length) h { op := 0xF3, allowed := h.part == 0 } ([src] ++ le 2 period ++ le 2 length)
    (runGapSet src period length) s

end Sys2Proof.Machine
end

