-- ==== Sys2Proof/Machine/Inject.lean ====
section
/-!
DEFINITION. Identity, detector counters and deliberate fault injection (20): the commands, moments and registers.
-/
namespace Sys2Proof.Machine

/-- TYPE of this part (R369). -/
def typeWord : Word := 0x5A546432

/-! ### Detectors (Table 20-4) -/

/-- The number of units of a detector; a calibration unit is coded as R376 gives. -/
def detUnits (det : Nat) : Nat :=
  if 0x040 ≤ det && det ≤ 0x043 then 32
  else if 0x080 ≤ det && det ≤ 0x084 then 1
  else if det = 0x0C0 then 72
  else if det = 0x0C1 || det = 0x0C2 then 0x78
  else if det = 0x100 || det = 0x101 then 72
  else if 0x140 ≤ det && det ≤ 0x143 then 18
  else if 0x180 ≤ det && det ≤ 0x183 then 4
  else if det = 0x184 || det = 0x185 then 1
  else if det = 0x1C0 then 256
  else if det = 0x1C1 then 4
  else if det = 0x1C2 then 8
  else if det = 0x1C3 || det = 0x200 || det = 0x203 then 1
  else if det = 0x201 || det = 0x202 || det = 0x240 then 32
  else if det = 0x241 then 9
  else 0

/-- The detector is in Table 20-4 and UNIT is one of its units. -/
def detUnitOk (det unit : Nat) : Bool :=
  unit < detUnits det && ((det ≠ 0x0C1 && det ≠ 0x0C2) || (unitOf unit).isSome)

/-- ARG is in the detector's range: a held time, a word, or a frame; other detectors take no argument. -/
def detArgOk (det : Nat) (arg : Word) : Bool :=
  if 0x082 ≤ det && det ≤ 0x084 then 1 ≤ arg.toNat && arg.toNat ≤ 65535
  else if det = 0x100 || det = 0x101 then arg.toNat < 1024
  else if 0x140 ≤ det && det ≤ 0x143 then arg.toNat < 1020
  else true

/-- Checks that an armed injection needs (Table 20-4). -/
def detChecks (det : Nat) : Nat :=
  if det = 0x142 then 3 else if det = 0x1C2 then 2 else if det = 0x203 then 8 else 1

/-! ### Registers (Table 20-7) -/

inductive InjReg where
  | type
  | hwRev
  | dieLo
  | dieHi
  | serial
  | rsramEcc
  | kprEvents
  | ctrl
  | status
  | events
  | arm (j : Fin 16)
  | arg (j : Fin 16)
  | detCnt (c k : Fin 16)
deriving DecidableEq, Repr

/-- Armed injections. -/
def Inj.count (x : Inj) : Nat := (x.armed.toList.filter (·.isSome)).length

/-- Seconds left of the window. -/
def State.leftS (s : State) : Nat := if s.inj.enable then (s.inj.expiry - s.ck + 249999999) / 250000000 else 0

def armWord : Option Armed → Word
  | some a => field a.det 0 ||| field a.unit 16 ||| flag true 31
  | none => 0
def argWord : Option Armed → Word
  | some a => a.arg
  | none => 0

def injAccess (p : Fin 32) (r : InjReg) (s : State) : Access :=
  match r with
  | .type => roReg typeWord
  | .hwRev => roReg (field Config.hwRev 0 ||| field Config.week 16) 0xFFFF00FF
  | .dieLo => roReg (Config.dieId.setWidth 32)
  | .dieHi => roReg ((Config.dieId >>> 32).setWidth 32) 0x1FFFF
  | .serial => roReg Config.serial
  | .rsramEcc => roReg (field s.log.rsCorr 0 ||| field s.log.rsUncorr 16)
  | .kprEvents => w1cReg (p == 0) s.log.kprEvents 3 .kpr 0
  | .ctrl => roReg (flag s.inj.enable 0) 1
  | .status => roReg (BitVec.ofNat 32 s.inj.count ||| BitVec.ofNat 32 (s.leftS * 65536)) 0xFFF001F
  | .events => w1cReg (p == 0) s.inj.events 3 .inj 0
  | .arm j => roReg (armWord s.inj.armed[j]) 0x80FF03FF
  | .arg j => roReg (argWord s.inj.armed[j])
  | .detCnt c k =>
    let d := 64 * c.val + k.val
    roReg (field (look 0 s.inj.real d) 0 ||| field (look 0 s.inj.injected d) 16)

/-! ### Moments -/

/-- INJECT_WINDOW_EXPIRY (R377). -/
def execInjectWindowExpiry (s : State) : Outcome := whenKpr s fun s => if s.inj.enable then s.closeInjection else s

/-- INJECT_TIMEOUT (R378). -/
def execInjectTimeout (j : Fin 16) (s : State) : Outcome :=
  whenKpr s fun s =>
    match s.inj.armed[j] with
    | some a => ({ s with inj := { s.inj with armed := s.inj.armed.set j none } }).finish a.cmd (failed Status.aborted)
    | none => s

/-- INJECTED_CONDITION_RELEASE (R378): the held thermal condition ends; the flag it set clears as DIE_T lets it (log 43). -/
def execInjectedConditionRelease (det : Half) (s : State) : Outcome :=
  .next (
    let s := { s with inj := { s.inj with held := s.inj.held.filter (· ≠ det.setWidth 10) } }
    let t := s.pwr.dieT
    if s.hw && det = 0x082 && s.warnEnds t then s.endWarn
    else if s.hw && det = 0x083 && s.barEnds t then s.endBar
    else s)

/-! ### Commands (Table 20-6) -/

/-- The body of ID_GET (Table 20-3). -/
def State.idBody (s : State) : List Byte :=
  let slot := s.fw.slots[s.fw.active]
  let sash := s.sash.mated
  le 4 typeWord ++ [Config.hwRev, BitVec.ofNat 8 s.fw.active.val] ++ bytesOf 8 Config.dieId.toNat ++ le 4 Config.serial ++
    le 2 Config.week ++ le 2 s.node.addr ++ le 4 slot.version ++
    le 4 (if sash then s.sash.type else 0) ++ le 4 (if sash then s.sash.serial else 0)

def runIdGet : Run := answerOnly fun s => done s.idBody

/-- ID_GET (R371). -/
def execIdGet (h : Header) (s : State) : Outcome := darem (.idGet h) h { op := 0x01, idem := true } [] runIdGet s

def runInjectEnable (en : Byte) (duration : Half) : Run := fun s =>
  if en = 0 then (s.closeInjection, some (done []))
  else if en ≠ 1 || duration = 0 || 3600 < duration.toNat then (s, some (failed Status.outOfRange))
  else
    let s := { s with inj := { s.inj with enable := true, expiry := s.ck + duration.toNat * 250000000 } }
    (s.raise { ev := .injEnabled }, some (done []))

/-- INJECT_ENABLE (R377). -/
def execInjectEnable (h : Header) (en : Byte) (duration : Half) (s : State) : Outcome :=
  darem (.injectEnable h en duration) h { op := 0xA1, allowed := h.part == 0 } (en :: le 2 duration) (runInjectEnable en duration) s

/-- An injected watchdog reset: DONE commits before the reset takes effect (R378). -/
def State.injectDog (s : State) (c : CmdRef) : State :=
  let s := (s.countDet 0x200 true).commitResult c (done (le 6 s.clk.et ++ [0])) true
  (s.carry dogMark true).watchdog

/-- Arm an injection in the first free place. -/
def State.armInjection (s : State) (a : Armed) : Option State :=
  match (List.finRange 16).find? fun j => s.inj.armed[j].isNone with
  | some j => some { s with inj := { s.inj with armed := s.inj.armed.set j (some a) } }
  | none => none

def runInject (c : CmdRef) (det : Half) (unit : Byte) (arg : Word) (timeout : Half) : Run := fun s =>
  if !s.inj.enable then (s, some (failed Status.notReady))
  else if !detUnitOk det.toNat unit.toNat || !detArgOk det.toNat arg || timeout = 0 || 60000 < timeout.toNat then
    (s, some (failed Status.outOfRange))
  else if (s.armedOn (det.setWidth 10) unit).isSome then (s, some (failed Status.conflict))
  else if 16 ≤ s.inj.count then (s, some (failed Status.busy))
  else if det = 0x200 then (s.injectDog c, none)
  else match s.armInjection { det := det.setWidth 10, unit := unit, arg := arg, cmd := c, left := detChecks det.toNat } with
    | some s => (s, none)
    | none => (s, some (failed Status.busy))

/-- INJECT (R378). -/
def execInject (h : Header) (det : Half) (unit : Byte) (arg : Word) (timeout : Half) (s : State) : Outcome :=
  darem (.inject h det unit arg timeout) h { op := 0xA0, allowed := h.part == 0 }
    (le 2 det ++ [unit] ++ le 4 arg ++ le 2 timeout) (runInject (refOf h) det unit arg timeout) s

end Sys2Proof.Machine
end

