-- ==== Sys2Proof/Machine/AddressMap.lean ====
section
/-!
DEFINITION. The register map (23): every register's block, offset and address (Tables 23-1 to 23-4), the fields wider than
32 bits (Table 23-5), and the registers of the KPR and LDG blocks that the ledger and the straps own.
-/
namespace Sys2Proof.Machine

/-! ### Registers of the KPR and LDG blocks (Tables 2-5, 16-8) -/

inductive KprReg where
  | nodeAddr
  | evtNext
  | evtLost
  | evtSub (p : Fin 32)
deriving DecidableEq, Repr

inductive LdgReg where
  | status
  | space
  | segs
  | events
  | cmdCnt
  | cmdCnt2
  | recovery
  | floor (p : Fin 32)
deriving DecidableEq, Repr

def kprAccess (p : Fin 32) (r : KprReg) (s : State) : Access :=
  match r with
  | .nodeAddr =>
    { val := field s.node.addr 0 ||| flag s.node.valid 16 ||| flag s.node.mismatch 17, mask := 0x3FFFF, writable := true
      who := fun _ => p == 0
      act := fun _ v s => if testBit v 17 then { s with node := { s.node with mismatch := false } } else s }
  | .evtNext => roReg s.log.next
  | .evtLost => roReg (field s.log.lost 0) 0xFFFF
  | .evtSub q => roReg (field s.log.subs[q].node 0 ||| flag s.log.subs[q].en 16) 0x1FFFF

def State.retained (s : State) : Nat := (s.ldg.entries.filter fun e => e.result.isSome).length
def State.segCount (s : State) (f : SegState → Bool) : Nat := (s.ldg.segs.toList.filter fun g => f g.state).length

def ldgStatus (s : State) : Word :=
  BitVec.ofNat 32 s.allInFlight ||| field s.ldg.state 9 ||| BitVec.ofNat 32 (s.retained * 65536)

/-- LDG_SPACE reads its reset value 0 until the journal has been scanned. -/
def ldgSpace (s : State) : Word :=
  if s.ldg.state = 0 then 0 else BitVec.ofNat 32 (s.freeBytes / 1024 ||| (s.charged / 1024) * 65536)

/-- LDG_SEGS: a segment under cleaning is in neither count (R308). -/
def ldgSegs (s : State) : Word :=
  BitVec.ofNat 32 (s.segCount (fun g => g != .retired && g != .erasing) ||| s.segCount (· == .retired) * 65536)

def ldgAccess (p : Fin 32) (r : LdgReg) (s : State) : Access :=
  let x := s.ldg
  match r with
  | .status => roReg (ldgStatus s) 0x1FFF07FF
  | .space => roReg (ldgSpace s) 0x03FF03FF
  | .segs => roReg (ldgSegs s) 0x01FF01FF
  | .events => w1cReg (p == 0) x.events 0xF .ldg 0
  | .cmdCnt => roReg (field x.accepted 0 ||| field x.rejected 16)
  | .cmdCnt2 => roReg (field x.repeats 0 ||| field x.poisoned 16 ||| field x.discarded 24)
  | .recovery => roReg (field x.committed 0 ||| field x.rerun 8 ||| field x.interrupted 16 ||| field x.timeMs 24)
  | .floor q => roReg x.floors[q]

/-! ### Every register -/

/-- A register of the module. -/
inductive Reg where
  | kpr (r : KprReg)
  | inj (r : InjReg)
  | clk (r : ClkReg)
  | pwr (r : PwrReg)
  | sash (r : SashReg)
  | ldg (r : LdgReg)
  | part (r : PartReg)
  | key (r : KeyReg)
  | fw (r : FwReg)
  | can (r : CanReg)
  | prb (r : PrbReg)
  | arb (r : ArbReg)
  | orq (r : OrqReg)
  | cal (r : CalReg)
  | rep (r : RepReg)
  | lnk (p : Fin 4) (r : LnkReg)
  | rc (p : Fin 4) (r : RcReg)
  | route (e : Fin 320)
  | abay (a : Fin 9) (r : AbayReg)
  | adc (n : Fin 18) (r : AdcReg)
  | xbar (r : XbarReg)
  | conv (r : ConvReg)
  | wdac (n : Fin 8) (r : WdacReg)
  | cfg (d : Fin 18) (r : CfgReg)
  | mem (d : Fin 18) (r : MemReg)
  | lin (r : LinReg)
  | io (r : IoReg)
deriving DecidableEq, Repr

/-- What a register address names: a register, or a word of a memory window (R190). -/
inductive Target where
  | reg (r : Reg)
  | window (d : Fin 18) (m : Fin 4) (k : BitVec 10)
deriving DecidableEq, Repr

/-! ### Offsets (Tables 23-2 to 23-4) -/

def kprOff : KprReg → Nat
  | .nodeAddr => 0x040
  | .evtNext => 0x200
  | .evtLost => 0x204
  | .evtSub p => 0x280 + 4 * p.val

/-- The registers of Table 20-7 lie in two blocks: their addresses. -/
def injAddr : InjReg → Nat
  | .type => 0x0000
  | .hwRev => 0x0004
  | .dieLo => 0x0008
  | .dieHi => 0x000C
  | .serial => 0x0010
  | .rsramEcc => 0x0020
  | .kprEvents => 0x0024
  | .ctrl => 0x9000
  | .status => 0x9004
  | .events => 0x9008
  | .arm j => 0x9100 + 0x10 * j.val
  | .arg j => 0x9104 + 0x10 * j.val
  | .detCnt c k => 0x9800 + 0x40 * c.val + 4 * k.val

def clkOff : ClkReg → Nat
  | .status => 0x000
  | .ctrl => 0x004
  | .events => 0x008
  | .etLo => 0x010
  | .etHi => 0x014
  | .syncValueLo => 0x018
  | .syncValueHi => 0x01C
  | .syncCtrl => 0x020
  | .gapCtrl => 0x024
  | .gapGen => 0x028
  | .gapStats => 0x02C
  | .gapClear => 0x030
  | .syncCount => 0x034
  | .freewheelCnt => 0x038
  | .refFerr => 0x03C

def pwrOff : PwrReg → Nat
  | .domState => 0x000
  | .domReq => 0x004
  | .domTripped => 0x008
  | .domSuspect => 0x00C
  | .therm => 0x010
  | .peak => 0x014
  | .thermClear => 0x018
  | .cause => 0x01C
  | .input => 0x020
  | .events => 0x024
  | .ctrl i => 0x100 + 4 * i.val
  | .mon i => 0x200 + 4 * i.val

def sashOff : SashReg → Nat
  | .status => 0x000
  | .events => 0x004
  | .expect => 0x008
  | .type => 0x00C
  | .serial => 0x010
  | .biasSet g => 0x020 + 4 * g.val
  | .ramp => 0x030
  | .biasMon g => 0x040 + 4 * g.val
  | .matings => 0x050
  | .biasS => 0x054
  | .charge => 0x058
  | .peakT => 0x05C
  | .page p => 0x060 + 4 * p.val

def ldgOff : LdgReg → Nat
  | .status => 0x000
  | .space => 0x004
  | .segs => 0x008
  | .events => 0x00C
  | .cmdCnt => 0x010
  | .cmdCnt2 => 0x014
  | .recovery => 0x018
  | .floor p => 0x100 + 4 * p.val

def partOff : PartReg → Nat
  | .epoch => 0x000
  | .status => 0x004
  | .events => 0x008
  | .cfg p => 0x040 + 4 * p.val
  | .loss p => 0x0C0 + 4 * p.val
  | .own w => 0x400 + 4 * w.val

def keyOff : KeyReg → Nat
  | .slot p => 0x000 + 0x10 * p.val
  | .lease p => 0x004 + 0x10 * p.val
  | .kcv p => 0x008 + 0x10 * p.val
  | .cnt p => 0x00C + 0x10 * p.val
  | .events => 0x200

def fwOff : FwReg → Nat
  | .status => 0x000
  | .floor => 0x004
  | .confirmTime => 0x008
  | .confirmLeft => 0x00C
  | .events => 0x010
  | .slotState k => 0x020 + 0x10 * k.val
  | .slotLength k => 0x024 + 0x10 * k.val
  | .slotSvn k => 0x028 + 0x10 * k.val
  | .slotWear k => 0x02C + 0x10 * k.val

def canOff : CanReg → Nat
  | .ctrl => 0x000
  | .status => 0x004
  | .err => 0x008
  | .cnt => 0x00C
  | .cnt2 => 0x010
  | .events => 0x014
  | .clear => 0x018

def prbOff : PrbReg → Nat
  | .sel n => 0x000 + 4 * n.val
  | .aux => 0x020
  | .capCtrl => 0x024
  | .capPat => 0x028
  | .capEtLo => 0x030
  | .capEtHi => 0x034
  | .capStatus => 0x038
  | .capTrigLo => 0x040
  | .capTrigHi => 0x044
  | .events => 0x048
  | .capData w => 0x400 + 4 * w.val

def arbOff : ArbReg → Nat
  | .ctrl => 0x000
  | .status => 0x004
  | .mask => 0x008
  | .events => 0x00C
  | .restamp => 0x010
  | .clear => 0x014
  | .req k => 0x100 + 0x10 * k.val
  | .dest k => 0x104 + 0x10 * k.val
  | .seq k => 0x108 + 0x10 * k.val
  | .cnt k => 0x10C + 0x10 * k.val

def orqOff : OrqReg → Nat
  | .used p => 0x000 + 0x10 * p.val
  | .committed p => 0x004 + 0x10 * p.val
  | .peak p => 0x008 + 0x10 * p.val
  | .clear => 0x040

def calOff : CalReg → Nat
  | .status => 0x000
  | .gapCfg => 0x004
  | .events => 0x008
  | .cnt => 0x00C
  | .limits => 0x010
  | .coefSel => 0x020
  | .coefAddr => 0x024
  | .coefData => 0x028
  | .coefApply => 0x02C
  | .job j => 0x100 + 0x10 * j.val
  | .jobSt j => 0x104 + 0x10 * j.val

/-- Offsets of the REP block count from the CAL base. -/
def repOff : RepReg → Nat
  | .spare => 0x800
  | .loan => 0x804
  | .retired => 0x808
  | .events => 0x80C
  | .cfg r => 0x840 + 0x20 * r.val
  | .state r => 0x844 + 0x20 * r.val
  | .cmp r => 0x848 + 0x20 * r.val
  | .param r => 0x84C + 0x20 * r.val
  | .warmup r => 0x850 + 0x20 * r.val
  | .maskLo r => 0x854 + 0x20 * r.val
  | .maskHi r => 0x858 + 0x20 * r.val
  | .record r => 0x85C + 0x20 * r.val

def lnkOff : LnkReg → Nat
  | .ctrl => 0x000
  | .status => 0x004
  | .latTarget => 0x008
  | .downTime => 0x00C
  | .tx => 0x010
  | .segCtrl => 0x014
  | .events => 0x018
  | .latRec => 0x020
  | .latRecSkew => 0x024
  | .latNow => 0x028
  | .latNowSkew => 0x02C
  | .errCnt => 0x030
  | .lockCnt => 0x034
  | .partnerNode => 0x040
  | .partnerType => 0x044
  | .partnerDieLo => 0x048
  | .partnerDieHi => 0x04C
  | .partnerSerial => 0x050
  | .lane l => 0x060 + 4 * l.val

def rcOff : RcReg → Nat
  | .ctrl => 0x100
  | .txReq => 0x104
  | .txRsp => 0x108
  | .rx => 0x10C
  | .replay => 0x110
  | .reorder => 0x114
  | .fwd => 0x118
  | .session => 0x11C
  | .err => 0x120
  | .cnt => 0x124
  | .cnt2 => 0x128
  | .events => 0x12C
  | .clear => 0x130

def abayOff : AbayReg → Nat
  | .status => 0x000
  | .slotEn => 0x004
  | .sumCfg => 0x008
  | .mux => 0x00C
  | .so => 0x010
  | .events => 0x014
  | .clear => 0x018
  | .thrCtrl => 0x01C
  | .slotCfg k => 0x100 + 0x20 * k.val
  | .cmpLo k => 0x104 + 0x20 * k.val
  | .cmpHi k => 0x108 + 0x20 * k.val
  | .slotCnt k => 0x10C + 0x20 * k.val

def adcOff : AdcReg → Nat
  | .ctrl => 0x00
  | .urg => 0x04
  | .ref => 0x08
  | .status => 0x0C
  | .tag => 0x10
  | .cnt => 0x14
  | .winCnt => 0x18
  | .events => 0x1C
  | .cntClear => 0x20
  | .res j => 0x40 + 4 * j.val
  | .resPop => 0x50
  | .entCfg e => 0x80 + 8 * e.val
  | .entWin e => 0x84 + 8 * e.val

def xbarOff : XbarReg → Nat
  | .oct o => 0x000 + 4 * o.val
  | .status => 0x020
  | .asb => 0x024

def convOff : ConvReg → Nat
  | .grp g => 0x400 + 4 * g.val
  | .grpCtrl g => 0x420 + 4 * g.val
  | .grpCnt g => 0x440 + 4 * g.val
  | .tmrCtrl t => 0x500 + 0x10 * t.val
  | .tmrPeriod t => 0x504 + 0x10 * t.val
  | .tmrOffLo t => 0x508 + 0x10 * t.val
  | .tmrOffHi t => 0x50C + 0x10 * t.val
  | .tmrEvents => 0x600

def wdacOff : WdacReg → Nat
  | .ctrl => 0x00
  | .div => 0x04
  | .static => 0x08
  | .cmd => 0x0C
  | .status => 0x10
  | .last => 0x14
  | .cnt => 0x18
  | .cnt2 => 0x1C
  | .events => 0x20
  | .qdata => 0x24
  | .ring => 0x28
  | .ftw => 0x2C
  | .phase0 => 0x30
  | .amp => 0x34
  | .tblAddr => 0x38
  | .tblData => 0x3C
  | .cntClear => 0x40

def cfgOff : CfgReg → Nat
  | .bayStatus => 0x000
  | .bayEvents => 0x004
  | .resetCnt => 0x008
  | .status => 0x020
  | .idLo => 0x024
  | .idHi => 0x028
  | .cnt => 0x02C
  | .events => 0x030
  | .ctrl => 0x034

def memOff : MemReg → Nat
  | .events => 0x0F0
  | .clear => 0x0F4
  | .cfg m => 0x100 + 0x20 * m.val
  | .levels m => 0x104 + 0x20 * m.val
  | .depth m => 0x108 + 0x20 * m.val
  | .stat m => 0x10C + 0x20 * m.val
  | .ecc m => 0x110 + 0x20 * m.val
  | .cnt m => 0x114 + 0x20 * m.val
  | .errAddr m => 0x118 + 0x20 * m.val
  | .peep k => 0x180 + 4 * k.val

def linOff : LinReg → Nat
  | .ctrl => 0x0000
  | .status => 0x0004
  | .events => 0x0008
  | .offSrc => 0x000C
  | .stage x => 0x2000 + 4 * x.toNat
  | .active x => 0x4000 + 4 * x.toNat

def ioOff : IoReg → Nat
  | .ctrl i => 0x10 * i.val
  | .status i => 0x10 * i.val + 4

/-- The address of a register (Table 23-1). ADC k of bay a is ADC 2a + k. -/
def Reg.addr : Reg → Nat
  | .kpr r => kprOff r
  | .inj r => injAddr r
  | .clk r => 0x1000 + clkOff r
  | .pwr r => 0x2000 + pwrOff r
  | .sash r => 0x3000 + sashOff r
  | .ldg r => 0x4000 + ldgOff r
  | .part r => 0x5000 + partOff r
  | .key r => 0x6000 + keyOff r
  | .fw r => 0x7000 + fwOff r
  | .can r => 0x8000 + canOff r
  | .prb r => 0xA000 + prbOff r
  | .arb r => 0xB000 + arbOff r
  | .orq r => 0xC000 + orqOff r
  | .cal r => 0xD000 + calOff r
  | .rep r => 0xD000 + repOff r
  | .lnk p r => 0x10000 + 0x1000 * p.val + lnkOff r
  | .rc p r => 0x10000 + 0x1000 * p.val + rcOff r
  | .route e => 0x10800 + 4 * e.val
  | .abay a r => 0x20000 + 0x1000 * a.val + abayOff r
  | .adc n r => 0x20000 + 0x1000 * (n.val / 2) + 0x400 + 0x100 * (n.val % 2) + adcOff r
  | .xbar r => 0x2F000 + xbarOff r
  | .conv r => 0x2F000 + convOff r
  | .wdac n r => 0x30000 + 0x100 * n.val + wdacOff r
  | .cfg d r => 0x40000 + 0x1000 * d.val + cfgOff r
  | .mem d r => 0x40000 + 0x1000 * d.val + memOff r
  | .lin r => 0x60000 + linOff r
  | .io r => 0x70000 + ioOff r

def Target.addr : Target → Nat
  | .reg r => r.addr
  | .window d m k => 0x100000 + 0x4000 * d.val + 0x1000 * m.val + 4 * k.toNat

/-- The domain of the unit that an address names (Table 3-1); none in the always-on region. -/
def Target.dom : Target → Option (Fin 32)
  | .window d _ _ => some (domOfD d)
  | .reg r => match r with
    | .abay a _ => some (domOfA a)
    | .adc n _ => some (domOfA (bayOfAdc n))
    | .cfg d _ => some (domOfD d)
    | .mem d _ => some (domOfD d)
    | .lnk p _ => some (domOfL p)
    | .rc p _ => some (domOfL p)
    | .sash x => match x with
      | .biasSet _ => some domSB
      | .biasMon _ => some domSB
      | .ramp => some domSB
      | _ => none
    | _ => none

/-- The resources that an address names (Table 17-1). -/
def Target.codes : Target → List Nat
  | .window d _ _ => [0x10 + d.val]
  | .reg r => match r with
    | .abay a _ => [a.val]
    | .adc n _ => [0x40 + n.val]
    | .cfg d _ => [0x10 + d.val]
    | .mem d _ => [0x10 + d.val]
    | .wdac n _ => [0x60 + n.val]
    | .io (.ctrl i) => [0x70 + i.val]
    | .io (.status i) => [0x70 + i.val]
    | .xbar (.oct o) => [0x30 + o.val]
    | .conv (.tmrCtrl t) => [0x90 + t.val]
    | .conv (.tmrPeriod t) => [0x90 + t.val]
    | .conv (.tmrOffLo t) => [0x90 + t.val]
    | .conv (.tmrOffHi t) => [0x90 + t.val]
    | .sash (.biasSet _) => [0xC0]
    | .sash .ramp => [0xC0]
    | .prb _ => [0xC1]
    | .arb (.req k) => (reqDoms k).map (bayCode ·.val)
    | .arb (.dest k) => (reqDoms k).map (bayCode ·.val)
    | .route e => [0x200 + e.val]
    | .lin (.stage x) => match linDest x.toNat with | some (some c) => [c] | _ => []
    | _ => []

/-- The resources that a word names when it is written to an address: bays, ADCs and timers by their bits or their numbers. -/
def Target.named (t : Target) (v : Word) : List Nat :=
  match t with
  | .window _ _ _ => []
  | .reg r => match r with
    | .arb .restamp => (reqList v).flatMap fun k => (reqDoms k).map (bayCode ·.val)
    | .xbar (.oct _) => octBays (bits v 0 4) (bits v 4 4)
    | .conv (.grp _) => (bitList 18 v).map (0x40 + ·)
    | .conv .tmrEvents => ((bitList 32 v).map fun i => 0x90 + i % 16).dedup
    | .prb (.sel _) => if (bits v 0 5).toNat < 18 then [0x10 + (bits v 0 5).toNat] else []
    | _ => []

/-- A register that exists: LIN_STAGE and LIN_ACTIVE stand for the listed destinations only. -/
def Reg.exists : Reg → Bool
  | .lin (.stage x) => (linDest x.toNat).isSome
  | .lin (.active x) => (linDest x.toNat).isSome
  | _ => true

/-! ### What an address names (R399, R400) -/

/-- Entry of an array of `n` registers from `base`, `stride` apart. -/
def arr (base stride n off : Nat) : Option (Fin n) :=
  if base ≤ off && (off - base) % stride = 0 then fin ((off - base) / stride) else none

/-- The first that answers. -/
def firstOf {α : Type} : List (Option α) → Option α
  | [] => none
  | some x :: _ => some x
  | none :: xs => firstOf xs

/-- The register of a list with this offset. -/
def atOff {α : Type} (off : α → Nat) (rs : List α) (o : Nat) : Option α := rs.find? fun r => off r = o

def kprAt (o : Nat) : Option KprReg := firstOf [atOff kprOff [.nodeAddr, .evtNext, .evtLost] o, (arr 0x280 4 32 o).map .evtSub]

/-- Registers of Table 20-7 in the KPR block. -/
def idAt (o : Nat) : Option InjReg := atOff injAddr [.type, .hwRev, .dieLo, .dieHi, .serial, .rsramEcc, .kprEvents] o

/-- Registers of the INJ block. -/
def injAt (o : Nat) : Option InjReg :=
  firstOf [
    atOff injAddr [.ctrl, .status, .events] (0x9000 + o), (arr 0x100 0x10 16 o).map .arm, (arr 0x104 0x10 16 o).map .arg,
    if 0x800 ≤ o && o % 4 = 0 && o < 0xC00 then
      (match (fin ((o - 0x800) / 0x40) : Option (Fin 16)), (fin (o % 0x40 / 4) : Option (Fin 16)) with
        | some c, some k => some (.detCnt c k)
        | _, _ => none)
    else none]

def clkAt (o : Nat) : Option ClkReg :=
  atOff clkOff [.status, .ctrl, .events, .etLo, .etHi, .syncValueLo, .syncValueHi, .syncCtrl, .gapCtrl, .gapGen, .gapStats,
    .gapClear, .syncCount, .freewheelCnt, .refFerr] o

def pwrAt (o : Nat) : Option PwrReg :=
  firstOf [atOff pwrOff [.domState, .domReq, .domTripped, .domSuspect, .therm, .peak, .thermClear, .cause, .input, .events] o,
    (arr 0x100 4 32 o).map .ctrl, (arr 0x200 4 32 o).map .mon]

def sashAt (o : Nat) : Option SashReg :=
  firstOf [atOff sashOff [.status, .events, .expect, .type, .serial, .ramp, .matings, .biasS, .charge, .peakT] o,
    (arr 0x020 4 4 o).map .biasSet, (arr 0x040 4 4 o).map .biasMon, (arr 0x060 4 8 o).map .page]

def ldgAt (o : Nat) : Option LdgReg :=
  firstOf [atOff ldgOff [.status, .space, .segs, .events, .cmdCnt, .cmdCnt2, .recovery] o, (arr 0x100 4 32 o).map .floor]

def partAt (o : Nat) : Option PartReg :=
  firstOf [atOff partOff [.epoch, .status, .events] o, (arr 0x040 4 32 o).map .cfg, (arr 0x0C0 4 32 o).map .loss,
    (arr 0x400 4 208 o).map .own]

def keyAt (o : Nat) : Option KeyReg :=
  firstOf [atOff keyOff [.events] o, (arr 0x000 0x10 32 o).map .slot, (arr 0x004 0x10 32 o).map .lease,
    (arr 0x008 0x10 32 o).map .kcv, (arr 0x00C 0x10 32 o).map .cnt]

def fwAt (o : Nat) : Option FwReg :=
  firstOf [atOff fwOff [.status, .floor, .confirmTime, .confirmLeft, .events] o, (arr 0x020 0x10 2 o).map .slotState,
    (arr 0x024 0x10 2 o).map .slotLength, (arr 0x028 0x10 2 o).map .slotSvn, (arr 0x02C 0x10 2 o).map .slotWear]

def canAt (o : Nat) : Option CanReg := atOff canOff [.ctrl, .status, .err, .cnt, .cnt2, .events, .clear] o

def prbAt (o : Nat) : Option PrbReg :=
  firstOf [atOff prbOff [.aux, .capCtrl, .capPat, .capEtLo, .capEtHi, .capStatus, .capTrigLo, .capTrigHi, .events] o,
    (arr 0x000 4 8 o).map .sel, (arr 0x400 4 256 o).map .capData]

def arbAt (o : Nat) : Option ArbReg :=
  firstOf [atOff arbOff [.ctrl, .status, .mask, .events, .restamp, .clear] o, (arr 0x100 0x10 32 o).map .req,
    (arr 0x104 0x10 32 o).map .dest, (arr 0x108 0x10 32 o).map .seq, (arr 0x10C 0x10 32 o).map .cnt]

def orqAt (o : Nat) : Option OrqReg :=
  firstOf [atOff orqOff [.clear] o, (arr 0x000 0x10 4 o).map .used, (arr 0x004 0x10 4 o).map .committed, (arr 0x008 0x10 4 o).map .peak]

def calAt (o : Nat) : Option CalReg :=
  firstOf [atOff calOff [.status, .gapCfg, .events, .cnt, .limits, .coefSel, .coefAddr, .coefData, .coefApply] o,
    (arr 0x100 0x10 16 o).map .job, (arr 0x104 0x10 16 o).map .jobSt]

def repAt (o : Nat) : Option RepReg :=
  firstOf [atOff repOff [.spare, .loan, .retired, .events] o, (arr 0x840 0x20 3 o).map .cfg, (arr 0x844 0x20 3 o).map .state,
    (arr 0x848 0x20 3 o).map .cmp, (arr 0x84C 0x20 3 o).map .param, (arr 0x850 0x20 3 o).map .warmup,
    (arr 0x854 0x20 3 o).map .maskLo, (arr 0x858 0x20 3 o).map .maskHi, (arr 0x85C 0x20 3 o).map .record]

def lnkAt (o : Nat) : Option LnkReg :=
  firstOf [atOff lnkOff [.ctrl, .status, .latTarget, .downTime, .tx, .segCtrl, .events, .latRec, .latRecSkew, .latNow, .latNowSkew,
    .errCnt, .lockCnt, .partnerNode, .partnerType, .partnerDieLo, .partnerDieHi, .partnerSerial] o, (arr 0x060 4 4 o).map .lane]

def rcAt (o : Nat) : Option RcReg :=
  atOff rcOff [.ctrl, .txReq, .txRsp, .rx, .replay, .reorder, .fwd, .session, .err, .cnt, .cnt2, .events, .clear] o

def abayAt (o : Nat) : Option AbayReg :=
  firstOf [atOff abayOff [.status, .slotEn, .sumCfg, .mux, .so, .events, .clear, .thrCtrl] o, (arr 0x100 0x20 8 o).map .slotCfg,
    (arr 0x104 0x20 8 o).map .cmpLo, (arr 0x108 0x20 8 o).map .cmpHi, (arr 0x10C 0x20 8 o).map .slotCnt]

def adcAt (o : Nat) : Option AdcReg :=
  firstOf [atOff adcOff [.ctrl, .urg, .ref, .status, .tag, .cnt, .winCnt, .events, .cntClear, .resPop] o, (arr 0x40 4 4 o).map .res,
    (arr 0x80 8 16 o).map .entCfg, (arr 0x84 8 16 o).map .entWin]

def xbarAt (o : Nat) : Option XbarReg := firstOf [atOff xbarOff [.status, .asb] o, (arr 0x000 4 8 o).map .oct]

def convAt (o : Nat) : Option ConvReg :=
  firstOf [atOff convOff [.tmrEvents] o, (arr 0x400 4 8 o).map .grp, (arr 0x420 4 8 o).map .grpCtrl, (arr 0x440 4 8 o).map .grpCnt,
    (arr 0x500 0x10 16 o).map .tmrCtrl, (arr 0x504 0x10 16 o).map .tmrPeriod, (arr 0x508 0x10 16 o).map .tmrOffLo,
    (arr 0x50C 0x10 16 o).map .tmrOffHi]

def wdacAt (o : Nat) : Option WdacReg :=
  atOff wdacOff [.ctrl, .div, .static, .cmd, .status, .last, .cnt, .cnt2, .events, .qdata, .ring, .ftw, .phase0, .amp, .tblAddr,
    .tblData, .cntClear] o

def cfgAt (o : Nat) : Option CfgReg := atOff cfgOff [.bayStatus, .bayEvents, .resetCnt, .status, .idLo, .idHi, .cnt, .events, .ctrl] o

def memAt (o : Nat) : Option MemReg :=
  firstOf [atOff memOff [.events, .clear] o, (arr 0x100 0x20 4 o).map .cfg, (arr 0x104 0x20 4 o).map .levels,
    (arr 0x108 0x20 4 o).map .depth, (arr 0x10C 0x20 4 o).map .stat, (arr 0x110 0x20 4 o).map .ecc, (arr 0x114 0x20 4 o).map .cnt,
    (arr 0x118 0x20 4 o).map .errAddr, (arr 0x180 4 2 o).map .peep]

/-- A listed destination of the lintel crossbar. -/
def destAt (x : Nat) : Option (BitVec 12) := if (linDest x).isSome then some (BitVec.ofNat 12 x) else none

def linAt (o : Nat) : Option LinReg :=
  if o % 4 ≠ 0 then none
  else if o < 0x2000 then atOff linOff [.ctrl, .status, .events, .offSrc] o
  else if o < 0x4000 then (destAt ((o - 0x2000) / 4)).map .stage
  else (destAt ((o - 0x4000) / 4)).map .active

def ioAt (o : Nat) : Option IoReg := firstOf [(arr 0 0x10 24 o).map .ctrl, (arr 4 0x10 24 o).map .status]

/-- A register of the block of port p (R278, R400): the routing table lies in port 0's block only. -/
def portAt (p : Fin 4) (o : Nat) : Option Reg :=
  firstOf [(lnkAt o).map (.lnk p), (rcAt o).map (.rc p), if p = 0 then (arr 0x800 4 320 o).map .route else none]

/-- A register of the block of analogue bay a. -/
def bayAt (a : Fin 9) (o : Nat) : Option Reg :=
  if o < 0x400 then (abayAt o).map (.abay a)
  else if o < 0x500 then (adcAt (o - 0x400)).map (.adc ⟨2 * a.val, by omega⟩)
  else if o < 0x600 then (adcAt (o - 0x500)).map (.adc ⟨2 * a.val + 1, by omega⟩)
  else none

/-- A register of the keeper-side blocks: block number and offset. -/
def keeperAt (b o : Nat) : Option Reg :=
  match b with
  | 0x0 => firstOf [(kprAt o).map .kpr, (idAt o).map .inj]
  | 0x1 => (clkAt o).map .clk
  | 0x2 => (pwrAt o).map .pwr
  | 0x3 => (sashAt o).map .sash
  | 0x4 => (ldgAt o).map .ldg
  | 0x5 => (partAt o).map .part
  | 0x6 => (keyAt o).map .key
  | 0x7 => (fwAt o).map .fw
  | 0x8 => (canAt o).map .can
  | 0x9 => (injAt o).map .inj
  | 0xA => (prbAt o).map .prb
  | 0xB => (arbAt o).map .arb
  | 0xC => (orqAt o).map .orq
  | 0xD => firstOf [(calAt o).map .cal, (repAt o).map .rep]
  | _ => none

/-- The register at an address below the memory windows; none where the address is unmapped. -/
def regAt (addr : Nat) : Option Reg :=
  let b := addr / 0x1000
  let o := addr % 0x1000
  if addr < 0x10000 then keeperAt b o
  else if addr < 0x20000 then (match (fin (b - 0x10) : Option (Fin 4)) with | some p => portAt p o | none => none)
  else if addr < 0x2F000 then (match (fin (b - 0x20) : Option (Fin 9)) with | some a => bayAt a o | none => none)
  else if addr < 0x30000 then firstOf [(xbarAt o).map .xbar, (convAt o).map .conv]
  else if addr < 0x40000 then
    (match (fin ((addr - 0x30000) / 0x100) : Option (Fin 8)) with | some n => (wdacAt (addr % 0x100)).map (.wdac n) | none => none)
  else if addr < 0x60000 then
    (match (fin (b - 0x40) : Option (Fin 18)) with | some d => firstOf [(cfgAt o).map (.cfg d), (memAt o).map (.mem d)] | none => none)
  else if addr < 0x70000 then (linAt (addr - 0x60000)).map .lin
  else if addr < 0x80000 then (ioAt (addr - 0x70000)).map .io
  else none

/-- What an address names (R399, R400). -/
def targetAt (addr : Nat) : Option Target :=
  if addr < 0x100000 then (regAt addr).map .reg
  else if addr % 4 = 0 then
    (match (fin ((addr - 0x100000) / 0x4000) : Option (Fin 18)), (fin (addr % 0x4000 / 0x1000) : Option (Fin 4)) with
      | some d, some m => some (.window d m (BitVec.ofNat 10 (addr % 0x1000 / 4)))
      | _, _ => none)
  else none

/-- The access that a register gives a partition. -/
def Reg.access (p : Fin 32) (r : Reg) (s : State) : Access :=
  match r with
  | .kpr r => kprAccess p r s
  | .inj r => injAccess p r s
  | .clk r => clkAccess p r s
  | .pwr r => pwrAccess p r s
  | .sash r => sashAccess p r s
  | .ldg r => ldgAccess p r s
  | .part r => partAccess p r s
  | .key r => keyAccess p r s
  | .fw r => fwAccess p r s
  | .can r => canAccess p r s
  | .prb r => prbAccess p r s
  | .arb r => arbAccess p r s
  | .orq r => orqAccess p r s
  | .cal r => calAccess p r s
  | .rep r => repAccess p r s
  | .lnk q r => lnkAccess p q r s
  | .rc q r => rcAccess p q r s
  | .route e => routeAccess p e s
  | .abay a r => abayAccess p a r s
  | .adc n r => adcAccess p n r s
  | .xbar r => xbarAccess p r s
  | .conv r => convAccess p r s
  | .wdac n r => wdacAccess p n r s
  | .cfg d r => cfgAccess p d r s
  | .mem d r => memAccess p d r s
  | .lin r => linAccess p r s
  | .io r => ioAccess p r s

/-- The latched event register (R374, R402): its block and instance. -/
def Reg.latch : Reg → Option (EvBlock × Nat)
  | .clk .events => some (.clk, 0)
  | .pwr .events => some (.pwr, 0)
  | .sash .events => some (.sash, 0)
  | .ldg .events => some (.ldg, 0)
  | .part .events => some (.part, 0)
  | .key .events => some (.key, 0)
  | .fw .events => some (.fw, 0)
  | .can .events => some (.can, 0)
  | .inj .events => some (.inj, 0)
  | .inj .kprEvents => some (.kpr, 0)
  | .prb .events => some (.prb, 0)
  | .arb .events => some (.arb, 0)
  | .cal .events => some (.cal, 0)
  | .rep .events => some (.rep, 0)
  | .lnk p .events => some (.lnk, p.val)
  | .rc p .events => some (.lnkRc, p.val)
  | .abay a .events => some (.abay, a.val)
  | .adc n .events => some (.adc, n.val)
  | .conv .tmrEvents => some (.tmr, 0)
  | .wdac n .events => some (.wdac, n.val)
  | .cfg d .bayEvents => some (.dbay, d.val)
  | .cfg d .events => some (.dbayCfg, d.val)
  | .mem d .events => some (.dbayMem, d.val)
  | .lin .events => some (.lin, 0)
  | _ => none

/-- The words of a field wider than 32 bits, lowest first (Table 23-5), for its lowest word. -/
def Reg.words : Reg → List Reg
  | .clk .etLo => [.clk .etLo, .clk .etHi]
  | .clk .syncValueLo => [.clk .syncValueLo, .clk .syncValueHi]
  | .conv (.tmrOffLo t) => [.conv (.tmrOffLo t), .conv (.tmrOffHi t)]
  | .adc n (.res 0) => [.adc n (.res 0), .adc n (.res 1), .adc n (.res 2), .adc n (.res 3)]
  | .prb .capEtLo => [.prb .capEtLo, .prb .capEtHi]
  | .prb .capTrigLo => [.prb .capTrigLo, .prb .capTrigHi]
  | .cfg d .idLo => [.cfg d .idLo, .cfg d .idHi]
  | .inj .dieLo => [.inj .dieLo, .inj .dieHi]
  | .lnk p .partnerDieLo => [.lnk p .partnerDieLo, .lnk p .partnerDieHi]
  | .rep (.maskLo r) => [.rep (.maskLo r), .rep (.maskHi r)]
  | _ => []

/-- The lowest word of the field that a higher word belongs to, and the word's place in it. -/
def Reg.low : Reg → Option (Reg × Nat)
  | .clk .etHi => some (.clk .etLo, 1)
  | .clk .syncValueHi => some (.clk .syncValueLo, 1)
  | .conv (.tmrOffHi t) => some (.conv (.tmrOffLo t), 1)
  | .adc n (.res j) => if j = 0 then none else some (.adc n (.res 0), j.val)
  | .prb .capEtHi => some (.prb .capEtLo, 1)
  | .prb .capTrigHi => some (.prb .capTrigLo, 1)
  | .cfg d .idHi => some (.cfg d .idLo, 1)
  | .inj .dieHi => some (.inj .dieLo, 1)
  | .lnk p .partnerDieHi => some (.lnk p .partnerDieLo, 1)
  | .rep (.maskHi r) => some (.rep (.maskLo r), 1)
  | _ => none

/-- The lowest word of a writable field wider than 32 bits. -/
def Reg.stages : Reg → Bool
  | .clk .syncValueLo => true
  | .conv (.tmrOffLo _) => true
  | .prb .capEtLo => true
  | _ => false

end Sys2Proof.Machine
end

