-- ==== Sys2Proof/Machine/Regs.lean ====
section
/-!
DEFINITION. Register accesses by address (R5, R6, R399 to R404): reads with their snapshots, writes with their staging,
and the rows of the table that are one register access.
-/
namespace Sys2Proof.Machine

/-! ### Reads (R5) -/

/-- The words of a wide field as one number, lowest word first; each is read live. -/
def State.wideValue (s : State) (p : Fin 32) : List Reg → Nat × State
  | [] => (0, s)
  | r :: rs =>
    let (w, s) := s.readWord (r.access p s)
    let (v, s) := s.wideValue p rs
    (w.toNat + 2 ^ 32 * v, s)

/-- The snapshot that a partition holds of the field with this lowest word. -/
def State.snapOf (s : State) (p : Fin 32) (low : Nat) : Option Nat :=
  (s.snaps.find? fun x => x.part == p && x.addr == low).map (·.value)

/-- A read takes a snapshot of the whole field. -/
def State.takeSnap (s : State) (p : Fin 32) (low value : Nat) : State :=
  { s with snaps := (s.snaps.filter fun x => !(x.part == p && x.addr == low)) ++ [{ part := p, addr := low, value := value }] }

/-- A read of one register: its lowest word takes the field's snapshot, a higher word returns the snapshot if there is
one, and every other word is live. -/
def State.readReg (s : State) (p : Fin 32) (r : Reg) : Word × State :=
  if r.words.isEmpty then
    match r.low with
    | some (l, k) =>
      match s.snapOf p l.addr with
      | some v => (BitVec.ofNat 32 (v / 2 ^ (32 * k)), s)
      | none => s.readWord (r.access p s)
    | none => s.readWord (r.access p s)
  else
    let (v, s) := s.wideValue p r.words
    (BitVec.ofNat 32 v, s.takeSnap p r.addr v)

/-- A read access at an address: code, word, and the state after it. -/
def State.readAddr (s : State) (p : Fin 32) (addr : Nat) : Byte × Word × State :=
  match targetAt addr with
  | none => (Status.outOfRange, 0, s)
  | some (.window d m k) => s.windowRead p d m k
  | some (.reg r) =>
    let (w, s) := s.readReg p r
    (Status.done, w, s)

/-! ### Writes (R6) -/

/-- The word that a partition has staged for the field with this lowest word. -/
def State.stagedAt (s : State) (p : Fin 32) (low : Nat) : Option Word :=
  (s.staged.find? fun x => x.part == p && x.addr == low).map fun x => BitVec.ofNat 32 x.value

/-- A write to a register: a lower word of a writable wide field is staged when it passes its checks; the highest word
takes the staged word with it; every write ends what else the partition has staged. -/
def State.writeReg (s : State) (p : Fin 32) (r : Reg) (v : Word) : Byte × State :=
  let lo := match r.low with | some (l, _) => if l.stages then s.stagedAt p l.addr else none | none => none
  let (c, s) := (s.unstage p).writeWord (r.access p s) lo v
  if r.stages && c = Status.done then
    (c, { s with staged := s.staged ++ [{ part := p, addr := r.addr, value := v.toNat }] })
  else (c, s)

/-- A write access at an address. -/
def State.writeAddr (s : State) (p : Fin 32) (addr : Nat) (v : Word) : Byte × State :=
  match targetAt addr with
  | none => (Status.outOfRange, s.unstage p)
  | some (.window d m k) => (s.unstage p).windowWrite p d m k v
  | some (.reg r) => s.writeReg p r v

/-- A write access with its outcome kept as the outcome of the row (log 8). -/
def State.writeAt (s : State) (p : Fin 32) (addr : Nat) (v : Word) : State :=
  let (c, s) := s.writeAddr p addr v
  { s with acc := (c, 0) }

/-! ### Rows -/

/-- REGISTER_WRITE (R401). -/
def execRegisterWrite (p : Fin 32) (addr v : Word) (s : State) : Outcome :=
  whenHw s fun s => s.writeAt p addr.toNat v

/-- The register at an address, where it is one. -/
def regOf (addr : Word) : Option Reg :=
  match targetAt addr.toNat with
  | some (.reg r) => some r
  | _ => none

/-- WIDE_FIELD_SNAPSHOT_READ (R5): the address is the lowest word of a wide field. -/
def execWideFieldSnapshotRead (p : Fin 32) (addr : Word) (s : State) : Outcome :=
  whenHw s fun s =>
    match regOf addr with
    | some r =>
      if r.words.isEmpty then s
      else
        let (w, s) := s.readReg p r
        { s with acc := (Status.done, w) }
    | none => s

/-- WIDE_FIELD_LOW_WRITE (R6): the address is the lower word of a writable wide field. -/
def execWideFieldLowWrite (p : Fin 32) (addr v : Word) (s : State) : Outcome :=
  whenHw s fun s =>
    match regOf addr with
    | some r => if r.stages then s.writeAt p addr.toNat v else s
    | none => s

/-- WIDE_FIELD_HIGH_WRITE (R6): the address is the highest word of a writable wide field. -/
def execWideFieldHighWrite (p : Fin 32) (addr v : Word) (s : State) : Outcome :=
  whenHw s fun s =>
    match regOf addr with
    | some r =>
      match r.low with
      | some (l, _) => if l.stages then s.writeAt p addr.toNat v else s
      | none => s
    | none => s

/-- LATCHED_EVENT_CLEAR (R402): a 1 clears a latched bit, and an event that sets the bit again in the same cycle leaves it
set. `again` marks those bits. -/
def execLatchedEventClear (p : Fin 32) (addr v again : Word) (s : State) : Outcome :=
  whenHw s fun s =>
    match regOf addr with
    | some r =>
      let s := s.writeAt p addr.toNat v
      match r.latch with
      | some (b, i) =>
        if s.acc.1 = Status.done then s.onLatch b i fun w => w ||| (v &&& again &&& (r.access p s).mask) else s
      | none => s
    | none => s

end Sys2Proof.Machine
end

