-- ==== Sys2Proof/Machine/HostCmd.lean ====
section
/-!
DEFINITION. The host's own commands (16): PING, register access, results, the ledger's status, the event log and its
subscriptions.
-/
namespace Sys2Proof.Machine

def runPing (data : List Byte) : Run := answerOnly fun _ => done data

/-- PING (Table 16-7). -/
def execPing (h : Header) (data : List Byte) (s : State) : Outcome :=
  darem (.ping h data) h { op := 0x00, layout := data.length ≤ 32, idem := true } data (runPing data) s

/-! ### Register access (R315) -/

/-- The domains of the units that a run of words addresses (R58). -/
def wordDoms (addr : Word) (count : Nat) : List (Fin 32) :=
  (List.range count).filterMap fun i => (targetAt (addr.toNat + 4 * i)).bind Target.dom

/-- The resources that a run of words names (R329, R330). -/
def wordCodes (addr : Word) (count : Nat) : List Nat :=
  ((List.range count).flatMap fun i => match targetAt (addr.toNat + 4 * i) with | some t => t.codes | none => []).dedup

/-- The resources that words name when they are written from an address on. -/
def writeCodes (addr : Word) (words : List Word) : List Nat :=
  (wordCodes addr words.length ++ ((List.range words.length).zip words).flatMap fun (i, w) =>
    match targetAt (addr.toNat + 4 * i) with | some t => t.named w | none => []).dedup

/-- The table as an accepted command's stamp has it: what is under revocation from its partition since a later epoch is
still its partition's (R327, R330). -/
def State.stampedOwn (s : State) (c : CmdRef) : State :=
  match s.entry c with
  | none => s
  | some e =>
    let codes := (s.part.drains.filter fun d => d.loser == e.part && carriedLt e.epoch d.epoch).flatMap (·.codes)
    s.each (e.codes.filter codes.contains) fun s k => s.setOwn k { s.ownOf k with owner := e.part }

/-- Run a command under the rules of its stamp; the table itself stays. -/
def State.underStamp (s : State) (c : CmdRef) (run : Run) : State × Option Reply :=
  let (t, r) := run (s.stampedOwn c)
  ({ t with part := { t.part with own := s.part.own } }, r)

/-- Read `n` consecutive words from the `i`-th on: the code and the index where the reading ended, and the words. -/
def State.readWords (s : State) (p : Fin 32) (addr : Nat) : Nat → Nat → List Word → (Byte × Nat × List Word) × State
  | 0, i, ws => ((Status.done, i, ws), s)
  | n + 1, i, ws =>
    let (c, w, s) := s.readAddr p (addr + 4 * i)
    if c = Status.done then s.readWords p addr n (i + 1) (ws ++ [w]) else ((c, i, ws), s)

/-- Write consecutive words from the `i`-th on: the code, and the index of the word that failed. -/
def State.writeWords (s : State) (p : Fin 32) (addr : Nat) : List Word → Nat → (Byte × Nat) × State
  | [], i => ((Status.done, i), s)
  | w :: ws, i =>
    let (c, s) := s.writeAddr p (addr + 4 * i) w
    if c = Status.done then s.writeWords p addr ws (i + 1) else ((c, i), s)

def runRegRead (p : Fin 32) (addr : Word) (count : Byte) : Run := fun s =>
  if count = 0 || 119 < count.toNat then (s, some (failed Status.outOfRange))
  else
    let ((c, i, ws), s) := s.readWords p addr.toNat count.toNat 0 []
    (s, some (if c = Status.done then done (ws.flatMap (le 4)) else failed c (BitVec.ofNat 8 i :: ws.flatMap (le 4))))

/-- REG_READ (R315). -/
def execRegRead (h : Header) (addr : Word) (count : Byte) (s : State) : Outcome :=
  darem (.regRead h addr count) h { op := 0x10, idem := true, doms := wordDoms addr count.toNat } (le 4 addr ++ [count]) (runRegRead h.part addr count) s

def runRegWrite (p : Fin 32) (addr : Word) (words : List Word) : Run := fun s =>
  let ((c, i), s) := s.writeWords p addr.toNat words 0
  (s, some (if c = Status.done then done [] else failed c [BitVec.ofNat 8 i]))

/-- A command that writes registers names their resources: it audits their domains (R58), is DENIED for a resource under
revocation from its partition (R329), and runs under the rules of its stamp. -/
def regSpec (op : Byte) (h : Header) (addr : Word) (words : List Word) (layout : Bool) (s : State) : OpSpec where
  op := op
  layout := layout
  allowed := !(writeCodes addr words).any (s.underRevocation h.part)
  codes := writeCodes addr words
  doms := wordDoms addr words.length

/-- REG_WRITE (R58, R315, R329). -/
def execRegWrite (h : Header) (addr : Word) (count : Byte) (words : List Word) (s : State) : Outcome :=
  darem (.regWrite h addr count words) h
    (regSpec 0x11 h addr words (count.toNat = words.length && 1 ≤ words.length && words.length ≤ 117) s)
    (le 4 addr ++ [count] ++ words.flatMap (le 4)) (fun s => s.underStamp (refOf h) (runRegWrite h.part addr words)) s

/-- A REG_MODIFY whose read fails makes no write, so staged words stay (log 151). -/
def runRegModify (p : Fin 32) (addr mask value : Word) : Run := fun s =>
  let (c, old, s) := s.readAddr p addr.toNat
  if c ≠ Status.done then (s, some (failed c))
  else
    let (c, s) := s.writeAddr p addr.toNat ((old &&& ~~~mask) ||| (value &&& mask))
    (s, some (if c = Status.done then done (le 4 old) else failed c))

/-- REG_MODIFY (R58, R315, R329). -/
def execRegModify (h : Header) (addr mask value : Word) (s : State) : Outcome :=
  darem (.regModify h addr mask value) h (regSpec 0x12 h addr [value &&& mask] true s) (le 4 addr ++ le 4 mask ++ le 4 value)
    (fun s => s.underStamp (refOf h) (runRegModify h.part addr mask value)) s

/-! ### The ledger (R306, R308) -/

/-- What of the ledger stands in a segment whose write can fail verification: the record of the journal written last, or
writes of the superblock or the log that are yet to be verified; no write is made under NVW_DEFER (R62). -/
def State.failing (s : State) (i : Fin 256) : Option LdgPlace :=
  if s.pwr.nvwDefer then none
  else if s.ldg.openSeg == i.val && s.ldg.segs[i].state == .live && s.lastRecord.isSome then some .journal
  else (s.unverified.find? fun k => s.ldg.fixed[k] == i).map .fixed
def State.mayFail (s : State) (i : Fin 256) : Bool := (s.failing i).isSome

/-- LEDGER_SEGMENT_ERASE (R308): the erase is verified and the segment becomes free; a segment whose erase fails is
retired. A failure named for a segment in use is that of what was written to it last (log 57). Under NVW_DEFER only an
erase that was under way ends (R62). -/
def execLedgerSegmentErase (seg : BitVec 8) (ok : Bool) (s : State) : Outcome :=
  whenKpr s fun s =>
    let i : Fin 256 := seg.toFin
    match if ok then none else s.failing i with
    | some x =>
      let t := (s.countDet 0x1C0 false).retireSeg x false
      match s.armedOn 0x1C0 seg with
      | some (j, a) => t.consume j a true
      | none => t
    | none =>
    if s.ldg.segs[i].state ≠ .erasing || !s.mayWrite (.segment i) then s
    else
      let s := s.endWrite (.segment i)
      if ok then (s.onSeg i.val fun g => { g with state := .free, used := 0, liveRecords := 0 }).watchLedger
      else
        let s := s.onSeg i.val fun g => { g with state := .retired }
        (s.raise { ev := .ldgSegRetired, unit := BitVec.ofNat 8 i.val }).watchLedger

/-- A retained result counts as used when it is read (log 44). -/
def State.touchEntry (s : State) (c : CmdRef) : State :=
  let s := s.onEntry c fun x => { x with used := s.ldg.useCount }
  { s with ldg := { s.ldg with useCount := s.ldg.useCount + 1 } }

def runResultGet (p : Fin 32) (id : Word) : Run := fun s =>
  match s.entry { part := p, id := id } with
  | none => (s, some (failed Status.duplicate))
  | some e =>
    match e.result with
    | none => (s, some (failed Status.notReady))
    | some r => (s.touchEntry { part := p, id := id }, some (done (r.status :: r.body)))

/-- RESULT_GET (Table 16-7). -/
def execResultGet (h : Header) (id : Word) (s : State) : Outcome :=
  darem (.resultGet h id) h { op := 0xC0, idem := true } (le 4 id) (runResultGet h.part id) s

/-- Release every result of a partition at or below a CMD_ID; an unfinished one is released when it finishes (R306). -/
def State.releaseUpTo (s : State) (p : Fin 32) (id : Word) : State :=
  let f (e : Entry) : Entry := if e.part = p && (id - e.id).toNat < 2 ^ 31 then { e with released := true } else e
  { s with ldg := { s.ldg with entries := s.ldg.entries.map f } }

/-- Release the results that are named; an unfinished one is skipped (R306). -/
def State.releaseNamed (s : State) (p : Fin 32) (ids : List Word) : State :=
  let f (e : Entry) : Entry := if e.part = p && e.result.isSome && ids.contains e.id then { e with released := true } else e
  { s with ldg := { s.ldg with entries := s.ldg.entries.map f } }

/-- How many of the named commands are unfinished. -/
def State.unfinished (s : State) (p : Fin 32) (ids : List Word) : Nat :=
  (ids.filter fun id => match s.entry { part := p, id := id } with | some e => e.result.isNone | none => false).length

def runResultRelease (p : Fin 32) (upto : Byte) (ids : List Word) : Run := fun s =>
  match upto, ids with
  | 0, ids => ((s.releaseNamed p ids).watchLedger, some (done [BitVec.ofNat 8 (s.unfinished p ids)]))
  | 1, id :: _ => ((s.releaseUpTo p id).watchLedger, some (done [0]))
  | _, _ => (s, some (failed Status.outOfRange))

/-- RESULT_RELEASE (R306). -/
def execResultRelease (h : Header) (upto count : Byte) (ids : List Word) (s : State) : Outcome :=
  darem (.resultRelease h upto count ids) h
    { op := 0xC1, layout := count.toNat = ids.length && ids.length ≤ 64, durable := true }
    ([upto, count] ++ ids.flatMap (le 4)) (runResultRelease h.part upto ids) s

/-- Reserved bits of register words are sent as 0 (log 152). -/
def runLdgStatusGet (p : Fin 32) : Run := answerOnly fun s =>
  done (le 4 (ldgStatus s) ++ le 4 (ldgSpace s) ++ le 4 (ldgSegs s) ++ le 4 s.ldg.floors[p])

/-- LDG_STATUS_GET (Table 16-7). -/
def execLdgStatusGet (h : Header) (s : State) : Outcome :=
  darem (.ldgStatusGet h) h { op := 0xC2, idem := true } [] (runLdgStatusGet h.part) s

/-! ### Events (R318 to R320) -/

def runEvtSubscribe (p : Fin 32) (node : Half) (en : Byte) : Run := fun s =>
  if 1 < en.toNat then (s, some (failed Status.outOfRange))
  else
    let f (x : Sub) : Sub := {
      node := node, en := en = 1, pseq := if en = 1 && (!x.en || x.node ≠ node) then 0 else x.pseq }
    ({ s with log := { s.log with subs := upd s.log.subs p f } }, some (done []))

/-- EVT_SUBSCRIBE (R320). -/
def execEvtSubscribe (h : Header) (node : Half) (en : Byte) (s : State) : Outcome :=
  darem (.evtSubscribe h node en) h { op := 0xC3 } (le 2 node ++ [en]) (runEvtSubscribe h.part node en) s

/-- The records kept, oldest first: those in the ring, then those that wait in keeper memory (R318, log 45). -/
def State.kept (s : State) : List Rec := s.log.ring ++ s.log.waiting

/-- Examine records until `n` visible ones are found: those, and the last LSEQ examined. -/
def examine (p : Fin 32) : List Rec → Nat → Word → List Rec × Word
  | [], _, last => ([], last)
  | _, 0, last => ([], last)
  | r :: rs, n + 1, _ =>
    if p = 0 || r.part = p then
      let (xs, l) := examine p rs n r.lseq
      (r :: xs, l)
    else examine p rs (n + 1) r.lseq

def runEvtLogRead (p : Fin 32) (lseq : Word) (count : Byte) : Run := fun s =>
  if count = 0 || 28 < count.toNat then (s, some (failed Status.outOfRange))
  else match s.kept with
    | [] => (s, some (failed Status.notReady))
    | oldest :: _ =>
      let first := if carriedLt lseq oldest.lseq then oldest.lseq else lseq
      let from0 := s.kept.dropWhile fun r => serialLt r.lseq first
      if from0.isEmpty then (s, some (failed Status.notReady))
      else
        let (rs, last) := examine p from0 count.toNat first
        (s, some (done (le 4 first ++ le 4 (nextLseq last) ++ rs.flatMap recBytes)))

/-- EVT_LOG_READ (R319). -/
def execEvtLogRead (h : Header) (lseq : Word) (count : Byte) (s : State) : Outcome :=
  darem (.evtLogRead h lseq count) h { op := 0xC4, idem := true } (le 4 lseq ++ [count]) (runEvtLogRead h.part lseq count) s

end Sys2Proof.Machine
end

