-- ==== Sys2Proof/Machine/Operands.lean ====
section
/-!
DEFINITION. Operands as packets carry them (R2, Table 16-1): lists of fields read from little-endian bytes, and the header.
-/
namespace Sys2Proof.Machine

/-- The 16-bit values that bytes spell; an odd byte at the end is dropped. -/
def halvesOf : List Byte → List Half
  | a :: b :: r => (b ++ a) :: halvesOf r
  | _ => []

/-- The 32-bit values that bytes spell; up to three bytes at the end are dropped. -/
def wordsOf : List Byte → List Word
  | a :: b :: c :: d :: r => (d ++ c ++ b ++ a) :: wordsOf r
  | _ => []

/-- Pairs of 16-bit values. -/
def pairsOf : List Byte → List (Half × Half)
  | a :: b :: c :: d :: r => (b ++ a, d ++ c) :: pairsOf r
  | _ => []

/-- A byte of a parameter list, and wider fields at an offset. -/
def b8 (ps : List Byte) (i : Nat) : Byte := rd 8 ps i 1
def b16 (ps : List Byte) (i : Nat) : Half := rd 16 ps i 2
def b32 (ps : List Byte) (i : Nat) : Word := rd 32 ps i 4
def b48 (ps : List Byte) (i : Nat) : Et := rd 48 ps i 6

/-- The header of a packet, with what follows the body as its MAC (Table 16-1). -/
def headerOf (path : Sys2Proof.Path) (poisoned : Bool) (bs mac : List Byte) : Header where
  path := path
  dest := b16 bs 0
  src := b16 bs 2
  part := (bits (b8 bs 4) 0 5).toFin
  pkind := bits (b8 bs 4) 5 3
  flags := b8 bs 6
  status := b8 bs 7
  cmdId := b32 bs 8
  epoch := b32 bs 12
  plen := b16 bs 16
  seg := b8 bs 18
  rsvd := b8 bs 19
  mac := mac
  poisoned := poisoned

/-- The header that a journalled command came with, as far as its record keeps it. -/
def Entry.header (e : Entry) : Header where
  path := e.path
  dest := 0
  src := e.src
  part := e.part
  pkind := 0
  flags := e.flags
  status := 0
  cmdId := e.id
  epoch := e.epoch
  plen := BitVec.ofNat 16 e.params.length
  seg := 0
  rsvd := 0
  mac := []
  poisoned := false

def Entry.ref (e : Entry) : CmdRef := { part := e.part, id := e.id }

end Sys2Proof.Machine
end

