-- ==== Sys2Proof/Machine/Recovery.lean ====
section
/-!
DEFINITION. The end of a keeper boot (R69, Table 3-5): recovery of the ledger after a power loss (R311, R313, R314) and
after a keeper restart (R312), the events held while the keeper was down (R408), the announce (R348), RESET_REPORT (R68),
the outcome of a switchover (R363 to R366), and SAFE.
-/
namespace Sys2Proof.Machine

/-! ### What becomes of an unfinished command -/

/-- Run a durable command again from its journal record; CFG_STORE_SAVE is none, since its image is not in the journal. -/
def Entry.rerun (e : Entry) : Option Run :=
  let ps := e.params
  match e.op.toNat with
  | 0x35 => some (runCfgStoreErase e.ref (b8 ps 0))
  | 0x70 => some (runPartGrant e.ref (b8 ps 0) (halvesOf (ps.drop 2)))
  | 0x71 => some (runPartRevoke e.ref (testBit e.flags 3) (b8 ps 0) (b16 ps 1) (halvesOf (ps.drop 4)))
  | 0x73 => some (runKeyWrite e.header (b8 ps 0) (b8 ps 1) (slice ps 2 32) (b32 ps 34))
  | 0x74 => some (runKeyErase e.ref (b8 ps 0))
  | 0x76 => some (runPartQuotaSet (b8 ps 0) (b16 ps 1) (b16 ps 3) (b8 ps 5))
  | 0x81 => some (runFwWriteBegin e.ref (b8 ps 0) (ps.drop 1))
  | 0x82 => some (runFwWrite (b8 ps 0) (b32 ps 1) (ps.drop 7))
  | 0x85 => some runFwConfirm
  | 0xC1 => some (runResultRelease e.part (b8 ps 0) (wordsOf (ps.drop 2)))
  | _ => none

/-- The bytes of an FW_WRITE stand in its slot (R359): its outcome. -/
def State.fwWritten (s : State) (e : Entry) : Option Reply :=
  match e.op.toNat, (fin (b8 e.params 0).toNat : Option (Fin 2)) with
  | 0x82, some k =>
    let x := s.fw.slots[k]
    let off := (b32 e.params 1).toNat
    let data := e.params.drop 7
    if !x.header.isEmpty && 256 ≤ off && off + data.length ≤ x.length && (x.body.drop (off - 256)).take data.length == data then
      some (done (bytesOf 4 (off + data.length)))
    else none
  | _, _ => none

/-- An outcome that was due when the keeper stopped. -/
def dueReply (due : List (CmdRef × Reply)) (e : Entry) : Option Reply := (due.find? fun x => x.1 == e.ref).map (·.2)

/-- A durable command's commit is found in its store (R311). -/
def State.commitFound (s : State) (due : List (CmdRef × Reply)) (e : Entry) : Option Reply :=
  match dueReply due e with
  | some r => if r.status = Status.done then some r else s.fwWritten e
  | none => s.fwWritten e

/-- INTERRUPTED, whose body for REG_WRITE is the number of words written, which its outcome shows if it was due (R311);
the INJECT of an injection that was armed has ABORTED (R377). -/
def interruptedReply (due : List (CmdRef × Reply)) (e : Entry) : Reply :=
  if e.op = 0xA0 && e.started then failed Status.aborted else
  let written : Byte := match dueReply due e with
    | some r => if r.status = Status.done then b8 e.params 4 else b8 r.body 0
    | none => 0
  failed Status.interrupted (if e.op = 0x11 then [written] else [])

/-- A command whose exchange is lost with retention SRAM, or that recovery completes: its result is not sent (R311). -/
def State.mute (s : State) (c : CmdRef) : State := s.onEntry c fun e => { e with flags := e.flags ||| 4 }

/-- How recovery disposed of a command. -/
inductive Disposal where
  | committed
  | rerun
  | interrupted
deriving DecidableEq, Repr

/-- The command is a PART_REVOKE whose change has committed and that drains. -/
def State.drainOf (s : State) (e : Entry) : Bool := s.part.drains.any fun d => d.cmd == some e.ref

/-- R311 for one unfinished command. A revocation that drains has committed, and completes once its set is seen to be
empty (R337). -/
def State.recover (s : State) (due : List (CmdRef × Reply)) (e : Entry) : Disposal × State :=
  let s := s.mute e.ref
  if s.drainOf e then (.committed, s)
  else match if e.durable then s.commitFound due e else none with
  | some r => (.committed, s.finish e.ref r)
  | none =>
    if e.durable && e.rerun.isSome then (.rerun, { s with ldg := { s.ldg with reruns := s.ldg.reruns ++ [e.ref] } })
    else (.interrupted, s.finish e.ref (interruptedReply due e))

/-- Commands that a hardware engine carries, or whose chapter names their outcome at a restart: LNK_ENABLE, CFG_LOAD,
CAL_RUN, REPAIR_START and INJECT (R312). -/
def engineOp (op : Byte) : Bool := [0x26, 0x33, 0x50, 0x60, 0xA0].contains op.toNat

/-- LDG_RECOVERY counts how recovery disposed of a command. -/
def State.tally (s : State) (d : Disposal) : State :=
  { s with ldg := match d with
    | .committed => { s.ldg with committed := satInc s.ldg.committed }
    | .rerun => { s.ldg with rerun := satInc s.ldg.rerun }
    | .interrupted => { s.ldg with interrupted := satInc s.ldg.interrupted } }

/-- R311 for one unfinished command, counted. -/
def State.recoverEntry (s : State) (due : List (CmdRef × Reply)) (e : Entry) : State := (s.recover due e).2.tally (s.recover due e).1

/-- R312 for one unfinished command. -/
def State.resumeEntry (s : State) (due : List (CmdRef × Reply)) (e : Entry) : State :=
  let own := engineOp e.op && e.started
  match if own then dueReply due e else none with
  | some r => s.finish e.ref r
  | none =>
    if own || s.drainOf e || s.pwr.warmCmd.contains e.ref || s.fw.switched == some e.ref then s else s.recoverEntry due e

/-- The commands of the ledger without a result, in journal order. -/
def State.open0 (s : State) : List Entry := s.ldg.entries.filter fun e => e.result.isNone

/-! ### Recovery after a power loss -/

/-- Every record source restarts from the snapshot, or from its ceiling when none was committed (R313, R314). -/
def State.restartSources (s : State) : State :=
  let arb := match s.ldg.snapshot with
    | some x =>
      { s.arb with
        nextRseq := x.next, skipped := Vector.ofFn fun k => (x.next[k] - x.low[k]).toNat, lostAll := Vector.replicate 32 false }
    | none => { s.arb with nextRseq := s.ldg.ceil, skipped := Vector.replicate 32 0, lostAll := Vector.replicate 32 true }
  let fwd := match s.ldg.snapshot with | some x => x.fwd | none => Vector.replicate 4 0
  let s := { s with arb := arb, ldg := { s.ldg with snapshot := none } }
  s.each (List.finRange 4) fun s p =>
    if fwd[p] = 0 then s
    else s.raise { ev := .ldgFwdLost, unit := BitVec.ofNat 8 p.val, args := bytesOf 2 fwd[p] }

/-- The counts of LDG_RECOVERY start anew, and the outcomes that were due are taken. -/
def State.newTally (s : State) : State := { s with ldg := { s.ldg with deferred := [], committed := 0, rerun := 0, interrupted := 0 } }

/-- Recover every unfinished command and count how (R311), but a FW_SWITCH out of RECOVERY: the boot that it made gives its
outcome (R363). -/
def State.recoverAll (s : State) : State :=
  s.newTally.each (s.open0.filter fun e => s.fw.switched ≠ some e.ref) fun t e => t.recoverEntry s.ldg.deferred e

/-- The journal scan of step 1 ends: NORMAL, TIME_MS of at most 150 ms (log 13), LDG_RECOVERED. -/
def State.endScan (s : State) : State :=
  let (w, s) := s.drawMeasured
  let s := { s with ldg := { s.ldg with state := if s.ldg.state = 0 then 1 else s.ldg.state, timeMs := BitVec.ofNat 8 (w.toNat % 151) } }
  (s.raise { ev := .ldgRecovered, marks := bootMarks, args := [s.ldg.committed, s.ldg.rerun, s.ldg.interrupted] }).watchLedger

/-- Ledger recovery after a power-on reset. A revocation that was draining finds its drain set empty (R337). -/
def State.recoverLedger (s : State) : State := s.recoverAll.restartSources.endScan.settleDrains

/-- Ledger recovery after a keeper restart (R312). It is a recovery too, so LDG_RECOVERED follows it (log 46). -/
def State.resumeLedger (s : State) : State :=
  (s.newTally.each s.open0 fun t e => t.resumeEntry s.ldg.deferred e).endScan.settleDrains

/-! ### The end of the boot -/

/-- Queued records have been logged, the latest first: each rate entry names its latest one by its LSEQ. -/
def State.ratesLogged (s : State) (logged : List (HwEvent × Word)) : State :=
  let name (x : Rate) : Rate :=
    if x.lseq = 0 then (match logged.find? fun y => y.1.of x with | some y => { x with lseq := y.2 } | none => x) else x
  { s with log := { s.log with rates := s.log.rates.map name } }

/-- The events held while the keeper was down, in order of detection (R408). -/
def State.takeQueue (s : State) : State :=
  let q := s.log.hwq
  let s := { s with log := { s.log with hwq := [] } }
  let (s, logged) := q.foldl (fun (acc : State × List (HwEvent × Word)) x =>
    let s := acc.1
    let lostBefore := s.log.lostBefore || testBit x.record.flags 3
    let (n, s) := ({ s with log := { s.log with lostBefore := lostBefore } }).logRec { x.record with flags := x.record.flags &&& 0xF7 } x.args
    (s, (x, n) :: acc.2)) (s, [])
  let s := s.ratesLogged logged
  { s with log := { s.log with lostBefore := s.log.lostBefore || s.log.hwLost, hwLost := false } }

/-- RESET_REPORT (R68). A switchover and a rollback are no reset of PWR_RESET_CAUSE. -/
def State.reportReset (s : State) (boot : Boot) : State :=
  if boot = .firmware then s
  else
    let dog := s.pwr.cause == 3
    let s := s.raise {
      ev := .resetReport, det := if dog then 0x200 else 0, args := [s.pwr.cause.setWidth 8]
      marks := if dog then [dogMark] else if s.pwr.cause = 2 then [hotMark] else [] }
    s.normal hotMark

/-- The outcome of a switchover and the events of a changed slot (R363 to R366). -/
def State.reportFirmware (s : State) : State :=
  let slot := BitVec.ofNat 8 s.fw.active.val
  let back := s.fw.rollback.isSome || s.fw.fallback
  let s := match s.fw.rollback with
    | some cause => s.raise { ev := .fwRollback, unit := slot, args := [cause], marks := if cause = 1 then [dogMark] else [] }
    | none => s
  let s := if s.fw.fallback then s.raise { ev := .fwBootFallback, unit := slot } else s
  let s := match s.fw.switched with
    | some c =>
      if back then s.finish c (failed Status.fault) else (s.raise { ev := .fwSwitched, unit := slot }).finish c (done [slot])
    | none => s
  (s.normal dogMark).onFw fun x => { x with
    switched := none, rollback := none, fallback := false, confirmLeft := if x.trial then x.confirmTime else 0 }

/-- A power-on reset leaves the table of requests as the sequencer has the domains (R58). -/
def State.rebuildTable (s : State) : State :=
  { s with pwr := { s.pwr with req := wordOfBits (((List.finRange 32).filter s.seqOn).map (·.val)) } }

/-- The boot follows a keeper restart: any but that of a power-on reset, and the restart of a rollback from trial firmware
whose boot was not complete in time (R348, R365). -/
def State.restarted (s : State) : Bool := s.pwr.boot ≠ .power || s.fw.rollback = some 2

/-- A power-on reset that cleared ENABLE is reported (R377, log 150). -/
def State.reportLapse (s : State) : State :=
  if s.inj.lapsed then ({ s with inj := { s.inj with lapsed := false } }).raise { ev := .injDisabled, marks := bootMarks } else s

/-- The boot that a completed boot recovers for and reports: the first since the keeper last ran its firmware. -/
def State.bootOf (s : State) : Boot := s.pwr.owed.getD s.pwr.boot

/-- Neither slot boots: the boot ROM announces the module and runs the slow-control bus only. Recovery and reports wait for
a boot of firmware (R366, log 174). -/
def State.bootRom (s : State) : State :=
  (s.onPwr fun x => { x with phase := .running, owed := some s.bootOf }).bootAnnounce s.restarted

/-- The keeper's firmware runs: recovery, the audit, and the reports (R58, R68, R311, R312, R408). -/
def State.bootFirmware (s : State) : State :=
  let boot := s.bootOf
  let again := s.restarted
  let s := (s.onPwr fun x => { x with phase := .running, owed := none }).eraseOldKeys
  let s := s.takeQueue
  let s := if boot = .power then s.recoverLedger.rebuildTable.reportLapse else s.resumeLedger
  let s := s.each (List.finRange 32) State.auditDom
  let s := (s.finishAll s.pwr.warmCmd (done [])).onPwr fun x => { x with warmCmd := [] }
  ((s.reportReset boot).reportFirmware.raiseCeilings).bootAnnounce again

/-- The keeper's boot completes. Steps 4 and 5 of Table 3-5 follow the boot of a power-on reset itself, and no later one
(log 155). -/
def State.bootDone (s : State) : State :=
  if s.fw.recovery then s.bootRom
  else
    let t := s.bootFirmware
    if s.pwr.boot = .power && !s.pwr.held then t.startLinks else t

/-- KEEPER_BOOT_COMPLETE (R69). -/
def execKeeperBootComplete (s : State) : Outcome := .next (if s.pwr.phase = .booting then s.bootDone else s)

/-- LEDGER_RERUN_DONE (R311): a durable command runs again; its result commits when it ends. -/
def execLedgerRerunDone (part : Fin 32) (cmdId : Word) (s : State) : Outcome :=
  whenKpr s fun s =>
    let c : CmdRef := { part := part, id := cmdId }
    if s.pwr.nvwDefer || !s.ldg.reruns.contains c then s
    else
      let s := { s with ldg := { s.ldg with reruns := s.ldg.reruns.filter (· ≠ c) } }
      match s.entry c with
      | some e => match e.rerun with
        | some run => s.start c run
        | none => s
      | none => s

end Sys2Proof.Machine
end

