-- ==== Sys2Proof/Machine/Packet.lean ====
section
/-!
DEFINITION. A command packet as its bytes spell it: opcode and parameter layout of Table 16-6 and of each opcode's chapter
(R409), for the packets that links and the slow-control bus bring in.
-/
namespace Sys2Proof.Machine

/-- What the opcode and the parameters of a packet spell. -/
inductive Parsed where
  | command (i : Instr)
  /-- The parameters do not fit the opcode's layout. -/
  | layout
  /-- The opcode is not defined. -/
  | opcode
deriving DecidableEq, Repr

/-- A command whose parameters are exactly `n` bytes. -/
def exactly (n : Nat) (ps : List Byte) (i : Instr) : Parsed := if ps.length = n then .command i else .layout

/-- A command whose parameters are `n` bytes and then items of `k` bytes; the counts are checked with the command. -/
def itemsOf (n k : Nat) (ps : List Byte) (i : Instr) : Parsed :=
  if n ≤ ps.length && (ps.length - n) % k = 0 then .command i else .layout

/-- Opcodes 0x00 to 0x3F. -/
def parseLow (h : Header) (ps : List Byte) : Nat → Parsed
  | 0x00 => .command (.ping h ps)
  | 0x01 => exactly 0 ps (.idGet h)
  | 0x02 => exactly 0 ps (.discover h)
  | 0x08 => exactly 0 ps (.lnkPartnerGet h)
  | 0x10 => exactly 5 ps (.regRead h (b32 ps 0) (b8 ps 4))
  | 0x11 => itemsOf 5 4 ps (.regWrite h (b32 ps 0) (b8 ps 4) (wordsOf (ps.drop 5)))
  | 0x12 => exactly 12 ps (.regModify h (b32 ps 0) (b32 ps 4) (b32 ps 8))
  | 0x20 => exactly 0 ps (.pwrStatusGet h)
  | 0x21 => exactly 8 ps (.pwrDomainSet h (b32 ps 0) (b32 ps 4))
  | 0x22 => exactly 4 ps (.pwrSuspectAck h (b32 ps 0))
  | 0x23 => exactly 2 ps (.pwrReset h (b8 ps 0) (b8 ps 1))
  | 0x24 => exactly 0 ps (.pwrRestart h)
  | 0x25 => exactly 4 ps (.pwrTripClear h (b32 ps 0))
  | 0x26 => exactly 2 ps (.lnkEnable h (b8 ps 0) (b8 ps 1))
  | 0x27 => exactly 1 ps (.lnkRetrain h (b8 ps 0))
  | 0x28 => exactly 1 ps (.lnkLatAck h (b8 ps 0))
  | 0x29 => itemsOf 3 1 ps (.lnkRouteSet h (b16 ps 0) (b8 ps 2) (ps.drop 3))
  | 0x2A => exactly 1 ps (.lnkRcStatusGet h (b8 ps 0))
  | 0x30 => exactly 0 ps (.cfgBufOpen h)
  | 0x31 => itemsOf 6 1 ps (.cfgBufWrite h (b32 ps 0) (b16 ps 4) (ps.drop 6))
  | 0x32 => exactly 1 ps (.cfgBufClose h (b8 ps 0))
  | 0x33 => exactly 2 ps (.cfgLoad h (b8 ps 0) (b8 ps 1))
  | 0x34 => exactly 1 ps (.cfgStoreSave h (b8 ps 0))
  | 0x35 => exactly 1 ps (.cfgStoreErase h (b8 ps 0))
  | 0x36 => exactly 1 ps (.cfgStoreInfo h (b8 ps 0))
  | 0x37 => exactly 1 ps (.cfgStatusGet h (b8 ps 0))
  | 0x38 => itemsOf 2 4 ps (.linRouteSet h (b8 ps 0) (b8 ps 1) (pairsOf (ps.drop 2)))
  | 0x39 => exactly 3 ps (.linRouteGet h (b16 ps 0) (b8 ps 2))
  | _ => .opcode

/-- Opcodes 0x40 to 0x7F. -/
def parseMid (h : Header) (ps : List Byte) : Nat → Parsed
  | 0x40 => exactly 4 ps (.adcStart h (b32 ps 0))
  | 0x41 => exactly 1 ps (.adcUrgent h (b8 ps 0))
  | 0x42 => exactly 2 ps (.adcResultPeek h (b8 ps 0) (b8 ps 1))
  | 0x43 => exactly 4 ps (.adcResultPop h (b8 ps 0) (b8 ps 1) (b16 ps 2))
  | 0x44 => exactly 1 ps (.adcStatusGet h (b8 ps 0))
  | 0x45 => exactly 9 ps (.adcGroupSet h (b8 ps 0) (b32 ps 1) (b8 ps 5) (b8 ps 6) (b16 ps 7))
  | 0x46 => exactly 13 ps (.tmrSet h (b8 ps 0) (b8 ps 1) (b32 ps 2) (b48 ps 6) (b8 ps 12))
  | 0x47 => itemsOf 2 2 ps (.wdacQueueWrite h (b8 ps 0) (b8 ps 1) (halvesOf (ps.drop 2)))
  | 0x48 => itemsOf 4 2 ps (.wdacTableLoad h (b8 ps 0) (b16 ps 1) (b8 ps 3) (halvesOf (ps.drop 4)))
  | 0x49 => exactly 2 ps (.wdacControl h (b8 ps 0) (b8 ps 1))
  | 0x50 => exactly 5 ps (.calRun h (b8 ps 0) (b8 ps 1) (b8 ps 2) (b8 ps 3) (b8 ps 4))
  | 0x51 => exactly 4 ps (.calSysPoint h (b8 ps 0) (b8 ps 1) (b16 ps 2))
  | 0x52 => exactly 2 ps (.calAbort h (b8 ps 0) (b8 ps 1))
  | 0x53 => exactly 2 ps (.calCoefGet h (b8 ps 0) (b8 ps 1))
  | 0x54 => .command (.calCoefSet h ps)
  | 0x55 => exactly 2 ps (.calCoefNeutral h (b8 ps 0) (b8 ps 1))
  | 0x60 => exactly 23 ps (.repairStart h (b8 ps 0) (b8 ps 1) (b8 ps 2) (b8 ps 3) (b8 ps 4) (b8 ps 5) (b8 ps 6) (b32 ps 7)
      (b16 ps 11) (b8 ps 13) (b8 ps 14) (rd 64 ps 15 8))
  | 0x61 => exactly 2 ps (.repairCutover h (b8 ps 0) (b8 ps 1))
  | 0x62 => exactly 1 ps (.repairAbort h (b8 ps 0))
  | 0x63 => exactly 3 ps (.repairLend h (b8 ps 0) (b8 ps 1) (b8 ps 2))
  | 0x64 => exactly 2 ps (.repairReturn h (b8 ps 0) (b8 ps 1))
  | 0x65 => exactly 1 ps (.repairStatusGet h (b8 ps 0))
  | 0x70 => itemsOf 2 2 ps (.partGrant h (b8 ps 0) (b8 ps 1) (halvesOf (ps.drop 2)))
  | 0x71 => itemsOf 4 2 ps (.partRevoke h (b8 ps 0) (b16 ps 1) (b8 ps 3) (halvesOf (ps.drop 4)))
  | 0x72 => exactly 3 ps (.partTableGet h (b16 ps 0) (b8 ps 2))
  | 0x73 => exactly 38 ps (.keyWrite h (b8 ps 0) (b8 ps 1) (slice ps 2 32) (b32 ps 34))
  | 0x74 => exactly 1 ps (.keyErase h (b8 ps 0))
  | 0x75 => exactly 1 ps (.keyStatusGet h (b8 ps 0))
  | 0x76 => exactly 6 ps (.partQuotaSet h (b8 ps 0) (b16 ps 1) (b16 ps 3) (b8 ps 5))
  | _ => .opcode

/-- Opcodes from 0x80 on. -/
def parseHigh (h : Header) (ps : List Byte) : Nat → Parsed
  | 0x80 => exactly 0 ps (.fwInfoGet h)
  | 0x81 => exactly 257 ps (.fwWriteBegin h (b8 ps 0) (ps.drop 1))
  | 0x82 => itemsOf 7 1 ps (.fwWrite h (b8 ps 0) (b32 ps 1) (b16 ps 5) (ps.drop 7))
  | 0x83 => exactly 1 ps (.fwVerify h (b8 ps 0))
  | 0x84 => exactly 2 ps (.fwSwitch h (b8 ps 0) (b8 ps 1))
  | 0x85 => exactly 0 ps (.fwConfirm h)
  | 0x90 => exactly 0 ps (.sashInfoGet h)
  | 0x91 => exactly 4 ps (.sashExpectSet h (b32 ps 0))
  | 0x92 => exactly 9 ps (.sashBiasSet h (b16 ps 0) (b16 ps 2) (b16 ps 4) (b16 ps 6) (b8 ps 8))
  | 0x93 => exactly 0 ps (.sashLifeGet h)
  | 0xA0 => exactly 9 ps (.inject h (b16 ps 0) (b8 ps 2) (b32 ps 3) (b16 ps 7))
  | 0xA1 => exactly 3 ps (.injectEnable h (b8 ps 0) (b16 ps 1))
  | 0xB0 => exactly 5 ps (.prbSelect h (b8 ps 0) (b8 ps 1) (b8 ps 2) (b8 ps 3) (b8 ps 4))
  | 0xB1 => exactly 11 ps (.prbCaptureArm h (b8 ps 0) (b16 ps 1) (b8 ps 3) (b8 ps 4) (b48 ps 5))
  | 0xB2 => exactly 4 ps (.prbCaptureRead h (b16 ps 0) (b16 ps 2))
  | 0xB3 => exactly 1 ps (.prbAuxSet h (b8 ps 0))
  | 0xC0 => exactly 4 ps (.resultGet h (b32 ps 0))
  | 0xC1 => itemsOf 2 4 ps (.resultRelease h (b8 ps 0) (b8 ps 1) (wordsOf (ps.drop 2)))
  | 0xC2 => exactly 0 ps (.ldgStatusGet h)
  | 0xC3 => exactly 3 ps (.evtSubscribe h (b16 ps 0) (b8 ps 2))
  | 0xC4 => exactly 5 ps (.evtLogRead h (b32 ps 0) (b8 ps 4))
  | 0xF0 => exactly 0 ps (.timeGet h)
  | 0xF1 => exactly 8 ps (.syncArm h (b8 ps 0) (b8 ps 1) (b48 ps 2))
  | 0xF2 => exactly 6 ps (.syncNow h (b48 ps 0))
  | 0xF3 => exactly 5 ps (.gapSet h (b8 ps 0) (b16 ps 1) (b16 ps 3))
  | _ => .opcode

/-- What an opcode and its parameters spell. -/
def parse (h : Header) (op : Byte) (ps : List Byte) : Parsed :=
  if op.toNat < 0x40 then parseLow h ps op.toNat
  else if op.toNat < 0x80 then parseMid h ps op.toNat
  else parseHigh h ps op.toNat

/-- A packet of at least a header: its header with the MAC, its opcode, and its parameters. The MAC is the last 16 bytes
when AUTH is set. -/
def openPacket (path : Sys2Proof.Path) (poisoned : Bool) (bs : List Byte) : Header × Byte × List Byte :=
  let rest := bs.drop 20
  let n := rest.length - (if testBit (b8 bs 6) 0 then min 16 rest.length else 0)
  (headerOf path poisoned bs (rest.drop n), b8 bs 5, rest.take n)

/-- A packet that spells no command is refused at step 6 of Table 16-4; one without a header is dropped. -/
def State.refusePacket (s : State) (h : Header) (op : Byte) (ps : List Byte) (code : Byte) : State :=
  s.receive h op ps fun s => s.reject h op code

end Sys2Proof.Machine
end

