-- ==== Sys2Proof/Machine/Dispatch.lean ====
section
/-!
DEFINITION. One arm per command: each calls its meaning (16 and the chapters named there).
-/
namespace Sys2Proof.Machine

def exec (i : Instr) (s : State) : Host.Outcome State Fault Refusal :=
  match i with
  | .registerWrite p addr val => Sys2Proof.Machine.execRegisterWrite p addr val s
  | .wideFieldSnapshotRead p addr => Sys2Proof.Machine.execWideFieldSnapshotRead p addr s
  | .wideFieldLowWrite p addr val => Sys2Proof.Machine.execWideFieldLowWrite p addr val s
  | .wideFieldHighWrite p addr val => Sys2Proof.Machine.execWideFieldHighWrite p addr val s
  | .latchedEventClear p addr val again => Sys2Proof.Machine.execLatchedEventClear p addr val again s
  | .referenceLossDetect real => Sys2Proof.Machine.execReferenceLossDetect real s
  | .clkSyncCtrlArm p val => Sys2Proof.Machine.execClkSyncCtrlArm p val s
  | .gapStateChange level => Sys2Proof.Machine.execGapStateChange level s
  | .gapSourceApply level => Sys2Proof.Machine.execGapSourceApply level s
  | .clkGapClear p val => Sys2Proof.Machine.execClkGapClear p val s
  | .timeGet h => Sys2Proof.Machine.execTimeGet h s
  | .syncArm h src mode value => Sys2Proof.Machine.execSyncArm h src mode value s
  | .syncNow h value => Sys2Proof.Machine.execSyncNow h value s
  | .gapSet h src period length => Sys2Proof.Machine.execGapSet h src period length s
  | .keeperResetRelease corruptA corruptB => Sys2Proof.Machine.execKeeperResetRelease corruptA corruptB s
  | .strapReading ga ca => Sys2Proof.Machine.execStrapReading ga ca s
  | .strapPeriodicCheck ga ca => Sys2Proof.Machine.execStrapPeriodicCheck ga ca s
  | .domainIsolationRelease y => Sys2Proof.Machine.execDomainIsolationRelease y s
  | .domainDrainStart y => Sys2Proof.Machine.execDomainDrainStart y s
  | .domainIsolate y => Sys2Proof.Machine.execDomainIsolate y s
  | .domainSwitchOpen y => Sys2Proof.Machine.execDomainSwitchOpen y s
  | .domainRailFallen y => Sys2Proof.Machine.execDomainRailFallen y s
  | .monitorTrip y kind real => Sys2Proof.Machine.execMonitorTrip y kind real s
  | .dieTSample t => Sys2Proof.Machine.execDieTSample t s
  | .pwrMeasureUpdate vin iin mon => Sys2Proof.Machine.execPwrMeasureUpdate vin iin mon s
  | .thermalWarningCrossing t => Sys2Proof.Machine.execThermalWarningCrossing t s
  | .nvwBarCrossing t => Sys2Proof.Machine.execNvwBarCrossing t s
  | .hotStop t => Sys2Proof.Machine.execHotStop t s
  | .hotStopRelease t => Sys2Proof.Machine.execHotStopRelease t s
  | .ledgerRerunDone part cmdId => Sys2Proof.Machine.execLedgerRerunDone part cmdId s
  | .pwrStatusGet h => Sys2Proof.Machine.execPwrStatusGet h s
  | .pwrDomainSet h on off => Sys2Proof.Machine.execPwrDomainSet h on off s
  | .pwrSuspectAck h mask => Sys2Proof.Machine.execPwrSuspectAck h mask s
  | .pwrReset h kind unit => Sys2Proof.Machine.execPwrReset h kind unit s
  | .pwrRestart h => Sys2Proof.Machine.execPwrRestart h s
  | .pwrTripClear h mask => Sys2Proof.Machine.execPwrTripClear h mask s
  | .pwrThermClear p val => Sys2Proof.Machine.execPwrThermClear p val s
  | .sashPinChange l k => Sys2Proof.Machine.execSashPinChange l k s
  | .sashIdentityRead ack ident pages real => Sys2Proof.Machine.execSashIdentityRead ack ident pages real s
  | .sashAbsentProbe ack => Sys2Proof.Machine.execSashAbsentProbe ack s
  | .sashIdRetry ack ident pages => Sys2Proof.Machine.execSashIdRetry ack ident pages s
  | .biasRampStep current => Sys2Proof.Machine.execBiasRampStep current s
  | .lifePageVerify ok => Sys2Proof.Machine.execLifePageVerify ok s
  | .peakTSample t => Sys2Proof.Machine.execPeakTSample t s
  | .sashInfoGet h => Sys2Proof.Machine.execSashInfoGet h s
  | .sashExpectSet h type => Sys2Proof.Machine.execSashExpectSet h type s
  | .sashBiasSet h g0 g1 g2 g3 rate => Sys2Proof.Machine.execSashBiasSet h g0 g1 g2 g3 rate s
  | .sashLifeGet h => Sys2Proof.Machine.execSashLifeGet h s
  | .slotSettingsApply a k => Sys2Proof.Machine.execSlotSettingsApply a k s
  | .slotMaskEnd a k => Sys2Proof.Machine.execSlotMaskEnd a k s
  | .slotOverloadDetect a k input => Sys2Proof.Machine.execSlotOverloadDetect a k input s
  | .sumSaturation a volts => Sys2Proof.Machine.execSumSaturation a volts s
  | .asbLineClaim a so line cls => Sys2Proof.Machine.execAsbLineClaim a so line cls s
  | .sumOutputApply a => Sys2Proof.Machine.execSumOutputApply a s
  | .xbarOctWrite p o val => Sys2Proof.Machine.execXbarOctWrite p o val s
  | .abayClear p a val => Sys2Proof.Machine.execAbayClear p a val s
  | .adcStartEvent n => Sys2Proof.Machine.execAdcStartEvent n s
  | .adcFirstSample n w => Sys2Proof.Machine.execAdcFirstSample n w s
  | .adcResultQueued n => Sys2Proof.Machine.execAdcResultQueued n s
  | .adcLoopRestart n w => Sys2Proof.Machine.execAdcLoopRestart n w s
  | .adcGroupStartEvent g => Sys2Proof.Machine.execAdcGroupStartEvent g s
  | .urgentEvent n w => Sys2Proof.Machine.execUrgentEvent n w s
  | .adcRefSelect p n val => Sys2Proof.Machine.execAdcRefSelect p n val s
  | .adcReferenceReady n => Sys2Proof.Machine.execAdcReferenceReady n s
  | .adcResPop p n val => Sys2Proof.Machine.execAdcResPop p n val s
  | .adcTakeover n cls => Sys2Proof.Machine.execAdcTakeover n cls s
  | .adcGiveback n => Sys2Proof.Machine.execAdcGiveback n s
  | .timerFire t => Sys2Proof.Machine.execTimerFire t s
  | .timerTakeover t cls => Sys2Proof.Machine.execTimerTakeover t cls s
  | .timerGiveback t => Sys2Proof.Machine.execTimerGiveback t s
  | .adcCntClear p n val => Sys2Proof.Machine.execAdcCntClear p n val s
  | .adcStart h mask => Sys2Proof.Machine.execAdcStart h mask s
  | .adcUrgent h adc => Sys2Proof.Machine.execAdcUrgent h adc s
  | .adcResultPeek h adc count => Sys2Proof.Machine.execAdcResultPeek h adc count s
  | .adcResultPop h adc count tag => Sys2Proof.Machine.execAdcResultPop h adc count tag s
  | .adcStatusGet h adc => Sys2Proof.Machine.execAdcStatusGet h adc s
  | .adcGroupSet h group mask src edge delay => Sys2Proof.Machine.execAdcGroupSet h group mask src edge delay s
  | .tmrSet h timer mode period offset en => Sys2Proof.Machine.execTmrSet h timer mode period offset en s
  | .thresholdLoad a => Sys2Proof.Machine.execThresholdLoad a s
  | .thresholdHoldRelease p a val => Sys2Proof.Machine.execThresholdHoldRelease p a val s
  | .wdacOutputClaim p n val => Sys2Proof.Machine.execWdacOutputClaim p n val s
  | .wdacTakeover n cls => Sys2Proof.Machine.execWdacTakeover n cls s
  | .wdacGiveback n => Sys2Proof.Machine.execWdacGiveback n s
  | .wdacCmdStart p n => Sys2Proof.Machine.execWdacCmdStart p n s
  | .wdacCmdStop p n => Sys2Proof.Machine.execWdacCmdStop p n s
  | .wdacCmdFlush p n => Sys2Proof.Machine.execWdacCmdFlush p n s
  | .wdacStartEvent n => Sys2Proof.Machine.execWdacStartEvent n s
  | .wdacTick n => Sys2Proof.Machine.execWdacTick n s
  | .wdacStaticApply n => Sys2Proof.Machine.execWdacStaticApply n s
  | .wdacQueueAppend p n val => Sys2Proof.Machine.execWdacQueueAppend p n val s
  | .wdacTableWrite p n val => Sys2Proof.Machine.execWdacTableWrite p n val s
  | .wdacCntClear p n val => Sys2Proof.Machine.execWdacCntClear p n val s
  | .wdacQueueWrite h n count samples => Sys2Proof.Machine.execWdacQueueWrite h n count samples s
  | .wdacTableLoad h n addr count entries => Sys2Proof.Machine.execWdacTableLoad h n addr count entries s
  | .wdacControl h mask action => Sys2Proof.Machine.execWdacControl h mask action s
  | .calNoticeExpiry j => Sys2Proof.Machine.execCalNoticeExpiry j s
  | .calOutageEnd j r real => Sys2Proof.Machine.execCalOutageEnd j r real s
  | .calGapStepStart j => Sys2Proof.Machine.execCalGapStepStart j s
  | .calGapStepEnd j r real => Sys2Proof.Machine.execCalGapStepEnd j r real s
  | .calSysTimeout j => Sys2Proof.Machine.execCalSysTimeout j s
  | .calCoefDataWrite p val => Sys2Proof.Machine.execCalCoefDataWrite p val s
  | .calCoefApply p val => Sys2Proof.Machine.execCalCoefApply p val s
  | .calRun h type index kind mode apply => Sys2Proof.Machine.execCalRun h type index kind mode apply s
  | .calSysPoint h adc point expected => Sys2Proof.Machine.execCalSysPoint h adc point expected s
  | .calAbort h type index => Sys2Proof.Machine.execCalAbort h type index s
  | .calCoefGet h type index => Sys2Proof.Machine.execCalCoefGet h type index s
  | .calCoefSet h blob => Sys2Proof.Machine.execCalCoefSet h blob s
  | .calCoefNeutral h type index => Sys2Proof.Machine.execCalCoefNeutral h type index s
  | .linStageWrite p x val => Sys2Proof.Machine.execLinStageWrite p x val s
  | .linCommit p => Sys2Proof.Machine.execLinCommit p s
  | .linDiscard p => Sys2Proof.Machine.execLinDiscard p s
  | .linRouteSet h commit count pairs => Sys2Proof.Machine.execLinRouteSet h commit count pairs s
  | .linRouteGet h dst count => Sys2Proof.Machine.execLinRouteGet h dst count s
  | .bayResetAssert y => Sys2Proof.Machine.execBayResetAssert y s
  | .bayResetRelease y => Sys2Proof.Machine.execBayResetRelease y s
  | .memoryPortRead d m portB entry flips => Sys2Proof.Machine.execMemoryPortRead d m portB entry flips s
  | .memoryPortWrite d m wa wb => Sys2Proof.Machine.execMemoryPortWrite d m wa wb s
  | .memScrubWord d m flips => Sys2Proof.Machine.execMemScrubWord d m flips s
  | .fifoPush d m val popToo => Sys2Proof.Machine.execFifoPush d m val popToo s
  | .fifoPop d m => Sys2Proof.Machine.execFifoPop d m s
  | .lookbackRequest d m start lenM1 => Sys2Proof.Machine.execLookbackRequest d m start lenM1 s
  | .lookbackDeferredEval d m => Sys2Proof.Machine.execLookbackDeferredEval d m s
  | .memSettingsApply d m => Sys2Proof.Machine.execMemSettingsApply d m s
  | .memWindowAccess p d m k write => Sys2Proof.Machine.execMemWindowAccess p d m k write s
  | .dbayMemClear p d val => Sys2Proof.Machine.execDbayMemClear p d val s
  | .ioCellApply y => Sys2Proof.Machine.execIoCellApply y s
  | .peepholeApply d k => Sys2Proof.Machine.execPeepholeApply d k s
  | .prbCapCtrlArm p val => Sys2Proof.Machine.execPrbCapCtrlArm p val s
  | .prbCaptureTrigger => Sys2Proof.Machine.execPrbCaptureTrigger s
  | .prbCaptureComplete => Sys2Proof.Machine.execPrbCaptureComplete s
  | .prbSelect h probe bay peep net en => Sys2Proof.Machine.execPrbSelect h probe bay peep net en s
  | .prbCaptureArm h trig pre pattern mask et => Sys2Proof.Machine.execPrbCaptureArm h trig pre pattern mask et s
  | .prbCaptureRead h start count => Sys2Proof.Machine.execPrbCaptureRead h start count s
  | .prbAuxSet h en => Sys2Proof.Machine.execPrbAuxSet h en s
  | .cfgFrameWrite bad => Sys2Proof.Machine.execCfgFrameWrite bad s
  | .cfgStoreCommit ok => Sys2Proof.Machine.execCfgStoreCommit ok s
  | .storeAreaErase area ok => Sys2Proof.Machine.execStoreAreaErase area ok s
  | .scrubFrameVisit found => Sys2Proof.Machine.execScrubFrameVisit found s
  | .faultActionApply d => Sys2Proof.Machine.execFaultActionApply d s
  | .cfgBufOpen h => Sys2Proof.Machine.execCfgBufOpen h s
  | .cfgBufWrite h offset count data => Sys2Proof.Machine.execCfgBufWrite h offset count data s
  | .cfgBufClose h release => Sys2Proof.Machine.execCfgBufClose h release s
  | .cfgLoad h bay source => Sys2Proof.Machine.execCfgLoad h bay source s
  | .cfgStoreSave h slot => Sys2Proof.Machine.execCfgStoreSave h slot s
  | .cfgStoreErase h slot => Sys2Proof.Machine.execCfgStoreErase h slot s
  | .cfgStoreInfo h slot => Sys2Proof.Machine.execCfgStoreInfo h slot s
  | .cfgStatusGet h bay => Sys2Proof.Machine.execCfgStatusGet h bay s
  | .recallNoticeExpiry r => Sys2Proof.Machine.execRecallNoticeExpiry r s
  | .repairSparePrepared r => Sys2Proof.Machine.execRepairSparePrepared r s
  | .repairMemCopyStep r => Sys2Proof.Machine.execRepairMemCopyStep r s
  | .repairWarmupEnd r => Sys2Proof.Machine.execRepairWarmupEnd r s
  | .repairCompareWindowEnd r => Sys2Proof.Machine.execRepairCompareWindowEnd r s
  | .repairCutoverBoundary r => Sys2Proof.Machine.execRepairCutoverBoundary r s
  | .repairUnwarmEnd r => Sys2Proof.Machine.execRepairUnwarmEnd r s
  | .repairRetireComplete r => Sys2Proof.Machine.execRepairRetireComplete r s
  | .repairStart h type orig mode source calMask memCopy flags warmup cmpFrames missTol ftTol mask => Sys2Proof.Machine.execRepairStart h type orig mode source calMask memCopy flags warmup cmpFrames missTol ftTol mask s
  | .repairCutover h rep force => Sys2Proof.Machine.execRepairCutover h rep force s
  | .repairAbort h rep => Sys2Proof.Machine.execRepairAbort h rep s
  | .repairLend h type bay part => Sys2Proof.Machine.execRepairLend h type bay part s
  | .repairReturn h type bay => Sys2Proof.Machine.execRepairReturn h type bay s
  | .repairStatusGet h rep => Sys2Proof.Machine.execRepairStatusGet h rep s
  | .lnkCtrlEnWrite p port val => Sys2Proof.Machine.execLnkCtrlEnWrite p port val s
  | .lnkTxApply port => Sys2Proof.Machine.execLnkTxApply port s
  | .linkSynthSettled port => Sys2Proof.Machine.execLinkSynthSettled port s
  | .linkSeekDone port => Sys2Proof.Machine.execLinkSeekDone port s
  | .linkDeskewDone port => Sys2Proof.Machine.execLinkDeskewDone port s
  | .trainingBlockReceived port block trip arrival => Sys2Proof.Machine.execTrainingBlockReceived port block trip arrival s
  | .linkExchangeDone port drift => Sys2Proof.Machine.execLinkExchangeDone port drift s
  | .refusalCleared port => Sys2Proof.Machine.execRefusalCleared port s
  | .linkLevelDone port => Sys2Proof.Machine.execLinkLevelDone port s
  | .lockLossDetect port real => Sys2Proof.Machine.execLockLossDetect port real s
  | .lockRestore port same lost => Sys2Proof.Machine.execLockRestore port same lost s
  | .linkDownTimeout port => Sys2Proof.Machine.execLinkDownTimeout port s
  | .segmentDeparture port => Sys2Proof.Machine.execSegmentDeparture port s
  | .segmentDelivery port segment code => Sys2Proof.Machine.execSegmentDelivery port segment code s
  | .lnkPartnerGet h => Sys2Proof.Machine.execLnkPartnerGet h s
  | .lnkEnable h en dis => Sys2Proof.Machine.execLnkEnable h en dis s
  | .lnkRetrain h mask => Sys2Proof.Machine.execLnkRetrain h mask s
  | .lnkLatAck h mask => Sys2Proof.Machine.execLnkLatAck h mask s
  | .flitChoice port ecc => Sys2Proof.Machine.execFlitChoice port ecc s
  | .flitArrival port flit => Sys2Proof.Machine.execFlitArrival port flit s
  | .flitDelivery port vc => Sys2Proof.Machine.execFlitDelivery port vc s
  | .replayTimerExpiry port vc real => Sys2Proof.Machine.execReplayTimerExpiry port vc real s
  | .forwardingMove port vc => Sys2Proof.Machine.execForwardingMove port vc s
  | .lnkRcCntClear p port val => Sys2Proof.Machine.execLnkRcCntClear p port val s
  | .lnkRouteSet h entry count vals => Sys2Proof.Machine.execLnkRouteSet h entry count vals s
  | .lnkRcStatusGet h port => Sys2Proof.Machine.execLnkRcStatusGet h port s
  | .arbRequestRaise k req dl blen dest => Sys2Proof.Machine.execArbRequestRaise k req dl blen dest s
  | .readoutRestamp k dl => Sys2Proof.Machine.execReadoutRestamp k dl s
  | .arbRestamp p val => Sys2Proof.Machine.execArbRestamp p val s
  | .arbTear cause bubbles lead => Sys2Proof.Machine.execArbTear cause bubbles lead s
  | .arbCommit beats bubbles lead => Sys2Proof.Machine.execArbCommit beats bubbles lead s
  | .arbCntClear p val => Sys2Proof.Machine.execArbCntClear p val s
  | .orqClear p val => Sys2Proof.Machine.execOrqClear p val s
  | .ping h data => Sys2Proof.Machine.execPing h data s
  | .regRead h addr count => Sys2Proof.Machine.execRegRead h addr count s
  | .regWrite h addr count words => Sys2Proof.Machine.execRegWrite h addr count words s
  | .regModify h addr mask value => Sys2Proof.Machine.execRegModify h addr mask value s
  | .ledgerSegmentErase seg ok => Sys2Proof.Machine.execLedgerSegmentErase seg ok s
  | .resultGet h id => Sys2Proof.Machine.execResultGet h id s
  | .resultRelease h upto count ids => Sys2Proof.Machine.execResultRelease h upto count ids s
  | .ldgStatusGet h => Sys2Proof.Machine.execLdgStatusGet h s
  | .evtSubscribe h node en => Sys2Proof.Machine.execEvtSubscribe h node en s
  | .evtLogRead h lseq count => Sys2Proof.Machine.execEvtLogRead h lseq count s
  | .keyLeaseExpiry slot gen => Sys2Proof.Machine.execKeyLeaseExpiry slot gen s
  | .partGrant h part count codes => Sys2Proof.Machine.execPartGrant h part count codes s
  | .partRevoke h part limit count codes => Sys2Proof.Machine.execPartRevoke h part limit count codes s
  | .partTableGet h first count => Sys2Proof.Machine.execPartTableGet h first count s
  | .keyWrite h target mode wrapped kcv => Sys2Proof.Machine.execKeyWrite h target mode wrapped kcv s
  | .keyErase h target => Sys2Proof.Machine.execKeyErase h target s
  | .keyStatusGet h target => Sys2Proof.Machine.execKeyStatusGet h target s
  | .partQuotaSet h part min max auth => Sys2Proof.Machine.execPartQuotaSet h part min max auth s
  | .canFrameReceive frame errors => Sys2Proof.Machine.execCanFrameReceive frame errors s
  | .canReassemblyTimeout id => Sys2Proof.Machine.execCanReassemblyTimeout id s
  | .canAloneAnnounce acked => Sys2Proof.Machine.execCanAloneAnnounce acked s
  | .canCntClear p val => Sys2Proof.Machine.execCanCntClear p val s
  | .discover h => Sys2Proof.Machine.execDiscover h s
  | .fwEraseComplete ok => Sys2Proof.Machine.execFwEraseComplete ok s
  | .fwInfoGet h => Sys2Proof.Machine.execFwInfoGet h s
  | .fwWriteBegin h slot header => Sys2Proof.Machine.execFwWriteBegin h slot header s
  | .fwWrite h slot offset count data => Sys2Proof.Machine.execFwWrite h slot offset count data s
  | .fwVerify h slot => Sys2Proof.Machine.execFwVerify h slot s
  | .fwSwitch h slot mode => Sys2Proof.Machine.execFwSwitch h slot mode s
  | .fwConfirm h => Sys2Proof.Machine.execFwConfirm h s
  | .idGet h => Sys2Proof.Machine.execIdGet h s
  | .injectEnable h en duration => Sys2Proof.Machine.execInjectEnable h en duration s
  | .inject h det unit arg timeout => Sys2Proof.Machine.execInject h det unit arg timeout s
  | .injectTimeout j => Sys2Proof.Machine.execInjectTimeout j s
  | .injectedConditionRelease det => Sys2Proof.Machine.execInjectedConditionRelease det s
  | .refFerrMeasure ppm => Sys2Proof.Machine.execRefFerrMeasure ppm s
  | .adcSpacingExpiry n w => Sys2Proof.Machine.execAdcSpacingExpiry n w s
  | .comparatorCrossing a k hi input => Sys2Proof.Machine.execComparatorCrossing a k hi input s
  | .thermPeakSample t => Sys2Proof.Machine.execThermPeakSample t s
  | .canTransmitError ackError => Sys2Proof.Machine.execCanTransmitError ackError s
  | .referenceQualified => Sys2Proof.Machine.execReferenceQualified s
  | .pllLockAchieved => Sys2Proof.Machine.execPllLockAchieved s
  | .syncDetect pin => Sys2Proof.Machine.execSyncDetect pin s
  | .syncBoundaryAction => Sys2Proof.Machine.execSyncBoundaryAction s
  | .syncNowLoad => Sys2Proof.Machine.execSyncNowLoad s
  | .gapgenWriteApply => Sys2Proof.Machine.execGapgenWriteApply s
  | .presLLow => Sys2Proof.Machine.execPresLLow s
  | .inrushCountExpiry => Sys2Proof.Machine.execInrushCountExpiry s
  | .presLHigh verified => Sys2Proof.Machine.execPresLHigh verified s
  | .domainRampStart => Sys2Proof.Machine.execDomainRampStart s
  | .domainPowerGood => Sys2Proof.Machine.execDomainPowerGood s
  | .domainRampTimeout => Sys2Proof.Machine.execDomainRampTimeout s
  | .powerAudit => Sys2Proof.Machine.execPowerAudit s
  | .deferredWriteResume => Sys2Proof.Machine.execDeferredWriteResume s
  | .powerInputLoss verified => Sys2Proof.Machine.execPowerInputLoss verified s
  | .keeperWatchdogExpiry starts => Sys2Proof.Machine.execKeeperWatchdogExpiry starts s
  | .keeperBootComplete => Sys2Proof.Machine.execKeeperBootComplete s
  | .sashMateTimer => Sys2Proof.Machine.execSashMateTimer s
  | .lifePeriodExpiry => Sys2Proof.Machine.execLifePeriodExpiry s
  | .lifeWriteResume => Sys2Proof.Machine.execLifeWriteResume s
  | .xbarApply => Sys2Proof.Machine.execXbarApply s
  | .vrefExtOutOfRange => Sys2Proof.Machine.execVrefExtOutOfRange s
  | .calCoefTakeEffect => Sys2Proof.Machine.execCalCoefTakeEffect s
  | .linCommitApply => Sys2Proof.Machine.execLinCommitApply s
  | .cfgBufLapse => Sys2Proof.Machine.execCfgBufLapse s
  | .cfgLoadStart => Sys2Proof.Machine.execCfgLoadStart s
  | .cfgLoadFinish => Sys2Proof.Machine.execCfgLoadFinish s
  | .arbDecision => Sys2Proof.Machine.execArbDecision s
  | .ownershipRecordCommit => Sys2Proof.Machine.execOwnershipRecordCommit s
  | .revocationDrained => Sys2Proof.Machine.execRevocationDrained s
  | .drainLimitExpiry => Sys2Proof.Machine.execDrainLimitExpiry s
  | .keyRecordCommit => Sys2Proof.Machine.execKeyRecordCommit s
  | .canFrameSent => Sys2Proof.Machine.execCanFrameSent s
  | .canFrameAbandon => Sys2Proof.Machine.execCanFrameAbandon s
  | .canDupAnnounce => Sys2Proof.Machine.execCanDupAnnounce s
  | .canBusOffRecovery => Sys2Proof.Machine.execCanBusOffRecovery s
  | .canCtrlApply => Sys2Proof.Machine.execCanCtrlApply s
  | .discoverDelayedResponse => Sys2Proof.Machine.execDiscoverDelayedResponse s
  | .fwVerifyComplete => Sys2Proof.Machine.execFwVerifyComplete s
  | .fwSwitchRestart => Sys2Proof.Machine.execFwSwitchRestart s
  | .fwConfirmTick => Sys2Proof.Machine.execFwConfirmTick s
  | .fwConfirmExpiry => Sys2Proof.Machine.execFwConfirmExpiry s
  | .fwTrialBootTimeout => Sys2Proof.Machine.execFwTrialBootTimeout s
  | .injectWindowExpiry => Sys2Proof.Machine.execInjectWindowExpiry s
  | .inputPowerApplied => Sys2Proof.Machine.execInputPowerApplied s
  | .holdUpEnd => Sys2Proof.Machine.execHoldUpEnd s
  | .referenceReturn => Sys2Proof.Machine.execReferenceReturn s
  | .vrefExtInRange => Sys2Proof.Machine.execVrefExtInRange s

end Sys2Proof.Machine
end

