-- ==== Sys2Proof/Machine/Tick.lean ====
section
/-!
DEFINITION. What the block does when no command waits (log 3): the keeper takes the next packet of its local input, starts
an accepted command whose turn has come (R304), or one CK cycle passes (R17, R26, R29).
-/
namespace Sys2Proof.Machine

/-- The generator's counter takes its step at a frame boundary (R26). -/
def Clk.genStep (c : Clk) : Clk :=
  if genValid c.genPeriod c.genLength then
    { c with genCount := if c.genCount.toNat + 1 < c.genPeriod.toNat then c.genCount + 1 else 0 }
  else c

/-- What the flip-flops at the end of a cycle take: crossbar, I/O cells, output ports, and in frame phase 2 the user bits
of the segments that depart next (R166, R193, R244). -/
def State.capture (s : State) : State :=
  { s with
    lin := s.nextLin
    io := Vector.ofFn s.nextCell
    dbays := Vector.ofFn fun d => { s.dbays[d] with outPorts := Config.imagePorts d.val s.ck }
    ports := if bits s.clk.et 0 3 = 2 then Vector.ofFn fun p => { s.ports[p] with txUser := s.userBits p } else s.ports }

/-- A new cycle: ET counts on, timers fire, window lines fall, records of the comparators are presented (R17, R93, R114,
R122). -/
def State.advance (s : State) : State :=
  let et := s.clk.et + 1
  { s with
    ck := s.ck + 1, clk := { s.clk with et := et }, timers := s.timers.map fun t => t.tick et
    adcs := s.adcs.map fun x => { x with wev := false }
    ports := s.ports.map Port.tick, arb := { s.arb with reqs := s.arb.reqs.map Requester.tick }
    abays := s.abays.map fun b => b.feedTick (s.ck + 1) }

/-- One CK cycle. Without power behind the 12 V switch only the model's own clock moves. -/
def State.tick (s : State) : State :=
  if !s.hw then { s with ck := s.ck + 1 }
  else
    let s := s.verifyWrites.compareTick.probeTick.capture.advance
    let s := if s.clk.atBoundary then (s.onClk Clk.genStep).nextSamples.releaseAborted.takeSuspects else s
    s.memTick

/-- What there is to do: run a command, or a state that follows without one. -/
inductive Work where
  | command (i : Instr) (s : State)
  | settled (s : State)
deriving DecidableEq, Repr

/-- A packet from the local command input. One shorter than a header is dropped. -/
def State.localPacket (s : State) (path : Sys2Proof.Path) (bs : List Byte) (poisoned : Bool) : Work :=
  if bs.length < 20 then .settled s
  else
    let (h, op, ps) := openPacket path poisoned bs
    match parse h op ps with
    | .command i => .command i { s with taken := true }
    | .layout => .settled (s.refusePacket h op ps Status.outOfRange)
    | .opcode => .settled (s.refusePacket h op ps Status.badOpcode)

/-- An accepted command may start: it is unfinished, no earlier one of its partition holds it back, and a durable one does
not meet the bar of R62. -/
def State.mayStart (s : State) (c : CmdRef) : Bool :=
  match s.entry c with
  | some e => e.result.isNone && !s.blocked c && !(e.durable && s.pwr.nvwDefer)
  | none => false

/-- The first accepted command that may start. -/
def State.nextStart (s : State) : Option (CmdRef × Instr) := s.unstarted.find? fun x => s.mayStart x.1

/-- Take a command out of those that wait to start; commands that ended meanwhile go with it. -/
def State.dropUnstarted (s : State) (c : CmdRef) : State :=
  let waits (x : CmdRef × Instr) : Bool := x.1 ≠ c && (match s.entry x.1 with | some e => e.result.isNone | none => false)
  { s with unstarted := s.unstarted.filter waits }

/-- The packet that the keeper takes next: the first, or in RECOVERY the first from the slow-control bus (R304, R366). -/
def State.nextPacket (s : State) : Option (Sys2Proof.Path × List Byte × Bool) :=
  s.keeperIn.find? fun x => !s.fw.recovery || Path.isCan x.1

/-- What the block does with no command in front. -/
def State.work (s : State) : Work :=
  if !s.kpr then .settled s.tick
  else match s.nextPacket with
    | some x => ({ s with keeperIn := s.keeperIn.erase x }).localPacket x.1 x.2.1 x.2.2
    | none =>
      match s.nextStart with
      | some (c, i) => .command i { s.dropUnstarted c with resuming := true }
      | none => .settled s.tick

end Sys2Proof.Machine
end

