-- ==== Sys2Proof/Machine/Idle.lean ====
section
/-!
DEFINITION. A step with no command in front (log 3): the next piece of the keeper's own work, or one CK cycle.
-/
namespace Sys2Proof.Machine

/-- One step on an empty queue. -/
def idle (s : State) : Outcome :=
  match s.work with
  | .command i s => exec i s
  | .settled s => .next s

end Sys2Proof.Machine
end

