-- ==== Sys2Proof/Safety.lean ====
section
/-!
DEFINITION. The terms the claims use: the canonical form of memory and the invariant of every step, what a command leaves
alone, and the turn of a command that was accepted.
-/
namespace Sys2Proof.Machine

/-- The memory is in canonical form: addresses strictly rising, no entry equal to what an unlisted address reads as. -/
def Memory.wf (m : List Host.Cell) : Bool := canonical 0 m

/-- `t` with the books of `s`: what an event, a response, a final code, the firing of a detector and the drawing of a free
value write: event log, outgoing packets, the slow-control bus's transmit queue, ledger, key leases with what their end erases,
injections. -/
def State.booksOf (t s : State) : State :=
  { t with
    log := s.log, keeperOut := s.keeperOut, ldg := s.ldg, inj := s.inj, freeCtr := s.freeCtr
    can := { t.can with txq := s.can.txq, waiting := s.can.waiting, dropped := s.can.dropped }
    keys := { t.keys with slots := s.keys.slots, blocks := s.keys.blocks } }

/-- The command answers a next state that is `u` but for the books. -/
def Reaches (i : Instr) (s u : State) : Prop := ∃ t, exec i s = .next t ∧ t.booksOf u = u

/-- `t` with what the path of a command packet writes beside the books put back as in `s`: the packets that wait, the mark of
a start, the counters of refused packets, and the audit of the keeper's table (R58). -/
def State.commandBooksOf (t s : State) : State :=
  { t.booksOf s with
    can := { (t.booksOf s).can with discarded := s.can.discarded }
    keeperIn := s.keeperIn, unstarted := s.unstarted, resuming := s.resuming, taken := s.taken
    part := { t.part with events := s.part.events }
    pwr := { t.pwr with req := s.pwr.req, suspect := s.pwr.suspect, events := s.pwr.events } }

/-- `t` with what a register access writes beside its own effect put back as in `s`: the access's status, the staged words and
the audit of the keeper's table (R400, R401). -/
def State.accessBooksOf (t s : State) : State :=
  { t.booksOf s with
    acc := s.acc, staged := s.staged
    pwr := { t.pwr with req := s.pwr.req, suspect := s.pwr.suspect, events := s.pwr.events } }

/-- The keeper's picture of a domain can be trusted: it is not SUSPECT, the table agrees with the sequencer, and no injection
waits for its audit (R58, R59). -/
def Trusted (s : State) (i : Fin 32) : Prop :=
  testBit s.pwr.suspect i.val = false ∧ testBit s.pwr.req i.val = s.seqOn i ∧ s.armedOn 0x201 (BitVec.ofNat 8 i.val) = none

/-- The register write that `i` stands for, made by partition `p`, completes with DONE and makes the state `u`. -/
def Writes (i : Instr) (p : Fin 32) (s u : State) : Prop :=
  exec i s = .next { u with acc := (Status.done, 0), staged := s.staged.filter fun x => x.part ≠ p }

/-- The keeper runs, and an accepted command has its turn (R304, log 17). -/
def Turn (s : State) : Prop := s.kpr = true ∧ s.resuming = true

/-- The state in which an accepted command has its effect: it has started, and its audit is made (R58). -/
def State.atTurn (s : State) (h : Header) : State := ({ s with resuming := false }).begun (refOf h)

/-- The command with header `h`, when its turn comes, changes the state by `f` and reaches the final code `r`. -/
def Runs (i : Instr) (h : Header) (s : State) (f : State → State) (r : State → Reply) : Prop :=
  exec i s = .next ((f (s.atTurn h)).finish (refOf h) (r (s.atTurn h)))

/-- The command with header `h`, when its turn comes, has its effect `f`, and the work that it began reaches its final code later. -/
def Begins (i : Instr) (h : Header) (s : State) (f : State → State) : Prop := exec i s = .next (f (s.atTurn h))

/-! ### Invariants -/

/-- Writes of a key to slot `p` that wait for their record. -/
def Keys.writes (k : Keys) (p : Fin 32) : Nat :=
  (k.jobs.filter fun j => match j with | .write _ q _ _ => q == p | _ => false).length

/-- The memory and the sparse tables are in canonical form. -/
structure Canonical (s : State) : Prop where
  mem : Memory.wf s.mem = true
  active : canonical 0xFFF s.lin.active = true
  routes : canonical 0 s.routes = true
  own : canonical ownDefault s.part.own = true
  real : canonical 0 s.inj.real = true
  injected : canonical 0 s.inj.injected = true

/-- The event log and its queues, the transmit queue of the slow-control bus, the ledger, the results and samples of the converters,
the loads that wait, the configuration buffer, the result streams and the records that a repair holds keep to their sizes, the
counters that are never 0 are not, and ET is 0 without power. -/
structure Bounded (s : State) : Prop where
  epoch : s.part.epoch ≠ 0
  lseq : s.log.next ≠ 0
  ring : s.log.ring.length ≤ 1024
  waiting : s.log.waiting.length ≤ 64
  hwq : s.log.hwq.length ≤ 64
  txq : s.can.txq.length ≤ 8
  entries : s.ldg.entries.length ≤ 4096
  results : ∀ n : Fin 18, s.adcs[n].queue.length ≤ 64
  samples : ∀ n : Fin 8, s.wdacs[n].queue.length ≤ 1024
  loads : s.cfg.queue.length ≤ 18
  buffer : s.cfg.buf.length ≤ imageSize
  streams : ∀ a : Fin 9, s.arb.streams[a].length ≤ 32
  held : ∀ (r : Fin 3) (x : Repair), s.rep.slots[r] = some x → x.held.length ≤ 64
  keys : ∀ p : Fin 32, s.keys.slots[p].gens.length + s.keys.writes p ≤ 4
  pool : s.sumMin 0 s.part.quota[(0 : Fin 32)].min ≤ 256
  admin : 4 ≤ s.part.quota[(0 : Fin 32)].min
  quota : ∀ p : Fin 32, s.part.quota[p].min ≤ s.part.quota[p].max ∧ 1 ≤ s.part.quota[p].max ∧ s.part.quota[p].max ≤ 256
  off : s.hw = false → s.clk.et = 0
  armed : s.inj.enable = true ∨ ∀ j : Fin 16, s.inj.armed[j] = none

/-! ### What a command may write

Each `frame` function takes the state `t` after a command and the state `s` before it, and puts back all that the command may
write. A command that is not of the family gives `s`. -/

/-- `t` with the units of the switched domains and the engines that serve them put back as in `s`. -/
def State.unitsOf (t s : State) : State :=
  { t with
    abays := s.abays, xbar := s.xbar, adcs := s.adcs, wdacs := s.wdacs, cal := s.cal, dbays := s.dbays, lin := s.lin
    mem := s.mem, cfg := s.cfg, rep := s.rep, ports := s.ports, arb := s.arb, sash := s.sash }

/-- `t` with what a domain that leaves or joins ON may write put back: the units, and the domains themselves. -/
def State.domainsOf (t s : State) : State :=
  { (t.booksOf s).unitsOf s with
    pwr := { t.pwr with
      doms := s.pwr.doms, req := s.pwr.req, suspect := s.pwr.suspect, events := s.pwr.events, served := s.pwr.served } }

/-- `t` with one domain put back. -/
def State.domOf (t s : State) (i : Fin 32) : State := { t with pwr := { t.pwr with doms := t.pwr.doms.set i (s.dom i) } }

/-- `t` with what a restart of the keeper may write put back: keeper memory, the slots, and what it ends (R67, R312). -/
def State.restartOf (t s : State) : State :=
  { (t.booksOf s).unitsOf s with
    pwr := { t.pwr with
      phase := s.pwr.phase, boot := s.pwr.boot, cause := s.pwr.cause, count := s.pwr.count, served := s.pwr.served
      underway := s.pwr.underway }
    can := s.can, keys := s.keys, part := s.part, fw := s.fw, unstarted := s.unstarted, resuming := s.resuming
    snaps := s.snaps, staged := s.staged, keeperIn := s.keeperIn }

/-- The block is in RAM mode and its bay runs: it delivers what its ports ask. -/
def ramRuns (s : State) (d : Fin 18) (m : Fin 4) : Prop :=
  s.hw = true ∧ s.memRuns d = true ∧ s.dbays[d].mems[m].mode = 0

/-- A port has written a word of this block in this cycle (R181). -/
def State.writtenNow (s : State) (d : Fin 18) (m : Fin 4) : Bool := s.dbays[d].mems[m].wrote.any fun w => w.ck = s.ck

/-- No injection of a memory error waits for this block. -/
def memCalm (s : State) (d : Fin 18) (m : Fin 4) : Prop :=
  ∀ k : Fin 1024, (s.armedOn 0x100 (memUnit d m) fun w => w.toNat = k.val) = none ∧
    (s.armedOn 0x101 (memUnit d m) fun w => w.toNat = k.val) = none

/-- `t` with what a cut or torn transfer may write put back: the waiting requests, the grants, the slots that their
reservations give back, and whether a repair still waits for its original's transfer (R232, R288, R290). -/
def State.tearsOf (t s : State) : State :=
  let beat (r : Fin 3) : Option Repair := match t.rep.slots[r], s.rep.slots[r] with
    | some x, some y => some { x with lastBeat := y.lastBeat }
    | x, _ => x
  let back (x y : Port) : Port := { x with
    req := { x.req with orqLeaving := y.req.orqLeaving }, rsp := { x.rsp with orqLeaving := y.rsp.orqLeaving } }
  let ports : Vector Port 4 := Vector.ofFn fun p => back t.ports[p] s.ports[p]
  { t.booksOf s with
    ports := ports
    rep := { t.rep with slots := Vector.ofFn beat }
    arb := { t.arb with
      reqs := s.arb.reqs, holder := s.arb.holder, next := s.arb.next, cut := s.arb.cut, lastHolder := s.arb.lastHolder
      events := s.arb.events } }

/-- `t` with what a load's end and a repair's end may write put back: the bays, loads, routes, octets, calibration jobs, and the
requests to the sequencer (R213, R223, R236). -/
def State.repairsOf (t s : State) : State :=
  { t.tearsOf s with
    abays := s.abays, dbays := s.dbays, adcs := s.adcs, wdacs := s.wdacs, wdacWaits := s.wdacWaits, cal := s.cal
    xbar := s.xbar, lin := s.lin, cfg := s.cfg, rep := s.rep, pwr := { t.pwr with doms := s.pwr.doms, req := s.pwr.req } }

/-- `t` with one link port put back. -/
def State.portOf (t s : State) (p : Fin 4) : State := { t with ports := t.ports.set p s.ports[p] }

/-- A register without wide-field rules: one access, one word. -/
def Reg.single (r : Reg) : Bool := !r.stages && r.words.isEmpty && r.low.isNone

/-- A write of `v` passes every check, and names no unit in a domain (R401). -/
def Access.Takes (a : Access) (v : Word) : Prop :=
  a.writable = true ∧ a.who v = true ∧ a.doms v = [] ∧ a.range v = true ∧ a.rule none v = none

/-- `t` with what an end of calibration jobs may write put back: the engine, the units it holds, and the repairs that feed on
its jobs. -/
def State.jobsOf (t s : State) : State :=
  { t.booksOf s with
    cal := s.cal, adcs := s.adcs, wdacs := s.wdacs, wdacWaits := s.wdacWaits, rep := { t.rep with slots := s.rep.slots } }

/-- What the commands of the clock may write (01), put back. -/
def frameClock (t s : State) : Instr → State
  | .referenceLossDetect _ | .refFerrMeasure _ => { t.booksOf s with clk := s.clk, can := { (t.booksOf s).can with started := s.can.started } }
  | .referenceReturn | .referenceQualified | .syncDetect _ | .gapgenWriteApply =>
    { t.booksOf s with clk := s.clk }
  | .syncBoundaryAction | .syncNowLoad =>
    let ports : Vector Port 4 := Vector.ofFn fun p => { t.ports[p] with
      rxSyncWas := s.ports[p].rxSyncWas, rxGapWas := s.ports[p].rxGapWas }
    { t.booksOf s with clk := s.clk, ports := ports, arb := { t.arb with holder := s.arb.holder, next := s.arb.next, cut := s.arb.cut } }
  | .pllLockAchieved => { t.booksOf s with
      clk := s.clk, ports := s.ports
      can := { (t.booksOf s).can with started := s.can.started } }
  | .gapStateChange _ | .gapSourceApply _ =>
    { t.booksOf s with
      clk := s.clk, cal := s.cal, xbar := s.xbar, abays := s.abays, adcs := s.adcs, wdacs := s.wdacs
      dbays := s.dbays, rep := { t.rep with slots := s.rep.slots } }
  | .clkSyncCtrlArm _ _ =>
    { t.accessBooksOf s with clk := { t.clk with
      syncSrc := s.clk.syncSrc, syncMode := s.clk.syncMode, syncArmed := s.clk.syncArmed, syncDue := s.clk.syncDue } }
  | .clkGapClear _ _ => { t.accessBooksOf s with clk := { t.clk with minLen := s.clk.minLen } }
  | .timeGet _ => t.commandBooksOf s
  | .syncArm _ _ _ _ | .syncNow _ _ => { t.commandBooksOf s with clk := s.clk }
  | .gapSet _ _ _ _ =>
    { t.commandBooksOf s with clk := { t.clk with
      gapSrc := s.clk.gapSrc, period := s.clk.period, length := s.clk.length, genPend := s.clk.genPend } }
  | _ => s

/-- `s` with what a loss of the 12 V rail keeps (Table 3-4) as `t` has it. A selector that flash does not hold yet and what a
save or an erase of the store was writing are not kept. -/
def State.keptOf (t s : State) : State :=
  { s with
    cfg := if s.cfg.job.isNone then { s.cfg with slots := t.cfg.slots, areas := t.cfg.areas } else s.cfg
    rep := { s.rep with loans := t.rep.loans }
    fw := if s.fw.stored.isNone then { s.fw with
      active := t.fw.active, trial := t.fw.trial, tries := t.fw.tries, floor := t.fw.floor } else { s.fw with floor := t.fw.floor }
    part := { s.part with epoch := t.part.epoch, own := t.part.own, loss := t.part.loss, quota := t.part.quota }
    ldg := { s.ldg with floors := t.ldg.floors, ceil := t.ldg.ceil }
    pwr := { s.pwr with count := t.pwr.count }
    ck := t.ck, pending := t.pending }

/-- What the commands of presence, straps, power, heat and resets may write (02, 03), put back. After a loss of power and a
HOT STOP only what Table 3-4 keeps is compared, and of a table with a change under way nothing. -/
def framePower (t s : State) : Instr → State
  | .inputPowerApplied | .presLLow => { t with pwr := { t.pwr with
      inputGood := s.pwr.inputGood, presLow := s.pwr.presLow, counting := s.pwr.counting } }
  | .inrushCountExpiry | .holdUpEnd => { t with pwr := { t.pwr with phase := s.pwr.phase, counting := s.pwr.counting } }
  | .hotStop _ => t.keptOf s
  | .presLHigh _ | .powerInputLoss _ =>
    if s.part.changes.isEmpty then t.keptOf s else { t.keptOf s with rep := s.rep, part := s.part }
  | .keeperResetRelease _ _ | .hotStopRelease _ => { t.booksOf s with node := s.node, fw := s.fw, pwr := { t.pwr with
      phase := s.pwr.phase, boot := s.pwr.boot, cause := s.pwr.cause, count := s.pwr.count, lossSeen := s.pwr.lossSeen
      hotSeen := s.pwr.hotSeen, held := s.pwr.held } }
  | .strapReading _ _ => { t.booksOf s with node := s.node, can := s.can }
  | .strapPeriodicCheck _ _ => { t.booksOf s with node := { t.node with differ := s.node.differ, mismatch := s.node.mismatch } }
  | .domainRampStart => { t with pwr := { t.pwr with doms := s.pwr.doms } }
  | .domainPowerGood | .domainRampTimeout | .domainIsolationRelease _ | .domainDrainStart _ | .monitorTrip _ _ _ => t.domainsOf s
  | .domainIsolate i => { (t.domOf s i).booksOf s with lin := s.lin }
  | .domainSwitchOpen i => t.domOf s i
  | .domainRailFallen i => { (t.domOf s i).booksOf s with pwr := { (t.domOf s i).pwr with served := s.pwr.served } }
  | .powerAudit => { t.booksOf s with
      arb := { t.arb with reqs := s.arb.reqs }
      pwr := { t.pwr with req := s.pwr.req, suspect := s.pwr.suspect, events := s.pwr.events } }
  | .pwrMeasureUpdate _ _ _ => 
    let measured : Vector Dom 32 := Vector.ofFn fun i => { t.dom i with v := (s.dom i).v, i := (s.dom i).i }
    { t with pwr := { t.pwr with vin := s.pwr.vin, iin := s.pwr.iin, doms := measured } }
  | .dieTSample _ => { t with pwr := { t.pwr with dieT := s.pwr.dieT } }
  | .thermPeakSample _ => { t with pwr := { t.pwr with peak := s.pwr.peak } }
  | .thermalWarningCrossing _ => { t.booksOf s with pwr := { t.pwr with warn := s.pwr.warn, events := s.pwr.events } }
  | .nvwBarCrossing _ => { t.booksOf s with pwr := { t.pwr with nvwDefer := s.pwr.nvwDefer, underway := s.pwr.underway, events := s.pwr.events } }
  | .deferredWriteResume => { t.booksOf s with fw := { t.fw with stored := s.fw.stored } }
  | .keeperWatchdogExpiry _ => t.restartOf s
  | .keeperBootComplete => { (t.commandBooksOf s).unitsOf s with
      part := s.part, fw := s.fw
      can := { (t.commandBooksOf s).can with
        announceAtLatch := s.can.announceAtLatch, resetFlag := s.can.resetFlag }
      pwr := { t.pwr with
      phase := s.pwr.phase, doms := s.pwr.doms, req := s.pwr.req, suspect := s.pwr.suspect, events := s.pwr.events
      warmCmd := s.pwr.warmCmd, held := s.pwr.held, served := s.pwr.served, owed := s.pwr.owed } }
  | .pwrStatusGet _ => t.commandBooksOf s
  | .pwrDomainSet _ _ _ => { t.commandBooksOf s with pwr := { (t.commandBooksOf s).pwr with
      doms := s.pwr.doms, served := s.pwr.served } }
  | .pwrSuspectAck _ _ => let x := (t.commandBooksOf s).repairsOf s
    { x with arb := { x.arb with suspects := s.arb.suspects } }
  | .pwrReset _ _ _ => { (t.commandBooksOf s).restartOf s with
      node := s.node, timers := s.timers, groups := s.groups, adcStarts := s.adcStarts, wdacWaits := s.wdacWaits
      pwr := { ((t.commandBooksOf s).restartOf s).pwr with doms := s.pwr.doms, warmCmd := s.pwr.warmCmd } }
  | .pwrRestart _ => { t.commandBooksOf s with pwr := { (t.commandBooksOf s).pwr with doms := s.pwr.doms, held := s.pwr.held } }
  | .pwrTripClear _ _ => { t.commandBooksOf s with pwr := { (t.commandBooksOf s).pwr with doms := s.pwr.doms } }
  | .pwrThermClear _ _ => { t.accessBooksOf s with pwr := { (t.accessBooksOf s).pwr with peak := s.pwr.peak } }
  | _ => s

/-- What the commands of the sensor sash may write (04), put back. A pin that opens may shut bias down. -/
def frameSash (t s : State) : Instr → State
  | .sashPinChange _ _ => { t.booksOf s with sash := s.sash, pwr := { (t.domOf s 31).pwr with
      req := s.pwr.req, served := s.pwr.served } }
  | .sashMateTimer => { t with sash := { t.sash with state := s.sash.state } }
  | .sashIdentityRead _ _ _ _ | .sashAbsentProbe _ | .sashIdRetry _ _ _ | .biasRampStep _ | .lifePageVerify _ =>
    { t.booksOf s with sash := s.sash }
  | .lifePeriodExpiry | .lifeWriteResume => { t with sash := { t.sash with
      writing := s.sash.writing, due := s.sash.due, again := s.sash.again, record := s.sash.record
      failedAt := s.sash.failedAt } }
  | .peakTSample _ => { t with sash := { t.sash with peakT := s.sash.peakT } }
  | .sashInfoGet _ | .sashLifeGet _ => t.commandBooksOf s
  | .sashBiasSet _ _ _ _ _ _ => { t.commandBooksOf s with sash := s.sash }
  | .sashExpectSet _ _ => { t.commandBooksOf s with sash := s.sash, pwr := { ((t.commandBooksOf s).domOf s 31).pwr with
      served := s.pwr.served } }
  | _ => s

/-- A bay with each comparator combined with the one in the same place of another. -/
def ABay.withCmps (b c : ABay) (f : Cmp → Cmp → Cmp) : ABay :=
  let slots : Vector Slot 8 := Vector.ofFn fun (k : Fin 8) =>
    { b.slots[k] with lo := f b.slots[k].lo c.slots[k].lo, hi := f b.slots[k].hi c.slots[k].hi }
  { b with slots := slots }

/-- What the commands of the analogue bays and the octet crossbar may write (05; R133, R134), put back. -/
def frameAnalogue (t s : State) : Instr → State
  | .slotSettingsApply a k =>
    let b := t.abays[a]
    let slot := { b.slots[k] with cfgNow := s.abays[a].slots[k].cfgNow, masked := s.abays[a].slots[k].masked }
    { t with abays := t.abays.set a { b with slots := b.slots.set k slot }, xbar := { t.xbar with zin := s.xbar.zin } }
  | .slotMaskEnd a k =>
    let b := t.abays[a]
    { t with abays := t.abays.set a { b with slots := b.slots.set k { b.slots[k] with masked := s.abays[a].slots[k].masked } } }
  | .comparatorCrossing a k hi _ =>
    let b := t.abays[a]
    let cmp (c d : Cmp) : Cmp := { c with out := d.out, double := d.double }
    let slot := b.slots[k].onCmp hi fun c => cmp c (s.abays[a].slots[k].cmp hi)
    { t with abays := t.abays.set a { b with slots := b.slots.set k slot, feedQ := s.abays[a].feedQ } }
  | .slotOverloadDetect a k _ =>
    let b := t.abays[a]
    let slot := { b.slots[k] with ovl := s.abays[a].slots[k].ovl }
    { t.booksOf s with abays := t.abays.set a { b with events := s.abays[a].events, slots := b.slots.set k slot } }
  | .sumSaturation a _ => { t with abays := t.abays.set a { t.abays[a] with sumOvl := s.abays[a].sumOvl } }
  | .asbLineClaim _ _ _ _ => { t.booksOf s with
      acc := s.acc, xbar := { t.xbar with lines := s.xbar.lines }
      abays := Vector.ofFn fun (b : Fin 9) => { t.abays[b] with so := s.abays[b].so, events := s.abays[b].events } }
  | .sumOutputApply a => { t with abays := t.abays.set a { t.abays[a] with soNow := s.abays[a].soNow, asbNow := s.abays[a].asbNow } }
  | .xbarOctWrite _ o _ => { t.accessBooksOf s with xbar := { t.xbar with
      primary := t.xbar.primary.set o s.xbar.primary[o], secondary := t.xbar.secondary.set o s.xbar.secondary[o]
      pending := s.xbar.pending } }
  | .xbarApply => { t with
      xbar := { t.xbar with
        primaryNow := s.xbar.primaryNow, secondaryNow := s.xbar.secondaryNow, pending := s.xbar.pending, zin := s.xbar.zin }
      abays := Vector.ofFn fun (b : Fin 9) => { t.abays[b] with
        slots := Vector.ofFn fun (k : Fin 8) => { t.abays[b].slots[k] with masked := s.abays[b].slots[k].masked } } }
  | .abayClear _ a _ =>
    let cmp (c d : Cmp) : Cmp := { c with double := d.double }
    { t.accessBooksOf s with abays := t.abays.set a (t.abays[a].withCmps s.abays[a] cmp) }
  | .thresholdLoad a =>
    let cmp (c d : Cmp) : Cmp := { c with now := d.now, was := d.was }
    { t with abays := t.abays.set a { t.abays[a].withCmps s.abays[a] cmp with settled := s.abays[a].settled } }
  | .thresholdHoldRelease _ a _ =>
    let cmp (c d : Cmp) : Cmp := { c with use := d.use }
    { t.accessBooksOf s with abays := t.abays.set a { t.abays[a].withCmps s.abays[a] cmp with hold := s.abays[a].hold } }
  | _ => s

/-- `t` with one ADC put back. -/
def State.adcOf (t s : State) (n : Fin 18) : State := { t with adcs := t.adcs.set n s.adcs[n] }

/-- `t` with the fields of one timer that a user or an engine sets put back. -/
def State.timerOf (t s : State) (x : Fin 16) : State := { t with timers := t.timers.set x s.timers[x] }

/-- The named ADC of a command's byte put back; nothing beside the path's writes for a byte out of range. -/
def State.adcOfByte (t s : State) (adc : Byte) : State :=
  match (fin adc.toNat : Option (Fin 18)) with
  | some n => (t.commandBooksOf s).adcOf s n
  | none => t.commandBooksOf s

/-- What the commands of the converters, groups and timers may write (06), put back. -/
def frameConverters (t s : State) : Instr → State
  | .adcStartEvent n => { (t.booksOf s).adcOf s n with adcStarts := s.adcStarts }
  | .adcFirstSample n _ | .adcSpacingExpiry n _ | .adcLoopRestart n _ | .urgentEvent n _ | .adcReferenceReady n => t.adcOf s n
  | .adcResultQueued n => { (t.booksOf s).adcOf s n with arb := { t.arb with
      streams := t.arb.streams.set (bayOfAdc n) s.arb.streams[bayOfAdc n], reqs := s.arb.reqs, nextRseq := s.arb.nextRseq
      skipped := s.arb.skipped, events := s.arb.events } }
  | .adcGroupStartEvent g =>
    let adcs : Vector Adc 18 := Vector.ofFn fun n => if testBit s.groups[g].mask n.val then s.adcs[n] else t.adcs[n]
    let group : Group := { t.groups[g] with miss := s.groups[g].miss }
    { t.booksOf s with adcs := adcs, adcStarts := s.adcStarts, groups := t.groups.set g group }
  | .adcRefSelect _ n _ | .adcResPop _ n _ => (t.accessBooksOf s).adcOf s n
  | .adcCntClear _ n _ => { t.accessBooksOf s with adcs := t.adcs.set n { t.adcs[n] with
      urgDrop := s.adcs[n].urgDrop, startMiss := s.adcs[n].startMiss, lost := s.adcs[n].lost
      startLate := s.adcs[n].startLate, winCnt := s.adcs[n].winCnt } }
  | .adcTakeover _ _ => t.jobsOf s
  | .adcGiveback n => (t.booksOf s).adcOf s n
  | .timerFire x => t.timerOf s x
  | .timerTakeover x _ | .timerGiveback x => { (t.booksOf s).timerOf s x with tmrEvents := s.tmrEvents }
  | .vrefExtOutOfRange =>
    let adcs : Vector Adc 18 := Vector.ofFn fun n => { t.adcs[n] with refRdy := s.adcs[n].refRdy }
    { t with vrefIn := s.vrefIn, adcs := adcs }
  | .vrefExtInRange => { t with vrefIn := s.vrefIn }
  | .adcStart _ _ => { t.commandBooksOf s with adcStarts := s.adcStarts }
  | .adcUrgent _ adc => t.adcOfByte s adc
  | .adcResultPop _ adc _ _ => t.adcOfByte s adc
  | .adcResultPeek _ _ _ | .adcStatusGet _ _ => t.commandBooksOf s
  | .adcGroupSet _ _ _ _ _ _ =>
    let groups : Vector Group 8 := Vector.ofFn fun g => { t.groups[g] with mask := s.groups[g].mask, ctrl := s.groups[g].ctrl }
    { t.commandBooksOf s with groups := groups }
  | .tmrSet _ _ _ _ _ _ => { t.commandBooksOf s with timers := s.timers }
  | _ => s

/-- `t` with one waveform DAC put back. -/
def State.wdacOf (t s : State) (n : Fin 8) : State := { t with wdacs := t.wdacs.set n s.wdacs[n] }

/-- What the commands of the waveform DACs may write (07), put back. -/
def frameWaveform (t s : State) : Instr → State
  | .wdacOutputClaim _ _ _ => (t.accessBooksOf s).jobsOf s
  | .wdacCmdStart _ n | .wdacCmdStop _ n => (t.accessBooksOf s).wdacOf s n
  | .wdacCmdFlush _ n | .wdacQueueAppend _ n _ => { t.accessBooksOf s with wdacs := t.wdacs.set n { t.wdacs[n] with
      queue := s.wdacs[n].queue, overflow := s.wdacs[n].overflow } }
  | .wdacTableWrite _ n _ => { t.accessBooksOf s with wdacs := t.wdacs.set n { t.wdacs[n] with
      table := s.wdacs[n].table, tblAddr := s.wdacs[n].tblAddr } }
  | .wdacCntClear _ n _ => { t.accessBooksOf s with wdacs := t.wdacs.set n { t.wdacs[n] with
      underrun := s.wdacs[n].underrun, overflow := s.wdacs[n].overflow, startMiss := s.wdacs[n].startMiss
      startLate := s.wdacs[n].startLate } }
  | .wdacTakeover _ _ => t.jobsOf s
  | .wdacGiveback n => (t.booksOf s).wdacOf s n
  | .wdacStartEvent n => { (t.booksOf s).wdacOf s n with wdacWaits := s.wdacWaits }
  | .wdacTick n => { (t.booksOf s).wdacOf s n with wdacWaits := s.wdacWaits, cal := { t.cal with jobs := s.cal.jobs } }
  | .wdacStaticApply n => { t with wdacs := t.wdacs.set n { t.wdacs[n] with last := s.wdacs[n].last, lag := s.wdacs[n].lag } }
  | .wdacQueueWrite _ _ _ _ =>
    let wdacs : Vector Wdac 8 := Vector.ofFn fun n => { t.wdacs[n] with queue := s.wdacs[n].queue }
    { t.commandBooksOf s with wdacs := wdacs }
  | .wdacTableLoad _ _ _ _ _ =>
    let wdacs : Vector Wdac 8 := Vector.ofFn fun n => { t.wdacs[n] with table := s.wdacs[n].table }
    { t.commandBooksOf s with wdacs := wdacs }
  | .wdacControl _ mask _ =>
    let wdacs : Vector Wdac 8 := Vector.ofFn fun n => if testBit mask n.val then s.wdacs[n] else t.wdacs[n]
    { t.commandBooksOf s with wdacs := wdacs, wdacWaits := s.wdacWaits }
  | _ => s

/-- What the commands of calibration may write (08), put back. -/
def frameCalibration (t s : State) : Instr → State
  | .calNoticeExpiry _ | .calOutageEnd _ _ _ | .calGapStepStart _ | .calGapStepEnd _ _ _ | .calSysTimeout _ | .calCoefTakeEffect =>
    let slots (b : Fin 9) : Vector Slot 8 := Vector.ofFn fun (k : Fin 8) =>
      { t.abays[b].slots[k] with masked := s.abays[b].slots[k].masked }
    let abays : Vector ABay 9 := Vector.ofFn fun b => { t.abays[b] with slots := slots b }
    { t.jobsOf s with abays := abays }
  | .calCoefDataWrite p _ =>
    { t.accessBooksOf s with cal := { t.cal with windows := t.cal.windows.set p s.cal.windows[p] } }
  | .calCoefApply _ _ => { t.accessBooksOf s with cal := { t.cal with pending := s.cal.pending } }
  | .calRun _ _ _ _ _ _ => { t.commandBooksOf s with cal := { t.cal with jobs := s.cal.jobs, events := s.cal.events } }
  | .calSysPoint _ _ _ _ => { t.commandBooksOf s with cal := { t.cal with jobs := s.cal.jobs } }
  | .calAbort _ _ _ => (t.commandBooksOf s).jobsOf s
  | .calCoefGet _ _ _ => t.commandBooksOf s
  | .calCoefSet _ _ | .calCoefNeutral _ _ _ => { t.commandBooksOf s with cal := { t.cal with pending := s.cal.pending } }
  | _ => s

/-- What the commands of the lintel crossbar and the bay resets may write (09), put back. -/
def frameFabric (t s : State) : Instr → State
  | .linStageWrite _ _ _ | .linCommit _ | .linDiscard _ => { t.accessBooksOf s with lin := s.lin }
  | .linRouteSet _ _ _ _ => { t.commandBooksOf s with lin := s.lin }
  | .linRouteGet _ _ _ => t.commandBooksOf s
  | .linCommitApply => { t.booksOf s with lin := s.lin }
  | .bayResetAssert i =>
    { t.tearsOf s with
      adcs := s.adcs
      abays := match (fin i.val : Option (Fin 9)) with | some a => t.abays.set a s.abays[a] | none => t.abays
      dbays := match (fin (i.val - 9) : Option (Fin 18)) with | some d => t.dbays.set d s.dbays[d] | none => t.dbays }
  | .bayResetRelease i =>
    let bay (b : ABay) (c : ABay) : ABay := { b with inReset := c.inReset }
    let dbay (b : DBay) (c : DBay) : DBay := { b with gsrReset := c.gsrReset }
    { t with
      abays := match (fin i.val : Option (Fin 9)) with | some a => t.abays.set a (bay t.abays[a] s.abays[a]) | none => t.abays
      dbays := match (fin (i.val - 9) : Option (Fin 18)) with
        | some d => t.dbays.set d (dbay t.dbays[d] s.dbays[d])
        | none => t.dbays }
  | _ => s

/-- `t` with one block of a bay, its latched events and its bytes put back. -/
def State.blockOf (t s : State) (d : Fin 18) (m : Fin 4) : State :=
  { t with
    mem := s.mem
    dbays := t.dbays.set d { t.dbays[d] with mems := t.dbays[d].mems.set m s.dbays[d].mems[m], memEvents := s.dbays[d].memEvents } }

/-- What the commands of memory blocks, I/O cells and the probe bus may write (10), put back; `storesAt` says which bytes of
memory they store to. -/
def frameMemory (t s : State) : Instr → State
  | .memoryPortRead d m _ _ _ | .memoryPortWrite d m _ _ | .memScrubWord d m _ | .fifoPush d m _ _ => (t.blockOf s d m).booksOf s
  | .fifoPop d m => { (t.blockOf s d m).booksOf s with mem := t.mem }
  | .lookbackRequest d m _ _ | .lookbackDeferredEval d m =>
    let b : MemBlock := { t.dbays[d].mems[m] with
      running := s.dbays[d].mems[m].running, waiting := s.dbays[d].mems[m].waiting, rejectNext := s.dbays[d].mems[m].rejectNext
      lbReject := s.dbays[d].mems[m].lbReject }
    { t with dbays := t.dbays.set d { t.dbays[d] with mems := t.dbays[d].mems.set m b } }
  | .memSettingsApply d m => { t.blockOf s d m with mem := t.mem }
  | .memWindowAccess _ d m _ none => { (t.blockOf s d m).booksOf s with mem := t.mem, acc := s.acc }
  | .memWindowAccess _ d m _ (some _) => (t.blockOf s d m).accessBooksOf s
  | .dbayMemClear _ d _ =>
    let clear (b c : MemBlock) : MemBlock := { b with
      corr := c.corr, uncorr := c.uncorr, overflow := c.overflow, underflow := c.underflow, collide := c.collide
      lbReject := c.lbReject }
    let mems : Vector MemBlock 4 := Vector.ofFn fun m => clear t.dbays[d].mems[m] s.dbays[d].mems[m]
    { t.accessBooksOf s with dbays := t.dbays.set d { t.dbays[d] with mems := mems } }
  | .ioCellApply i => { t with io := t.io.set i { t.io[i] with ctrlNow := s.io[i].ctrlNow } }
  | .peepholeApply d k => { t with dbays := t.dbays.set d { t.dbays[d] with
      peepNow := t.dbays[d].peepNow.set k s.dbays[d].peepNow[k] } }
  | .prbCapCtrlArm _ _ => { t.accessBooksOf s with prb := { t.prb with
      trig := s.prb.trig, pre := s.prb.pre, data := s.prb.data, state := s.prb.state } }
  | .prbCaptureTrigger => { t with prb := { t.prb with
      data := s.prb.data, trigEt := s.prb.trigEt, state := s.prb.state } }
  | .prbCaptureComplete => { t.booksOf s with prb := { t.prb with
      data := s.prb.data, state := s.prb.state, events := s.prb.events } }
  | .prbSelect _ _ _ _ _ _ =>
    let dbays : Vector DBay 18 := Vector.ofFn fun d => { t.dbays[d] with peep := s.dbays[d].peep }
    { t.commandBooksOf s with prb := { t.prb with sel := s.prb.sel }, dbays := dbays }
  | .prbCaptureArm _ _ _ _ _ _ => { t.commandBooksOf s with prb := { t.prb with
      trig := s.prb.trig, pre := s.prb.pre, pattern := s.prb.pattern, mask := s.prb.mask, et := s.prb.et
      data := s.prb.data, state := s.prb.state } }
  | .prbCaptureRead _ _ _ => t.commandBooksOf s
  | .prbAuxSet _ _ => { t.commandBooksOf s with prb := { t.prb with aux := s.prb.aux } }
  | _ => s

/-- The command may store to this byte of the memory blocks: the word it writes, or, where it takes a bay's domain out of ON,
or into it, any byte of that bay (R184). The address is the one the meaning computes. -/
def storesAt (s : State) (a : Nat) : Instr → Bool
  | .memoryPortWrite d m wa wb => [wa, wb].any fun w =>
      match w with
      | some x => inWord d m (entryAt s.dbays[d].mems[m].shape x.1.toNat).1
      | none => false
  | .memoryPortRead d m _ e _ => inWord d m (entryAt s.dbays[d].mems[m].shape e.toNat).1
  | .memScrubWord d m _ => inWord d m s.dbays[d].mems[m].scrubPos
  | .fifoPush d m _ _ =>
    let b := s.dbays[d].mems[m]
    inWord d m (entryAt b.shape ((b.head + b.level) % entries b.shape)).1
  | .memWindowAccess _ d m k (some _) => inWord d m k.toNat
  | .registerWrite _ addr _ | .regModify _ addr _ _ => addr.toNat ≤ a && a < addr.toNat + 4
  | .regWrite _ addr _ words => addr.toNat ≤ a && a < addr.toNat + 4 * words.length
  | .domainDrainStart i | .domainIsolationRelease i | .monitorTrip i _ _ => 9 ≤ i.val && inBay (i.val - 9)
  | .pwrReset _ _ _ | .presLHigh _ | .powerInputLoss _ | .hotStop _ => true
  | .repairMemCopyStep r =>
    match s.rep.slots[r] with
    | some x =>
      match dBay x.spare, copyTarget x.memCopy x.copyStep with
      | some d, some (m, k) => memAddr d m k ≤ a && a < memAddr d m k + 256
      | _, _ => false
    | none => false
  | _ => false
where
  inWord (d : Fin 18) (m : Fin 4) (k : Nat) : Bool := memAddr d m k ≤ a && a < memAddr d m k + 4
  inBay (d : Nat) : Bool := 0x100000 + d * 0x4000 ≤ a && a < 0x100000 + d * 0x4000 + 0x4000

/-- What the commands of bay images, configuration and scrubbing may write (11), put back. -/
def frameConfiguration (t s : State) : Instr → State
  | .cfgBufLapse => { t with cfg := { t.cfg with holder := s.cfg.holder, buf := s.cfg.buf, valid := s.cfg.valid } }
  | .cfgLoadStart | .cfgFrameWrite _ | .cfgLoadFinish => t.repairsOf s
  | .cfgStoreCommit _ => { t.booksOf s with
      cfg := { t.cfg with slots := s.cfg.slots, areas := s.cfg.areas, job := s.cfg.job }
      pwr := { t.pwr with underway := s.pwr.underway } }
  | .storeAreaErase a _ => { t.booksOf s with
      cfg := { t.cfg with areas := t.cfg.areas.set a s.cfg.areas[a] }, pwr := { t.pwr with underway := s.pwr.underway } }
  | .scrubFrameVisit _ => { t.booksOf s with
      dbays := s.dbays, cfg := { t.cfg with scrubPos := s.cfg.scrubPos, pass := s.cfg.pass } }
  | .faultActionApply d => { t.tearsOf s with dbays := t.dbays.set d { t.dbays[d] with
      gsrHold := s.dbays[d].gsrHold, mems := s.dbays[d].mems } }
  | .cfgBufOpen _ | .cfgBufClose _ _ => { t.commandBooksOf s with cfg := { t.cfg with
      holder := s.cfg.holder, buf := s.cfg.buf, valid := s.cfg.valid } }
  | .cfgBufWrite _ _ _ _ => { t.commandBooksOf s with cfg := { t.cfg with buf := s.cfg.buf } }
  | .cfgLoad _ _ _ => { t.commandBooksOf s with cfg := { t.cfg with queue := s.cfg.queue } }
  | .cfgStoreSave _ _ | .cfgStoreErase _ _ => { t.commandBooksOf s with cfg := { t.cfg with job := s.cfg.job } }
  | .cfgStoreInfo _ _ | .cfgStatusGet _ _ => t.commandBooksOf s
  | _ => s

/-- What the commands of in-service repair may write (12), put back; `storesAt` says which bytes MEM_COPY stores to. -/
def frameRepair (t s : State) : Instr → State
  | .recallNoticeExpiry _ => { t.repairsOf s with part := { t.part with changes := s.part.changes } }
  | .repairSparePrepared _ => t.repairsOf s
  | .repairMemCopyStep r => { t.booksOf s with
      dbays := s.dbays, mem := s.mem, rep := { t.rep with slots := t.rep.slots.set r s.rep.slots[r] } }
  | .repairWarmupEnd r => { t with rep := { t.rep with slots := t.rep.slots.set r s.rep.slots[r] } }
  | .repairCompareWindowEnd r => { t.booksOf s with rep := { t.rep with
      slots := t.rep.slots.set r s.rep.slots[r], events := s.rep.events } }
  | .repairCutoverBoundary r => { t.booksOf s with
      abays := s.abays, adcs := s.adcs, cal := s.cal, groups := s.groups, xbar := s.xbar, lin := s.lin, arb := s.arb
      part := { t.part with changes := s.part.changes }
      rep := { t.rep with slots := t.rep.slots.set r s.rep.slots[r], events := s.rep.events } }
  | .repairUnwarmEnd r => { t with rep := { t.rep with
      slots := t.rep.slots.set r s.rep.slots[r], ended := t.rep.ended.set r s.rep.ended[r] } }
  | .repairRetireComplete _ => t.repairsOf s
  | .repairStart _ _ _ _ _ _ _ _ _ _ _ _ _ | .repairAbort _ _ => (t.commandBooksOf s).repairsOf s
  | .repairCutover _ _ _ => { t.commandBooksOf s with rep := { t.rep with slots := s.rep.slots } }
  | .repairLend _ _ _ _ => { t.commandBooksOf s with part := { (t.commandBooksOf s).part with changes := s.part.changes } }
  | .repairReturn _ _ _ => { t.commandBooksOf s with
      part := { (t.commandBooksOf s).part with changes := s.part.changes }
      rep := { t.rep with retired := s.rep.retired, spares := s.rep.spares } }
  | .repairStatusGet _ _ => t.commandBooksOf s
  | _ => s

/-- What the commands of the Franum links may write (13), put back. -/
def frameLinks (t s : State) : Instr → State
  | .lnkCtrlEnWrite _ p _ =>
    let ports : Vector Port 4 := Vector.ofFn fun q => { t.ports[q] with enabling := s.ports[q].enabling }
    { t.accessBooksOf s with ports := ports.set p s.ports[p] }
  | .lnkTxApply p => { t with ports := t.ports.set p { t.ports[p] with
      swingNow := s.ports[p].swingNow, emphNow := s.ports[p].emphNow } }
  | .linkSynthSettled p | .trainingBlockReceived p _ _ _ | .linkExchangeDone p _ | .linkLevelDone p | .lockLossDetect p _
  | .lockRestore p _ _ | .linkDownTimeout p => (t.portOf s p).booksOf s
  | .linkSeekDone p | .linkDeskewDone p => { t with
      ports := t.ports.set p { t.ports[p] with state := s.ports[p].state, lanes := s.ports[p].lanes }, freeCtr := s.freeCtr }
  | .refusalCleared p => { t with ports := t.ports.set p { t.ports[p] with
      state := s.ports[p].state, cause := s.ports[p].cause, samples := s.ports[p].samples, block := s.ports[p].block
      badBlocks := s.ports[p].badBlocks } }
  | .segmentDeparture p =>
    let lanes : Vector Lane 4 := Vector.ofFn fun l => { t.ports[p].lanes[l] with disparity := s.ports[p].lanes[l].disparity }
    let x : Port := { t.ports[p] with
      mark := s.ports[p].mark, txFlit := s.ports[p].txFlit, txSeg := s.ports[p].txSeg, txSuper := s.ports[p].txSuper
      txTrain := s.ports[p].txTrain, txLanes := s.ports[p].txLanes, lanes := lanes }
    { t with freeCtr := s.freeCtr, ports := t.ports.set p x }
  | .segmentDelivery p _ _ =>
    let x : Port := { t.ports[p] with
      rxSeg := s.ports[p].rxSeg, rxValid := s.ports[p].rxValid, rxSync := s.ports[p].rxSync, rxGap := s.ports[p].rxGap
      segCrc := s.ports[p].segCrc, codeErr := s.ports[p].codeErr }
    { t.booksOf s with ports := t.ports.set p x }
  | .lnkPartnerGet _ => t.commandBooksOf s
  | .lnkEnable _ _ _ | .lnkRetrain _ _ | .lnkLatAck _ _ => { t.commandBooksOf s with ports := s.ports }
  | _ => s

/-- What the commands of the reliable channel may write (14), put back. -/
def frameChannel (t s : State) : Instr → State
  | .flitChoice p _ => { t.booksOf s with ports := t.ports.set p s.ports[p] }
  | .flitArrival p _ => { t.booksOf s with ports := t.ports.set p s.ports[p] }
  | .flitDelivery p _ => { t.booksOf s with ports := t.ports.set p s.ports[p], keeperIn := s.keeperIn }
  | .replayTimerExpiry p _ _ => { t.booksOf s with ports := t.ports.set p s.ports[p] }
  | .forwardingMove _ _ => { t.booksOf s with ports := s.ports, arb := { t.arb with
      reqs := s.arb.reqs, holder := s.arb.holder, next := s.arb.next, lastHolder := s.arb.lastHolder
      stampCount := s.arb.stampCount, events := s.arb.events } }
  | .lnkRcCntClear _ p _ => { t.accessBooksOf s with ports := t.ports.set p s.ports[p] }
  | .lnkRouteSet _ _ _ _ => { t.commandBooksOf s with routes := s.routes }
  | .lnkRcStatusGet _ _ => t.commandBooksOf s
  | _ => s

/-- What the commands of the spine and the arbiter may write (15), put back. -/
def frameArbiter (t s : State) : Instr → State
  | .arbRequestRaise _ _ _ _ _ => { t.booksOf s with
      arb := { t.arb with reqs := s.arb.reqs, stampCount := s.arb.stampCount, events := s.arb.events }
      rep := { t.rep with slots := s.rep.slots, events := s.rep.events } }
  | .readoutRestamp k _ =>
    let k : Fin 32 := ⟨k.val, by omega⟩
    { t with arb := { t.arb with reqs := t.arb.reqs.set k s.arb.reqs[k], stampCount := s.arb.stampCount } }
  | .arbRestamp _ _ => { t.accessBooksOf s with arb := { t.arb with reqs := s.arb.reqs, stampCount := s.arb.stampCount } }
  | .arbDecision => { t.booksOf s with ports := s.ports, arb := { t.arb with
      reqs := s.arb.reqs, holder := s.arb.holder, next := s.arb.next, lastHolder := s.arb.lastHolder, events := s.arb.events } }
  | .arbTear _ _ _ => { t.booksOf s with
      ports := s.ports, rep := { t.rep with slots := s.rep.slots }
      arb := { t.arb with
        reqs := s.arb.reqs, holder := s.arb.holder, next := s.arb.next, cut := s.arb.cut, lastHolder := s.arb.lastHolder
        events := s.arb.events } }
  | .arbCommit _ _ _ => { t.booksOf s with ports := s.ports, arb := s.arb, rep := { t.rep with slots := s.rep.slots, events := s.rep.events } }
  | .arbCntClear _ _ => { t.accessBooksOf s with arb := { t.arb with reqs := s.arb.reqs } }
  | .orqClear _ _ =>
    let ports : Vector Port 4 := Vector.ofFn fun p => { t.ports[p] with
      peakReq := s.ports[p].peakReq, peakRsp := s.ports[p].peakRsp }
    { t.accessBooksOf s with ports := ports }
  | _ => s

/-- `u` with what the write of a register may write beside the books of the access put back as in `s`: only its own block,
and what SASH and LNK registers reach beyond it. -/
def Reg.blockOf (u s : State) : Reg → State
  | .kpr _ => { u with node := s.node }
  | .inj _ | .ldg _ => u
  | .clk _ => { u with clk := s.clk }
  | .pwr _ => { u with pwr := { u.pwr with peak := s.pwr.peak } }
  | .sash _ => { u with sash := s.sash, pwr := { (u.domOf s 31).pwr with served := s.pwr.served } }
  | .part _ => { u with part := { u.part with events := s.part.events } }
  | .key _ => { u with keys := { u.keys with events := s.keys.events } }
  | .fw _ => { u with fw := { u.fw with confirmTime := s.fw.confirmTime, events := s.fw.events } }
  | .can _ => { u with can := s.can }
  | .prb _ => { u with prb := s.prb }
  | .arb _ => { u with arb := s.arb }
  | .orq _ | .lnk _ _ => { u with ports := s.ports }
  | .cal _ => { u with cal := s.cal }
  | .rep _ => { u with rep := { u.rep with events := s.rep.events } }
  | .rc p _ => u.portOf s p
  | .route _ => { u with routes := s.routes }
  | .abay a _ => { u with abays := u.abays.set a s.abays[a] }
  | .adc n _ => { u with adcs := u.adcs.set n s.adcs[n] }
  | .xbar _ => { u with xbar := s.xbar }
  | .conv _ => { u with timers := s.timers, groups := s.groups, tmrEvents := s.tmrEvents }
  | .wdac n _ => { u with wdacs := u.wdacs.set n s.wdacs[n] }
  | .cfg d _ | .mem d _ => { u with dbays := u.dbays.set d s.dbays[d] }
  | .lin _ => { u with lin := s.lin }
  | .io _ => { u with io := s.io }

/-- `t` with what one register access at an address may write put back. -/
def accessOf (t s : State) (addr : Nat) : State :=
  match targetAt addr with
  | none => t.accessBooksOf s
  | some (.window d _ _) => { t.accessBooksOf s with mem := s.mem, dbays := t.dbays.set d s.dbays[d] }
  | some (.reg r) => r.blockOf (t.accessBooksOf s) s

/-- What the commands of the host's registers, results and events may write (16), put back. -/
def frameHost (t s : State) : Instr → State
  | .registerWrite _ addr _ | .wideFieldLowWrite _ addr _ | .wideFieldHighWrite _ addr _ | .latchedEventClear _ addr _ _ =>
    accessOf t s addr.toNat
  | .wideFieldSnapshotRead _ _ => { t with acc := s.acc, snaps := s.snaps, freeCtr := s.freeCtr }
  | .ledgerRerunDone _ _ => { t.commandBooksOf s with part := s.part, keys := s.keys, fw := s.fw, cfg := s.cfg }
  | .ping _ _ | .resultGet _ _ | .resultRelease _ _ _ _ | .ldgStatusGet _ | .evtSubscribe _ _ _ | .evtLogRead _ _ _ =>
    t.commandBooksOf s
  | .ledgerSegmentErase _ _ => { t.booksOf s with pwr := { t.pwr with underway := s.pwr.underway } }
  | .regRead _ _ _ => { t.commandBooksOf s with snaps := s.snaps, dbays := s.dbays }
  | .regWrite _ _ _ _ | .regModify _ _ _ _ =>
    { ((t.commandBooksOf s).accessBooksOf s).unitsOf s with
      clk := s.clk, node := s.node, prb := s.prb, io := s.io, timers := s.timers, groups := s.groups, tmrEvents := s.tmrEvents
      routes := s.routes, can := s.can, keys := { (t.commandBooksOf s).keys with events := s.keys.events }, fw := { t.fw with confirmTime := s.fw.confirmTime, events := s.fw.events }, snaps := s.snaps
      pwr := { ((t.commandBooksOf s).domOf s 31).pwr with peak := s.pwr.peak, served := s.pwr.served } }
  | _ => s

/-- `t` with what the end of a drain may write put back: the table, loans, staged routes, and a repair that waited for it. -/
def State.drainsOf (t s : State) : State :=
  { t.repairsOf s with part := { t.part with
      own := s.part.own, drains := s.part.drains, events := s.part.events, tableBlock := s.part.tableBlock
      tableWrites := s.part.tableWrites } }

/-- What the commands of partitions and keys may write (17), put back. -/
def framePartition (t s : State) : Instr → State
  | .keyLeaseExpiry p _ => { t with keys := { t.keys with
      slots := t.keys.slots.set p s.keys.slots[p], blocks := s.keys.blocks } }
  | .ownershipRecordCommit => { t.booksOf s with
      rep := { t.rep with loans := s.rep.loans }
      part := { t.part with
        epoch := s.part.epoch, own := s.part.own, loss := s.part.loss, changes := s.part.changes, drains := s.part.drains
        events := s.part.events, tableBlock := s.part.tableBlock, tableWrites := s.part.tableWrites }
      pwr := { t.pwr with underway := s.pwr.underway } }
  | .revocationDrained => t.drainsOf s
  | .drainLimitExpiry => { t.drainsOf s with
      unstarted := s.unstarted, adcStarts := s.adcStarts
      pwr := { (t.drainsOf s).pwr with served := s.pwr.served } }
  | .keyRecordCommit => { t.booksOf s with keys := s.keys, pwr := { t.pwr with underway := s.pwr.underway } }
  | .partGrant _ _ _ _ | .partRevoke _ _ _ _ _ => { t.commandBooksOf s with
      part := { (t.commandBooksOf s).part with changes := s.part.changes } }
  | .partTableGet _ _ _ | .keyStatusGet _ _ => t.commandBooksOf s
  | .keyWrite _ _ _ _ _ | .keyErase _ _ => { t.commandBooksOf s with keys := { (t.commandBooksOf s).keys with jobs := s.keys.jobs } }
  | .partQuotaSet _ _ _ _ _ => { t.commandBooksOf s with
      part := { (t.commandBooksOf s).part with
        quota := s.part.quota, tableBlock := s.part.tableBlock, tableWrites := s.part.tableWrites } }
  | _ => s

/-- `t` with what the controller's error counting writes put back (R351). -/
def Can.errorsOf (t c : Can) : Can :=
  { t with tec := c.tec, started := c.started, errPassive := c.errPassive, busOff := c.busOff, busOffs := c.busOffs, attempts := c.attempts }

/-- `t` with what an acknowledged frame writes put back (R352). -/
def Can.ackedOf (t c : Can) : Can := { t.errorsOf c with txFrames := c.txFrames, alone := c.alone, events := c.events, sent := c.sent }

/-- What the commands of the slow-control bus may write (18), put back. -/
def frameCan (t s : State) : Instr → State
  | .canFrameReceive _ _ => { t.booksOf s with keeperIn := s.keeperIn, can := { (t.booksOf s).can with
      alone := s.can.alone, errPassive := s.can.errPassive, busOff := s.can.busOff, busOffs := s.can.busOffs, recErr := s.can.recErr, started := s.can.started, rxFrames := s.can.rxFrames, rx := s.can.rx, segErr := s.can.segErr
      dup := s.can.dup, events := s.can.events } }
  | .canReassemblyTimeout _ => { t with can := { t.can with rx := s.can.rx, segErr := s.can.segErr } }
  | .canFrameSent => { t.booksOf s with can := { (t.booksOf s).can.ackedOf s.can with frame := s.can.frame } }
  | .canTransmitError _ => { t with can := t.can.errorsOf s.can }
  | .canFrameAbandon => { t.booksOf s with can := { (t.booksOf s).can with
      frame := s.can.frame, started := s.can.started, attempts := s.can.attempts, alone := s.can.alone, abandoned := s.can.abandoned
      events := s.can.events } }
  | .canAloneAnnounce _ => { t.booksOf s with can := (t.booksOf s).can.ackedOf s.can }
  | .canDupAnnounce => { t with can := { t.can with txq := s.can.txq, waiting := s.can.waiting } }
  | .canBusOffRecovery => { t.booksOf s with can := { (t.booksOf s).can.errorsOf s.can with
      recErr := s.can.recErr, events := s.can.events } }
  | .canCtrlApply => { t with can := { t.can with enNow := s.can.enNow, termNow := s.can.termNow, brsNow := s.can.brsNow, started := s.can.started } }
  | .canCntClear _ _ => { t.accessBooksOf s with can := { (t.accessBooksOf s).can with
      txFrames := s.can.txFrames, rxFrames := s.can.rxFrames, segErr := s.can.segErr, dropped := s.can.dropped
      abandoned := s.can.abandoned, discarded := s.can.discarded } }
  | .discover _ => { t.commandBooksOf s with can := { (t.commandBooksOf s).can with delayed := s.can.delayed } }
  | .discoverDelayedResponse => { t with keeperOut := s.keeperOut, can := { t.can with
      delayed := s.can.delayed, txq := s.can.txq, waiting := s.can.waiting } }
  | _ => s

/-- What the commands of the keeper's firmware may write (19), put back. -/
def frameFirmware (t s : State) : Instr → State
  | .fwEraseComplete _ => { t.booksOf s with fw := { t.fw with
      slots := s.fw.slots, erasing := s.fw.erasing, events := s.fw.events } }
  | .fwVerifyComplete => { t.booksOf s with fw := { t.fw with slots := s.fw.slots, verifying := s.fw.verifying } }
  | .fwConfirmTick => { t with fw := { t.fw with confirmLeft := s.fw.confirmLeft } }
  | .fwSwitchRestart | .fwConfirmExpiry | .fwTrialBootTimeout => t.restartOf s
  | .fwInfoGet _ => t.commandBooksOf s
  | .fwWriteBegin _ _ _ => { t.commandBooksOf s with fw := { t.fw with slots := s.fw.slots, erasing := s.fw.erasing } }
  | .fwWrite _ _ _ _ _ => { t.commandBooksOf s with fw := { t.fw with slots := s.fw.slots, events := s.fw.events } }
  | .fwVerify _ _ => { t.commandBooksOf s with fw := { t.fw with verifying := s.fw.verifying } }
  | .fwSwitch _ _ _ => { t.commandBooksOf s with fw := { t.fw with switching := s.fw.switching } }
  | .fwConfirm _ => { t.commandBooksOf s with fw := { t.fw with
      trial := s.fw.trial, tries := s.fw.tries, confirmLeft := s.fw.confirmLeft, floor := s.fw.floor, events := s.fw.events } }
  | _ => s

/-- What the commands of identity and injection may write (20), put back. -/
def frameInject (t s : State) : Instr → State
  | .injectTimeout _ | .injectWindowExpiry => t.booksOf s
  | .injectedConditionRelease _ => { t.booksOf s with pwr := { t.pwr with
      warn := s.pwr.warn, nvwDefer := s.pwr.nvwDefer, underway := s.pwr.underway, events := s.pwr.events } }
  | .idGet _ | .injectEnable _ _ _ => t.commandBooksOf s
  | .inject _ det _ _ _ => if det = 0x200 then (t.commandBooksOf s).restartOf s else t.commandBooksOf s
  | _ => s

/-! ### Command packets -/

/-- The header of a Darem command; the other commands come in no packet. -/
def header? : Instr → Option Header
  | .timeGet h | .pwrStatusGet h | .pwrRestart h | .sashInfoGet h | .sashLifeGet h | .cfgBufOpen h | .lnkPartnerGet h
  | .ldgStatusGet h | .discover h | .fwInfoGet h | .fwConfirm h | .idGet h => some h
  | .syncNow h _ | .pwrSuspectAck h _ | .pwrTripClear h _ | .sashExpectSet h _ | .adcStart h _ | .adcUrgent h _
  | .adcStatusGet h _ | .calCoefSet h _ | .prbAuxSet h _ | .cfgBufClose h _ | .cfgStoreSave h _ | .cfgStoreErase h _
  | .cfgStoreInfo h _ | .cfgStatusGet h _ | .repairAbort h _ | .repairStatusGet h _ | .lnkRetrain h _
  | .lnkLatAck h _ | .lnkRcStatusGet h _ | .ping h _ | .resultGet h _ | .keyErase h _ | .keyStatusGet h _
  | .fwVerify h _ => some h
  | .pwrDomainSet h _ _ | .pwrReset h _ _ | .adcResultPeek h _ _ | .wdacControl h _ _ | .calAbort h _ _
  | .calCoefGet h _ _ | .calCoefNeutral h _ _ | .linRouteGet h _ _ | .prbCaptureRead h _ _ | .cfgLoad h _ _
  | .repairCutover h _ _ | .repairReturn h _ _ | .lnkEnable h _ _ | .regRead h _ _ | .evtSubscribe h _ _
  | .evtLogRead h _ _ | .partTableGet h _ _ | .fwWriteBegin h _ _ | .fwSwitch h _ _ | .injectEnable h _ _ => some h
  | .syncArm h _ _ _ | .gapSet h _ _ _ | .adcResultPop h _ _ _ | .wdacQueueWrite h _ _ _ | .calSysPoint h _ _ _
  | .linRouteSet h _ _ _ | .cfgBufWrite h _ _ _ | .repairLend h _ _ _ | .lnkRouteSet h _ _ _ | .regWrite h _ _ _
  | .regModify h _ _ _ | .resultRelease h _ _ _ | .partGrant h _ _ _ => some h
  | .wdacTableLoad h _ _ _ _ | .partRevoke h _ _ _ _ | .keyWrite h _ _ _ _ | .partQuotaSet h _ _ _ _
  | .fwWrite h _ _ _ _ | .inject h _ _ _ _ => some h
  | .sashBiasSet h _ _ _ _ _ | .adcGroupSet h _ _ _ _ _ | .tmrSet h _ _ _ _ _ | .calRun h _ _ _ _ _
  | .prbSelect h _ _ _ _ _ | .prbCaptureArm h _ _ _ _ _ => some h
  | .repairStart h _ _ _ _ _ _ _ _ _ _ _ _ => some h
  | _ => none

/-- The lists that a command carries have the sizes of its packet's fields, and the MAC is there when AUTH is set. -/
def spellable (i : Instr) (h : Header) : Bool :=
  h.mac.length == (if h.auth then 16 else 0) &&
  (match i with
    | .keyWrite _ _ _ wrapped _ => wrapped.length == 32
    | .fwWriteBegin _ _ header => header.length == 256
    | _ => true)

end Sys2Proof.Machine
end

