-- ==== Sys2Proof/Certificates/Slice0/Obligations.lean ====
section
/-!
DEFINITION. The statements for the provers, chapter by chapter: what each command completes with, what it leaves alone, and what
holds of the block as a whole.
-/
open Sys2Proof Sys2Proof.Machine

/-! ### 01 One clock -/

/-- Each command of the clock (R12 to R32) completes: the reference and the PLL, SYNC and SYNC_NOW, the gap state and its
source, the two registers with a row of their own, and the commands of group 0xFx. Model's choices: LOCK falls with the
reference (log 41), a waiting SYNC is dropped by a change of SRC or MODE (log 113), the gap counter saturates (log 112), a
CHECK-mode SYNC judges ET_SUSPECT each time and ET_SLIP carries the difference modulo 2^48 (logs 72, 153), reserved bits in a
response are 0 (log 152). -/
def Obligations.ClockCompletes : Prop :=
  (∀ s : State, s.hw = true → s.clk.refPresent = true →
    Reaches (.referenceLossDetect true) s (s.holdBrs.onClk fun x => { x with
      freewheel := true, etSuspect := true, lock := false, qualified := false, refPresent := false
      freewheelCnt := if x.freewheel then x.freewheelCnt else satInc x.freewheelCnt, events := setBit x.events 0 })) ∧
  (∀ s : State, s.hw = true → s.clk.refPresent = false →
    exec .referenceReturn s = .next (s.onClk fun x => { x with refPresent := true, qualified := false })) ∧
  (∀ s : State, s.hw = true → s.clk.refPresent = true → s.clk.ferr.toInt.natAbs ≤ 500 →
    exec .referenceQualified s = .next (s.onClk fun x => { x with qualified := true })) ∧
  (∀ s : State, s.hw = true → s.clk.qualified = true → s.clk.lock = false →
    ∃ t, exec .pllLockAchieved s = .next t ∧
      t.clk = { s.clk with lock := true, freewheel := false, events := setBit s.clk.events 1 } ∧
      ∀ p : Fin 4, s.ports[p].state ≠ .disabled → t.ports[p].state = .settle) ∧
  (∀ (s : State) (ppm : Half), s.hw = true → s.clk.refPresent = true → ppm.toInt.natAbs ≤ 500 →
    exec (.refFerrMeasure ppm) s = .next (s.onClk fun x => { x with ferr := ppm })) ∧
  (∀ s : State, s.hw = true → s.clk.syncSrc = 1 → s.clk.syncArmed = true → s.clk.syncSeen = false → s.clk.syncPinWas = false →
    s.clk.freewheel = false →
    exec (.syncDetect true) s = .next (s.onClk fun x => { x with syncPin := true, syncSeen := true, syncDue := true, syncCk := s.ck })) ∧
  (∀ (s : State) (p : Fin 4) (pin : Bool), s.hw = true → s.clk.syncSrc = BitVec.ofNat 3 (2 + p.val) → s.clk.syncArmed = true →
    s.clk.syncSeen = false → s.ports[p].rxValid = true → s.ports[p].rxSync = true → s.ports[p].rxSyncWas = false →
    s.clk.freewheel = false →
    exec (.syncDetect pin) s = .next (s.onClk fun x => { x with syncPin := pin, syncSeen := true, syncDue := true, syncCk := s.ck })) ∧
  (∀ s : State, s.hw = true → s.clk.syncDue = true → s.clk.syncCk < s.ck → s.clk.syncArmed = true → s.clk.freewheel = false →
    s.clk.syncNow = [] → s.clk.syncMode ≠ 2 →
    Reaches .syncBoundaryAction s ((s.frameSamples.jumpEt (aligned s.clk.syncValue - s.clk.et)).onClk fun x => { x with
      et := x.syncValue &&& 0xFFFFFFFFFFF8, etSuspect := false, genCount := 0, loads := satInc x.loads, syncDue := false
      syncArmed := x.syncMode != 0, events := setBit x.events 2 })) ∧
  (∀ s : State, s.hw = true → s.clk.syncDue = true → s.clk.syncCk < s.ck → s.clk.syncArmed = true → s.clk.freewheel = false →
    s.clk.syncNow = [] → s.clk.syncMode = 2 → aligned s.clk.et = aligned s.clk.syncValue → s.armedOn 0x081 0 = none →
    exec .syncBoundaryAction s = .next (s.frameSamples.onClk fun x => { x with etSuspect := false, syncDue := false })) ∧
  (∀ s : State, s.hw = true → s.clk.syncDue = true → s.clk.syncCk < s.ck → s.clk.syncArmed = true → s.clk.freewheel = false →
    s.clk.syncNow = [] → s.clk.syncMode = 2 → aligned s.clk.et ≠ aligned s.clk.syncValue →
    Reaches .syncBoundaryAction s (s.frameSamples.onClk fun x => { x with
      etSuspect := true, syncDue := false, events := setBit x.events 3 })) ∧
  (∀ s : State, s.hw = true → s.clk.syncNow ≠ [] → s.clk.syncDue = true → s.clk.syncCk < s.ck → s.clk.syncArmed = true →
    s.clk.freewheel = false →
    Reaches .syncNowLoad s ((s.frameSamples.jumpEt (aligned s.clk.syncValue - s.clk.et)).onClk fun x => { x with
      et := x.syncValue &&& 0xFFFFFFFFFFF8, etSuspect := false, genCount := 0, loads := satInc x.loads, syncDue := false
      syncNow := [], syncArmed := x.syncMode != 0, events := setBit x.events 2 })) ∧
  (∀ s : State, s.hw = true → s.clk.syncNow ≠ [] → s.clk.syncDue = false → s.clk.freewheel = false →
    Reaches .syncNowLoad s ((s.frameSamples.jumpEt (aligned s.clk.syncValue - s.clk.et)).onClk fun x => { x with
      et := x.syncValue &&& 0xFFFFFFFFFFF8, etSuspect := false, genCount := 0, loads := satInc x.loads, syncNow := []
      events := setBit x.events 2 })) ∧
  (∀ (s : State) (pin : Bool), s.hw = true → s.clk.gap = false →
    (s.clk.gapActive = 1 ∧ pin = true ∨ (∃ p : Fin 4, s.clk.gapActive = BitVec.ofNat 3 (2 + p.val) ∧ s.gapBit p = true) ∨
      s.clk.gapActive = 6 ∧ s.clk.genInvalid = false ∧ s.clk.genCount.toNat < s.clk.genLength.toNat) →
    exec (.gapStateChange pin) s = .next (s.onClk fun x => { x with gap := true, gapStart := s.ck })) ∧
  (∀ (s : State) (pin : Bool), s.hw = true → s.clk.gap = true →
    (s.clk.gapActive = 0 ∨ s.clk.gapActive = 1 ∧ pin = false ∨
      (∃ p : Fin 4, s.clk.gapActive = BitVec.ofNat 3 (2 + p.val) ∧ s.gapBit p = false) ∨
      s.clk.gapActive = 6 ∧ (s.clk.genInvalid = true ∨ s.clk.genLength.toNat ≤ s.clk.genCount.toNat)) →
    ∃ t, exec (.gapStateChange pin) s = .next t ∧ t.clk.gap = false ∧ t.clk.lastLen = s.gapFrames ∧
      t.clk.minLen = (if s.gapFrames.toNat < s.clk.minLen.toNat then s.gapFrames else s.clk.minLen)) ∧
  (∀ s : State, s.hw = true → s.clk.gapSrc = 0 → s.clk.gapActive ≠ 0 → s.clk.gap = false →
    Reaches (.gapSourceApply false) s (s.onClk fun x => { x with gapActive := 0, events := setBit x.events 5 })) ∧
  (∀ s : State, s.hw = true → s.clk.genPend = true →
    exec .gapgenWriteApply s = .next (s.onClk fun x => { x with
      genPeriod := x.period, genLength := x.length, genCount := 0, genPend := false })) ∧
  (∀ (s : State) (v : Word), s.hw = true → syncOk (bits v 0 3).toNat (bits v 4 2).toNat = true → testBit v 8 = true →
    Writes (.clkSyncCtrlArm 0 v) 0 s (s.onClk fun x => { x with
      syncSrc := bits v 0 3, syncMode := bits v 4 2, syncArmed := true
      syncDue := x.syncDue && !(bits v 0 3 ≠ x.syncSrc || bits v 4 2 ≠ x.syncMode) })) ∧
  (∀ (s : State) (v : Word), s.hw = true → testBit v 0 = true →
    Writes (.clkGapClear 0 v) 0 s (s.onClk fun x => { x with minLen := 0xFFFF })) ∧
  (∀ (s : State) (h : Header), Turn s →
    Runs (.timeGet h) h s id fun s => done (le 6 s.clk.et ++ le 4 (clkStatus s.clk))) ∧
  (∀ (s : State) (h : Header) (src mode : Byte) (value : Et), Turn s → src.toNat ≤ 5 → mode.toNat ≤ 2 →
    Runs (.syncArm h src mode value) h s
      (fun s => s.onClk fun x => { x.setSync (bits src 0 3) (bits mode 0 2) true with syncValue := value })
      fun _ => done []) ∧
  (∀ (s : State) (h : Header) (value : Et), Turn s → s.clk.freewheel = false →
    Begins (.syncNow h value) h s fun s => s.onClk fun x => { x with
      syncValue := value, syncNow := x.syncNow ++ [refOf h] }) ∧
  (∀ (s : State) (h : Header) (src : Byte) (period length : Half), Turn s → src.toNat ≤ 6 →
    (src = 6 → genValid period length = true) →
    Runs (.gapSet h src period length) h s
      (fun s => s.onClk fun x => { x with gapSrc := bits src 0 3, period := period, length := length, genPend := true })
      fun _ => done [])

/-! ### 02 and 03 Presence, straps, power, heat and resets -/

/-- The moments of presence, power and heat complete (R41 to R72): inrush and power loss, the straps, the sequencer, the
monitors, the audit, the thermal levels, the keeper's boots and resets. Model's choices: how the audit
takes a domain on its way (log 21), the cause of the first power-on (log 48), at or strictly below a thermal level (log 104), the
eight differing readings (log 117), what is under way at the bar (log 120), the boot selector at the bar (log 144), the keeper's
silence as a moment (log 165), what RECOVERY leaves to the next firmware boot (log 174). -/
def Obligations.PowerMomentsComplete : Prop :=
  (∀ s : State, s.pwr.phase = .off → s.pwr.presLow = true →
    exec .inputPowerApplied s = .next (s.onPwr fun x => { x with inputGood := true, counting := true })) ∧
  (∀ s : State, s.pwr.phase = .off → s.pwr.inputGood = true →
    exec .presLLow s = .next (s.onPwr fun x => { x with presLow := true, counting := true })) ∧
  (∀ s : State, s.pwr.phase = .off → s.pwr.counting = true →
    exec .inrushCountExpiry s = .next (s.onPwr fun x => { x with phase := .closed, counting := false })) ∧
  (∀ (s : State) (ok : Bool), s.pwr.phase = .closed →
    ∃ t, exec (.presLHigh ok) s = .next t ∧ t.pwr.phase = .off ∧ t.pwr.presLow = false ∧ t.pwr.counting = false ∧
      t.pwr.lossSeen = true) ∧
  (∀ s : State, s.pwr.phase = .running → (∀ i : Fin 256, s.armedOn 0x1C0 (BitVec.ofFin i) = none) →
    ∃ t, exec (.powerInputLoss true) s = .next t ∧ t.pwr.phase = .holdUp ∧ t.ldg.snapshot.isSome = true ∧
      (∀ i : Fin 32, (t.dom i).state = .off) ∧ ∃ r, t.log.ring.getLast? = some r ∧ r.code = 0x29 ∧ r.et = s.clk.et) ∧
  (∀ s : State, s.pwr.phase = .running → s.part.changes = [] → s.keys.jobs = [] →
    ∃ t, exec (.powerInputLoss false) s = .next t ∧ t.pwr.phase = .holdUp ∧ t.ldg.snapshot = none) ∧
  (∀ s : State, s.pwr.phase = .holdUp →
    exec .holdUpEnd s = .next (s.onPwr fun x => { x with phase := .off, counting := x.inputGood && x.presLow })) ∧
  (∀ (s : State) (a b : Bool), s.pwr.phase = .closed → s.fw.trial = false →
    ∃ t, exec (.keeperResetRelease a b) s = .next t ∧ t.pwr.phase = .booting ∧ t.node = nodeReset ∧
      t.pwr.cause = (if s.pwr.lossSeen then 1 else 0) ∧ t.pwr.count = satInc s.pwr.count) ∧
  (∀ (s : State) (ga : BitVec 6) (ca : Byte), s.hw = true → s.node.sampling = true → s.node.count < 7 →
    ∃ t, exec (.strapReading ga ca) s = .next t ∧ t.node.count = s.node.count + 1 ∧
      t.node.addr = (if s.node.valid then s.node.addr else strapAddr ga ca)) ∧
  (∀ (s : State) (ga : BitVec 6) (ca : Byte), s.hw = true → s.node.sampling = true → s.node.count = 7 →
    s.node.agree = true → s.node.first = strapAddr ga ca → strapsOk ga ca = true →
    ∃ t, exec (.strapReading ga ca) s = .next t ∧ t.node.addr = ca ++ (0 : BitVec 2) ++ ga ∧ t.node.valid = true ∧
      t.node.sampling = false ∧ t.can.dup = false) ∧
  (∀ (s : State) (ga : BitVec 6) (ca : Byte), s.hw = true → s.node.sampling = false → s.node.valid = true →
    s.node.differ = 7 → strapAddr ga ca ≠ s.node.addr →
    ∃ t, exec (.strapPeriodicCheck ga ca) s = .next t ∧ t.node.mismatch = true ∧ t.node.addr = s.node.addr) ∧
  (∀ (s : State) (i : Fin 32), s.hw = true → s.pwr.held = false → s.rampingDom = none →
    (List.finRange 32).find? (fun i => (s.dom i).wantOn && (s.dom i).state == .off) = some i →
    exec .domainRampStart s = .next (s.onDom i fun d => { d with
      state := .ramping, wantOn := false, good := false, isolated := true, switchOpen := false })) ∧
  (∀ (s : State) (i : Fin 32), s.hw = true → s.rampingDom = some i → s.armedOn 0x043 (BitVec.ofNat 8 i.val) = none →
    exec .domainPowerGood s = .next (s.onDom i fun d => { d with good := true })) ∧
  (∀ (s : State) (i : Fin 32), s.hw = true → s.rampingDom = some i →
    ∃ t, exec .domainRampTimeout s = .next t ∧ (t.dom i).state = .tripped ∧ (t.dom i).tripKind = 4 ∧
      (t.dom i).switchOpen = true ∧ testBit t.pwr.events 0 = true) ∧
  (∀ (s : State) (i : Fin 32), s.hw = true → (s.dom i).state = .ramping → (s.dom i).good = true →
    ∃ t, exec (.domainIsolationRelease i) s = .next t ∧ (t.dom i).state = .on ∧ (t.dom i).isolated = false) ∧
  (∀ (s : State) (i : Fin 32), s.hw = true → (s.dom i).state = .on → (s.dom i).wantOff = true →
    ∃ t, exec (.domainDrainStart i) s = .next t ∧ (t.dom i).state = .draining ∧ (t.dom i).wantOff = false) ∧
  (∀ (s : State) (i : Fin 32), s.hw = true → (s.dom i).state = .draining → (s.dom i).isolated = false →
    s.domHolds i = false → ∃ t, exec (.domainIsolate i) s = .next t ∧ (t.dom i).isolated = true) ∧
  (∀ (s : State) (i : Fin 32), s.hw = true → (s.dom i).state = .draining → (s.dom i).isolated = true →
    exec (.domainSwitchOpen i) s = .next (s.onDom i fun d => { d with switchOpen := true })) ∧
  (∀ (s : State) (i : Fin 32), s.hw = true → (s.dom i).state = .draining → (s.dom i).switchOpen = true →
    ∃ t, exec (.domainRailFallen i) s = .next t ∧ (t.dom i).state = .off) ∧
  (∀ (s : State) (i : Fin 32) (k : Monitor), s.hw = true → (s.dom i).switchOpen = false → ¬(i = 31 ∧ k = .uv) →
    ∃ t, exec (.monitorTrip i k true) s = .next t ∧ (t.dom i).state = .tripped ∧ (t.dom i).isolated = true ∧
      (t.dom i).switchOpen = true ∧ (t.dom i).tripCount = satInc (s.dom i).tripCount ∧ testBit t.pwr.events 0 = true ∧
      (t.dom i).tripKind = (match k with | .uv => 1 | .ov => 2 | .oc => 3)) ∧
  (∀ s : State, s.serves = true →
    ∃ t, exec .powerAudit s = .next t ∧ ∀ i : Fin 32, testBit t.pwr.req i.val = s.seqOn i ∧
      (testBit s.pwr.req i.val ≠ s.seqOn i → testBit t.pwr.suspect i.val = true)) ∧
  (∀ (s : State) (vin iin : Half) (mon : Vector Word 32), s.serves = true →
    exec (.pwrMeasureUpdate vin iin mon.toList) s = .next (s.onPwr fun x => { x with
      vin := vin, iin := iin
      doms := Vector.ofFn fun i => { s.dom i with v := mon[i].setWidth 16, i := (mon[i] >>> 16).setWidth 16 } })) ∧
  (∀ (s : State) (v : Half), s.serves = true → exec (.dieTSample v) s = .next (s.onPwr fun x => { x with dieT := v })) ∧
  (∀ (s : State) (v : Half), s.hw = true →
    exec (.thermPeakSample v) s = .next (s.onPwr fun x => { x with
      peak := if x.peak.toInt < v.toInt then v else x.peak })) ∧
  (∀ (s : State) (v : Half), s.hw = true → s.pwr.warn = false → 1600 ≤ v.toInt →
    Reaches (.thermalWarningCrossing v) s (s.onPwr fun x => { x with warn := true, events := setBit x.events 2 })) ∧
  (∀ (s : State) (v : Half), s.hw = true → s.pwr.warn = true → v.toInt < 1568 → s.thermHeld 0x082 = false →
    exec (.thermalWarningCrossing v) s = .next (s.onPwr fun x => { x with warn := false })) ∧
  (∀ (s : State) (v : Half), s.hw = true → s.pwr.nvwDefer = true → v.toInt < 1648 → s.thermHeld 0x083 = false →
    ∃ t, exec (.nvwBarCrossing v) s = .next t ∧ t.pwr.nvwDefer = false ∧ t.pwr.underway = [] ∧ t.log.waiting = [] ∧
      testBit t.pwr.events 4 = true) ∧
  (∀ (s : State) (v : Half), s.hw = true → s.pwr.nvwDefer = false → 1680 ≤ v.toInt →
    ∃ t, exec (.nvwBarCrossing v) s = .next t ∧ t.pwr.nvwDefer = true ∧ testBit t.pwr.events 3 = true ∧
      (s.armedOn 0x083 0 = none → t.pwr.underway = s.writesNow)) ∧
  (∀ (s : State) (v : Half), s.hw = true → 1840 ≤ v.toInt →
    ∃ t, exec (.hotStop v) s = .next t ∧ t.pwr.phase = .hotStop ∧ t.pwr.hotSeen = true ∧ (∀ i, (t.dom i).state = .off) ∧
      ∀ p : Fin 4, t.ports[p].en = s.ports[p].en) ∧
  (∀ (s : State) (v : Half), s.pwr.phase = .hotStop → v.toInt < 1440 → s.thermHeld 0x084 = false → s.fw.trial = false →
    ∃ t, exec (.hotStopRelease v) s = .next t ∧ t.pwr.phase = .booting ∧ t.pwr.held = true ∧ t.pwr.cause = 2 ∧
      t.pwr.count = satInc s.pwr.count) ∧
  (∀ s : State, s.kpr = true → s.pwr.nvwDefer = false →
    exec .deferredWriteResume s = .next (s.ldg.deferred.foldl (fun s x => s.finish x.1 x.2)
      { s with ldg := { s.ldg with deferred := [] }, fw := { s.fw with stored := none } })) ∧
  (∀ s : State, s.kpr = true → s.fw.trial = false →
    ∃ t, exec (.keeperWatchdogExpiry false) s = .next t ∧ t.pwr.phase = .booting ∧ t.pwr.boot = .watchdog ∧ t.pwr.cause = 3 ∧
      t.pwr.count = satInc s.pwr.count ∧ t.pwr.doms = s.pwr.doms ∧ t.inj.enable = false) ∧
  (∀ s : State, s.kpr = true →
    exec (.keeperWatchdogExpiry true) s = .next (s.onPwr fun x => { x with phase := .silent })) ∧
  (∀ s : State, s.pwr.phase = .booting → s.fw.recovery = false →
    ∃ t, exec .keeperBootComplete s = .next t ∧ t.pwr.phase = .running ∧ t.pwr.owed = none ∧ t.log.hwq = [] ∧
      t.pwr.warmCmd = []) ∧
  (∀ s : State, s.pwr.phase = .booting → s.fw.recovery = true →
    ∃ t, exec .keeperBootComplete s = .next t ∧ t.pwr.phase = .running ∧ t.pwr.owed = some s.bootOf ∧ t.log = s.log)

/-- The commands of power and resets complete (R59, R60, R63, R64, R67, R406). Model's choices: the scope of the warm reset
(log 38), what the audit takes as on (log 21), reserved bits in a response are 0 (log 152), the coding of UNIT (log 40), the temperature strictly below the level for PWR_RESTART (log 104). -/
def Obligations.PowerCommandsComplete : Prop :=
  (∀ (s : State) (h : Header), Turn s → Runs (.pwrStatusGet h) h s id fun s =>
    done (le 4 s.onWord ++ le 4 s.pwr.suspect ++ le 4 s.trippedWord ++ le 4 (thermWord s.pwr))) ∧
  (∀ (s : State) (h : Header) (on off : Word), Turn s →
    ((domsOf (on ||| off)).foldl State.auditDom (s.atTurn h)).domainRefused on off = none →
    ∃ t, exec (.pwrDomainSet h on off) s = .next t ∧
      (∀ i : Fin 32, testBit on i.val = true → (s.dom i).state = .off → (t.dom i).wantOn = true) ∧
      (∀ i : Fin 32, testBit off i.val = true → (s.dom i).state = .on → (t.dom i).wantOff = true) ∧
      ∀ i : Fin 32, testBit (on ||| off) i.val = false → t.dom i = s.dom i) ∧
  (∀ (s : State) (h : Header) (mask : Word), Turn s →
    ∃ t, exec (.pwrSuspectAck h mask) s = .next t ∧ ∀ i : Fin 32, testBit mask i.val = true →
      testBit s.pwr.req i.val = s.seqOn i → s.armedOn 0x201 (BitVec.ofNat 8 i.val) = none → testBit t.pwr.suspect i.val = false) ∧
  (∀ (s : State) (h : Header) (unit : Byte) (d : Fin 18), Turn s → unit.toNat = 9 + d.val →
    (s.atTurn h).isSuspect (domOfD d) = false → s.dbays[d].cfg ≠ .loading → s.inRepair (9 + d.val) = false →
    Runs (.pwrReset h 1 unit) h s (fun s => s.onDbay d fun b => { b with resetDue := true }) fun _ => done []) ∧
  (∀ (s : State) (h : Header) (unit : Byte), Turn s →
    ∃ t, exec (.pwrReset h 0 unit) s = .next t ∧ t.pwr.phase = .booting ∧ t.pwr.boot = .warm ∧ t.pwr.cause = 4 ∧
      t.pwr.count = satInc s.pwr.count ∧ t.clk = s.clk ∧ t.cal.coefs = [] ∧
      ∀ i : Fin 32, i.val < 27 ∨ i = 31 → (t.dom i).state = .off ∨ (t.dom i).state = .tripped) ∧
  (∀ (s : State) (h : Header), Turn s → s.pwr.held = true → s.pwr.dieT.toInt < 1440 →
    ∃ t, exec (.pwrRestart h) s = .next t ∧ t.pwr.held = false ∧ testBit t.pwr.events 5 = true ∧
      ∀ i : Fin 32, 27 ≤ i.val → i.val < 31 → (s.dom i).state = .off → (t.dom i).wantOn = true) ∧
  (∀ (s : State) (h : Header) (mask : Word), Turn s →
    (domsOf mask).any ((domsOf mask).foldl State.auditDom (s.atTurn h)).isSuspect = false →
    ∃ t, exec (.pwrTripClear h mask) s = .next t ∧ ∀ i : Fin 32, testBit mask i.val = true → (s.dom i).state = .tripped →
      (t.dom i).state = .off) ∧
  (∀ (s : State) (v : Word), s.hw = true → testBit v 0 = true →
    Writes (.pwrThermClear 0 v) 0 s (s.onPwr fun x => { x with peak := 0x8000 }))

/-! ### 04 The sensor sash -/

/-- The commands of the sash complete (R73 to R86): presence, identity, bias and the life record. Model's choices:
counters of a sash that is read again (log 27), TRIPPED at a shutdown (log 86), the order of SASH_BIAS_SET's checks
(log 87), the repeat of a failed write (log 125), DET of SASH_ID_FAULT (log 126), when current counts (log 127), a
shutdown for SPRES_L alone (log 156), several occasions of one write (log 157), WRITES of an invalid page and of a
failed write (logs 158, 159), the states in which PEAK_T is sampled (log 160), a shutdown while the keeper is down (log 161), the
bytes of SASH_LIFE_GET (log 180), the page of the first write (log 182), the owner of the sash's events (log 183), reserved bits
in a response are 0 (log 152). -/
def Obligations.SashCompletes : Prop :=
  (∀ s : State, s.hw = true → s.sash.state = .absent → s.sash.pinS = false →
    exec (.sashPinChange true false) s = .next (s.onSash fun x => { x with
      state := .partialMate, pinL := true, pinS := false, writing := none })) ∧
  (∀ s : State, s.hw = true → s.sash.state = .present → s.sash.pinL = true → s.sash.pinS = true →
    ∃ t, exec (.sashPinChange true false) s = .next t ∧ t.sash.state = .partialMate ∧
      ((s.dom 31).state = .on → (t.dom 31).state = .off ∧ (∀ g : Fin 4, t.sash.setpoint[g] = 0 ∧ t.sash.out[g] = 0) ∧
        testBit t.pwr.req 31 = false ∧ t.pwr.suspect = s.pwr.suspect)) ∧
  (∀ s : State, s.hw = true → s.sash.state = .present → s.sash.pinL = true → s.sash.pinS = true →
    ∃ t, exec (.sashPinChange false false) s = .next t ∧ t.sash.state = .absent ∧ testBit t.sash.events 1 = true) ∧
  (∀ s : State, s.hw = true → s.sash.state = .partialMate → s.sash.pinL = true → s.sash.pinS = true →
    exec .sashMateTimer s = .next (s.onSash fun x => { x with state := .reading })) ∧
  (∀ (s : State) (ident : List Byte) (pages : List (List Byte)), s.serves = true → s.sash.state = .reading →
    s.armedOn 0x1C3 0 = none → identOk ident = true → s.sash.expect = 0 → rd 32 ident 0 4 = 0x5A536444 →
    ∃ t, exec (.sashIdentityRead true ident pages false) s = .next t ∧ t.sash.state = .present ∧ t.sash.ident = ident ∧
      testBit t.sash.events 0 = true) ∧
  (∀ (s : State) (ident : List Byte) (pages : List (List Byte)), s.serves = true → s.sash.state = .reading →
    ∃ t, exec (.sashIdentityRead false ident pages false) s = .next t ∧ t.sash.state = .idFault ∧
      t.sash.faultFromAbsent = false ∧ testBit t.sash.events 2 = true) ∧
  (∀ s : State, s.serves = true → s.sash.state = .absent →
    Reaches (.sashAbsentProbe true) s (s.onSash fun x => { x with
      state := .idFault, faultFromAbsent := true, events := setBit x.events 2 })) ∧
  (∀ (s : State) (ident : List Byte) (pages : List (List Byte)), s.serves = true → s.sash.state = .idFault →
    s.sash.faultFromAbsent = false → s.armedOn 0x1C3 0 = none → identOk ident = true → s.sash.expect = 0x5A536442 →
    rd 32 ident 0 4 = 0x5A536442 →
    ∃ t, exec (.sashIdRetry true ident pages) s = .next t ∧ t.sash.state = .present ∧ t.sash.ident = ident ∧
      testBit t.sash.events 0 = true) ∧
  (∀ (s : State) (current : List Half), s.hw = true → s.isOn 31 = true →
    ∃ t, exec (.biasRampStep current) s = .next t ∧ ∀ g : Fin 4,
      t.sash.out[g] = ramped s.sash.out[g] (25 * s.sash.setpoint[g].toNat) s.sash.rate.toNat ∧
      t.sash.current[g] = bits (current.getD g.val 0) 0 12) ∧
  (∀ (s : State) (q : Fin 8), s.serves = true → s.biasOn = true → s.pwr.nvwDefer = false → s.sash.writing = none →
    s.sash.frozen = false → s.sash.state = .present → s.sash.failedAt = none → s.sash.nextPage s.sash.page = some q →
    exec .lifePeriodExpiry s = .next (s.onSash fun x => { x with
      due := false, again := false, writing := some q, record := x.nextRecord q })) ∧
  (∀ (s : State) (p : Fin 8), s.serves = true → s.sash.writing = some p → s.armedOn 0x1C2 (BitVec.ofNat 8 p.val) = none →
    s.sash.pageWrites[p].toNat < 999999 → s.sash.due = false →
    exec (.lifePageVerify true) s = .next (s.onSash fun x => { x with
      writing := none, again := false, page := some p, seq := x.seq + 1, failed := clearBit x.failed p.val
      pageWrites := x.pageWrites.set p (x.pageWrites[p] + 1)
      pages := x.pages.set p (x.record ++ le 4 (0xC3A55A3C : Word)) })) ∧
  (∀ (s : State) (q : Fin 8), s.serves = true → s.sash.due = true → s.pwr.nvwDefer = false → s.sash.writing = none →
    s.sash.frozen = false → s.sash.state = .present → s.sash.failedAt = none → s.sash.nextPage s.sash.page = some q →
    exec .lifeWriteResume s = .next (s.onSash fun x => { x with
      due := false, again := false, writing := some q, record := x.nextRecord q })) ∧
  (∀ (s : State) (v : Half), s.serves = true → s.sash.state = .present →
    exec (.peakTSample (some v)) s = .next (s.onSash fun x => { x with
      peakT := if x.peakT.toInt < v.toInt then v else x.peakT })) ∧
  (∀ (s : State) (h : Header), Turn s → s.sash.mated = true →
    Runs (.sashInfoGet h) h s id fun s => done (le 4 (sashStatus s) ++ s.sash.ident)) ∧
  (∀ (s : State) (h : Header) (v : Word), Turn s → expectOk v = true →
    ∃ t, exec (.sashExpectSet h v) s = .next t ∧ t.sash.expect = v ∧
      (s.sash.state = .present → t.sash.state = if { s.sash with expect := v }.accepts then .present else .mismatch)) ∧
  (∀ (s : State) (h : Header) (g : Half) (rate : Byte), Turn s → (s.atTurn h).isSuspect 31 = false → s.isOn 31 = true →
    g.toNat ≤ s.sash.vmax.toNat → g.toNat ≤ 4095 → 1 ≤ rate.toNat → rate.toNat ≤ 100 →
    ∃ t, exec (.sashBiasSet h g g g g rate) s = .next t ∧ t.sash.rate = rate ∧ t.sash.settled = false ∧
      ∀ k : Fin 4, t.sash.setpoint[k] = bits g 0 12) ∧
  (∀ (s : State) (h : Header), Turn s → s.sash.state ≠ .absent →
    Runs (.sashLifeGet h) h s id fun s => done (le 4 (field s.sash.matings 0) ++ le 4 s.sash.biasS ++ le 4 s.sash.charge ++
      le 4 (field s.sash.peakT 0) ++ [if s.sash.frozen then 1 else 0, s.sash.retired] ++
      s.sash.pageWrites.toList.flatMap fun w => le 4 (field w 0)))

/-- What the commands of the clock, of presence, straps, power, heat and resets, and of the sash leave alone: all that the frame function of
the family does not put back is as before. -/
def Obligations.ClockPowerAndSashFrame : Prop :=
  ∀ (i : Instr) (s t : State), exec i s = .next t → frameClock t s i = s ∧ framePower t s i = s ∧ frameSash t s i = s

/-! ### 05 Analogue bays and the octet crossbar -/

/-- The commands of the analogue bays, the crossbar and the threshold DACs complete (R89 to R104, R133, R134). Model's
choices: how the trims of a slot and of a threshold DAC act (log 168), a threshold that settles is free within its
bounds (log 129), edges while a slot delivers nothing (log 130), the terminations (log 131), the voltages that the rows bring in (log 169), the order of the two outputs of a bay (log 185). -/
def Obligations.AnalogueCompletes : Prop :=
  (∀ (s : State) (a : Fin 9) (k : Fin 8), s.hw = true → s.isOn (domOfA a) = true →
    ∃ t, exec (.slotSettingsApply a k) s = .next t ∧
      t.abays = (s.onSlot a k fun x => { x with cfgNow := x.cfg, masked := x.masked || x.cfg ≠ x.cfgNow }).abays ∧
      ∀ o : Fin 8, s.xbar.primaryNow[o].toNat = a.val →
        t.xbar.zin[(⟨8 * o.val + k.val, by omega⟩ : Fin 64)] = bits s.abays[a].slots[k].cfg 4 2) ∧
  (∀ (s : State) (a : Fin 9) (k : Fin 8), s.hw = true →
    exec (.slotMaskEnd a k) s = .next (s.onSlot a k fun x => { x with masked := false })) ∧
  (∀ (s : State) (a : Fin 9) (k : Fin 8) (o : Fin 8) (v : Int), s.hw = true → s.isOn (domOfA a) = true →
    s.abays[a].slots[k].ovl = false → s.xbar.primaryNow[o].toNat = a.val →
    1000000 * 32768 < (v * 2 ^ (bits s.abays[a].slots[k].cfgNow 0 3).toNat *
      (rd 16 (s.coef (0x20 + 8 * a.val + k.val)).body (2 * (bits s.abays[a].slots[k].cfgNow 0 3).toNat) 2).toNat).natAbs →
    Reaches (.slotOverloadDetect a k v) s
      ((s.onSlot a k fun x => { x with ovl := true }).onAbay a fun b => { b with events := setBit b.events 0 })) ∧
  (∀ (s : State) (a : Fin 9) (volts : List Int), s.hw = true → s.isOn (domOfA a) = true →
    1000000 * 2 ^ (bits s.abays[a].sumCfg 16 2).toNat < (s.sumNode volts (s.line volts) a).natAbs →
    exec (.sumSaturation a volts) s = .next (s.onAbay a fun b => { b with sumOvl := true })) ∧
  (∀ (s : State) (a b : Fin 9) (k j : Fin 2) (line : Fin 4) (cls held : Cls), s.hw = true → s.inRepair a.val = false →
    a ≠ b → s.xbar.lines[line] = some { bay := b, so := j, cls := held } → held.rank < cls.rank →
    soSrc s.abays[a].so k ≠ 17 →
    (∀ n : Fin 4, n ≠ line → s.xbar.lines[n] = none) →
    ∃ t, exec (.asbLineClaim a k line cls) s = .next t ∧ t.acc = (Status.done, 0) ∧
      t.xbar.lines[line] = some { bay := a, so := k, cls := cls } ∧ soEn t.abays[a].so k = true ∧
      soEn t.abays[b].so j = false ∧ testBit t.abays[b].events 1 = true) ∧
  (∀ (s : State) (a : Fin 9), s.hw = true →
    exec (.sumOutputApply a) s = .next (s.onAbay a fun b => { b with soNow := b.so, asbNow := bits b.sumCfg 20 4 })) ∧
  (∀ (s : State) (p : Fin 32) (o : Fin 8) (v : Word), s.hw = true →
    (xbarAccess p (.oct o) (s.unstage p)).who v = true → (∀ i, Trusted s i) → (bits v 0 4).toNat < 9 →
    bits v 4 4 = 0xF → s.octConflict o (bits v 0 4) (bits v 4 4) = false →
    Writes (.xbarOctWrite p o v) p s { s with xbar := { s.xbar with
      primary := s.xbar.primary.set o (bits v 0 4), secondary := s.xbar.secondary.set o (bits v 4 4), pending := true } }) ∧
  (∀ (s : State) (p : Fin 32) (a : Fin 9) (v : Word), s.hw = true → s.owns p a.val = true → Trusted s (domOfA a) →
    testBit v 0 = true →
    Writes (.abayClear p a v) p s (s.onAbay a fun b => { b with
      slots := b.slots.map fun k => { k with lo := { k.lo with double := 0 }, hi := { k.hi with double := 0 } } })) ∧
  (∀ s : State, s.hw = true →
    ∃ t, exec .xbarApply s = .next t ∧ t.xbar.primaryNow = s.xbar.primary ∧ t.xbar.secondaryNow = s.xbar.secondary ∧
      t.xbar.pending = false ∧ ∀ (a : Fin 9) (o : Fin 8) (k : Fin 8), s.xbar.primary[o].toNat = a.val →
        s.xbar.primaryNow[o].toNat ≠ a.val → s.xbar.secondaryNow[o].toNat ≠ a.val → t.abays[a].slots[k].masked = true) ∧
  (∀ (s : State) (a : Fin 9) (k o : Fin 8) (bin : BitVec 6) (v : Int), s.hw = true → s.delivers a k = true →
    s.xbar.primaryNow[o].toNat = a.val → -1000000 ≤ v → v ≤ 1000000 → s.abays[a].slots[k].hi.out = false → bits s.abays[a].slots[k].hi.now 24 2 = 0 → s.abays[a].settled ≤ s.ck →
    ((bits s.abays[a].slots[k].hi.now 0 12).toNat - 2048) * 2000 + s.cmpTrim a k true < 4 * v →
    exec (.comparatorCrossing a k true [(bin, v)]) s = .next
      ((s.onSlot a k fun x => { x with hi := { x.hi with out := true, double := satAdd x.hi.double 0 } }).onAbay a fun b => { b with
        feedQ := b.feedQ ++ [{ due := s.ck + 6, slot := k, hi := true
                               byte := 3 ||| ((s.ftMap a k true bin).setWidth 8 <<< 2) }] })) ∧
  (∀ (s : State) (a : Fin 9) (k o : Fin 8) (bin : BitVec 6) (v : Int), s.hw = true → s.delivers a k = true →
    s.xbar.primaryNow[o].toNat = a.val → -1000000 ≤ v → v ≤ 1000000 → s.abays[a].slots[k].lo.out = true → bits s.abays[a].slots[k].lo.now 24 2 = 0 → s.abays[a].settled ≤ s.ck →
    4 * v < ((bits s.abays[a].slots[k].lo.now 0 12).toNat - 2048) * 2000 + s.cmpTrim a k false -
      (bits s.abays[a].slots[k].lo.now 16 5).toNat * 5000 →
    exec (.comparatorCrossing a k false [(bin, v)]) s = .next
      ((s.onSlot a k fun x => { x with lo := { x.lo with out := false, double := satAdd x.lo.double 0 } }).onAbay a fun b => { b with
        feedQ := b.feedQ ++ [{ due := s.ck + 6, slot := k, hi := false, byte := 0 }] })) ∧
  (∀ (s : State) (a : Fin 9), s.hw = true → s.isOn (domOfA a) = true →
    ∃ t, exec (.thresholdLoad a) s = .next t ∧ t.abays[a].settled = s.ck + 8 ∧
      ∀ k : Fin 8, s.unitHeld (0x20 + 8 * a.val + k.val) = false →
        t.abays[a].slots[k].lo.now = s.abays[a].slots[k].lo.use ∧ t.abays[a].slots[k].hi.now = s.abays[a].slots[k].hi.use) ∧
  (∀ (s : State) (p : Fin 32) (a : Fin 9) (v : Word), s.hw = true → s.owns p a.val = true → Trusted s (domOfA a) →
    testBit v 0 = true → Writes (.thresholdHoldRelease p a v) p s (s.onAbay a fun b => { b with hold := true })) ∧
  (∀ (s : State) (p : Fin 32) (a : Fin 9) (v : Word), s.hw = true → s.owns p a.val = true → Trusted s (domOfA a) →
    testBit v 0 = false →
    Writes (.thresholdHoldRelease p a v) p s (s.onAbay a fun b => { b with
      hold := false
      slots := b.slots.map fun k => { k with lo := { k.lo with use := k.lo.set }, hi := { k.hi with use := k.hi.set } } }))

/-! ### 06 Converters -/

/-- The moments of the converters, groups and timers complete (R107 to R129). Model's choices: any write of ADC_REF
clears REF_RDY (log 75), an urgent event with its samples (log 132), the voltages that the rows bring in (log 169), a start of an ADC with EN 0 (log 186),
rounding (log 76), LATE of a restarted sequence (log 77), urgent results in the window (log 78), an entry that a write
has ended (log 170). -/
def Obligations.ConverterMomentsComplete : Prop :=
  (∀ (s : State) (n : Fin 18), s.hw = true → s.groupOf n = none → s.adcStarts = [] →
    s.adcState n = .idle → adcEn s.adcs[n].ctrl = true → s.srcFires (adcSrc s.adcs[n].ctrl) (adcEdge s.adcs[n].ctrl) = true →
    s.adcs[n].refRdy = true →
    ∃ t, exec (.adcStartEvent n) s = .next t ∧ t.adcs[n].state = .delay ∧ t.adcs[n].entry = 0 ∧
      t.adcs[n].width = s.srcWidth (adcSrc s.adcs[n].ctrl) (adcEdge s.adcs[n].ctrl) ∧
      t.adcs[n].startMiss = s.adcs[n].startMiss) ∧
  (∀ (s : State) (n : Fin 18), s.hw = true → s.groupOf n = none → s.adcStarts = [] →
    s.adcState n = .running → adcEn s.adcs[n].ctrl = true → s.srcFires (adcSrc s.adcs[n].ctrl) (adcEdge s.adcs[n].ctrl) = true →
    exec (.adcStartEvent n) s = .next (s.onAdc n fun x => { x with startMiss := satInc x.startMiss })) ∧
  (∀ (s : State) (n : Fin 18) (w : Analog), s.hw = true → s.adcState n = .delay → s.adcs[n].acc = 0 → s.adcs[n].taken = 0 →
    entAvg s.adcs[n].entCfg[s.adcs[n].entry] = 0 →
    ∃ t, exec (.adcFirstSample n w) s = .next t ∧
      t.adcs[n].pipe.dropLast = s.adcs[n].pipe ∧
      t.adcs[n].pipe.getLast?.map (fun r => (r.code, r.entry, r.et)) = some (BitVec.ofInt 16 (clip14
        (adcCode (s.coef n.val).body s.adcs[n].refSel (clip14 (s.adcInput n s.adcs[n].entry w)) 0)), s.adcs[n].entry, s.clk.et)) ∧
  (∀ (s : State) (n : Fin 18) (w : Analog), s.hw = true → s.adcState n = .running → s.adcs[n].ended = false →
    s.adcs[n].taken + 1 < 2 ^ entAvg s.adcs[n].entCfg[s.adcs[n].entry] →
    ∃ t, exec (.adcSpacingExpiry n w) s = .next t ∧ t.adcs[n].acc = s.adcs[n].acc + clip14 (s.adcInput n s.adcs[n].entry w) ∧
      t.adcs[n].taken = s.adcs[n].taken + 1 ∧ t.adcs[n].pipe = s.adcs[n].pipe) ∧
  (∀ (s : State) (n : Fin 18) (w : Analog), s.hw = true → s.adcState n = .running → s.adcs[n].ended = true →
    s.adcs[n].atLast = true → adcLoop s.adcs[n].ctrl = true →
    s.adcs[n].taken + 1 < 2 ^ entAvg s.adcs[n].entCfg[(0 : Fin 16)] →
    ∃ t, exec (.adcLoopRestart n w) s = .next t ∧ t.adcs[n].entry = 0 ∧ t.adcs[n].state = .running ∧ t.adcs[n].done = 0) ∧
  (∀ (s : State) (n : Fin 18) (r : Sample), s.hw = true → s.adcs[n].pipe = [r] → adcDest s.adcs[n].ctrl = 0 →
    s.adcs[n].queue.length < 63 → testBit s.adcs[n].entCfg[r.entry] 24 = false → r.urgent = false →
    exec (.adcResultQueued n) s = .next (s.onAdc n fun x => { x with
      pipe := [], tag := x.tag + 1, queue := x.queue ++ [resultBytes r x.tag false] })) ∧
  (∀ (s : State) (g : Fin 8), s.hw = true → members s.groups[g].mask ≠ [] → s.adcStarts = [] →
    s.srcFires (bits s.groups[g].ctrl 0 6).toNat (testBit s.groups[g].ctrl 6) = true → (members s.groups[g].mask).all s.memberReady = true →
    ∃ t, exec (.adcGroupStartEvent g) s = .next t ∧ ∀ n : Fin 18, testBit s.groups[g].mask n.val = true →
      t.adcs[n].state = .delay ∧ t.adcs[n].entry = 0) ∧
  (∀ (s : State) (g : Fin 8), s.hw = true → members s.groups[g].mask ≠ [] → s.adcStarts = [] →
    s.srcFires (bits s.groups[g].ctrl 0 6).toNat (testBit s.groups[g].ctrl 6) = true → (members s.groups[g].mask).all s.memberReady = false →
    ∃ t, exec (.adcGroupStartEvent g) s = .next t ∧ t.groups[g].miss = satInc s.groups[g].miss ∧
      ∀ n : Fin 18, testBit s.groups[g].mask n.val = true →
        t.adcs[n] = { s.adcs[n] with startMiss := satInc s.adcs[n].startMiss }) ∧
  (∀ (s : State) (n : Fin 18) (w : Analog), s.hw = true → testBit s.adcs[n].urg 0 = true → testBit s.adcs[n].urg 1 = false →
    s.adcState n = .running → s.adcs[n].pipe = [] → s.srcFires (bits s.adcs[n].urg 2 6).toNat false = true →
    ∃ t, exec (.urgentEvent n (some w)) s = .next t ∧ t.adcs[n].urgCut = true ∧ t.adcs[n].shift = true ∧
      t.adcs[n].pipe.map (fun r => (r.urgent, r.entry, r.et)) = [(true, (bits s.adcs[n].urg 8 4).toFin, s.clk.et)]) ∧
  (∀ (s : State) (n : Fin 18) (w : Analog), s.hw = true → testBit s.adcs[n].urg 0 = true → testBit s.adcs[n].urg 1 = true →
    s.adcState n = .running → s.srcFires (bits s.adcs[n].urg 2 6).toNat false = true →
    exec (.urgentEvent n (some w)) s = .next (s.onAdc n fun x => { x with urgDrop := satInc x.urgDrop })) ∧
  (∀ (s : State) (p : Fin 32) (n : Fin 18) (v : Word), s.hw = true → s.owns p (0x40 + n.val) = true →
    Trusted s (adcDom n) → (bits v 0 2).toNat ≤ 2 → s.adcState n = .idle →
    Writes (.adcRefSelect p n v) p s (s.onAdc n fun x => { x with
      refSel := bits v 0 2, force := testBit v 2, refRdy := false
      inside := if bits v 0 2 = x.refSel then x.inside else Vector.replicate 16 none })) ∧
  (∀ (s : State) (n : Fin 18), s.hw = true → s.isOn (adcDom n) = true → s.adcs[n].refSel = 0 → s.adcs[n].state = .waitRef →
    exec (.adcReferenceReady n) s = .next (s.onAdc n fun x => { x with
      refRdy := true, state := .delay, late := true, heldStart := false })) ∧
  (∀ s : State, exec .vrefExtOutOfRange s = .next { s with
    vrefIn := false, adcs := s.adcs.map fun x => { x with refRdy := x.refRdy && x.refSel != 1 } }) ∧
  (∀ s : State, exec .vrefExtInRange s = .next { s with vrefIn := true }) ∧
  (∀ (s : State) (p : Fin 32) (n : Fin 18) (v : Word), s.hw = true → s.owns p (0x40 + n.val) = true →
    Trusted s (adcDom n) → s.adcs[n].queue ≠ [] → rd 16 s.adcs[n].head 2 2 = bits v 0 16 →
    Writes (.adcResPop p n v) p s (s.onAdc n fun x => { x with
      queue := x.queue.drop 1, fullArmed := x.fullArmed || x.queue.length - 1 < 32 })) ∧
  (∀ (s : State) (n : Fin 18), s.hw = true → s.adcs[n].cls = .user → adcEn s.adcs[n].ctrl = true →
    s.adcs[n].displaced = false →
    ∃ t, exec (.adcTakeover n .blocking) s = .next t ∧ t.adcs[n].state = .lent ∧ t.adcs[n].cls = .blocking ∧
      t.adcs[n].displaced = true ∧ t.adcs[n].queue = s.adcs[n].queue ∧ testBit t.adcs[n].events 2 = true) ∧
  (∀ (s : State) (n : Fin 18), s.hw = true → s.adcs[n].cls ≠ .user → s.adcs[n].heldStart = false →
    s.adcs[n].displaced = true →
    Reaches (.adcGiveback n) s (s.onAdc n fun x => { x with
      cls := .user, displaced := false, state := .idle, heldStart := false, events := setBit x.events 3 })) ∧
  (∀ (s : State) (x : Fin 16), s.hw = true → s.timers[x].en = true → s.timers[x].mode = false →
    4 ≤ s.timers[x].period.toNat → (s.clk.et - s.timers[x].offset).toNat % s.timers[x].period.toNat = 0 →
    exec (.timerFire x) s = .next (s.onTimer x fun y => { y with fired := true })) ∧
  (∀ (s : State) (x : Fin 16), s.hw = true → s.timers[x].en = true → s.timers[x].mode = true →
    s.clk.et = s.timers[x].offset →
    exec (.timerFire x) s = .next (s.onTimer x fun y => { y with fired := true, en := false })) ∧
  (∀ (s : State) (x : Fin 16), s.hw = true → s.timers[x].cls = .user → s.timers[x].en = true →
    ∃ t, exec (.timerTakeover x .repair) s = .next t ∧ t.timers[x].cls = .repair ∧ t.timers[x].displaced = true ∧
      testBit t.tmrEvents x.val = true) ∧
  (∀ (s : State) (x : Fin 16) (en mode : Bool) (period : Word) (offset : Et), s.hw = true → s.timers[x].cls = .repair →
    s.timers[x].saved = some (en, mode, period, offset) → s.timers[x].displaced = true →
    ∃ t, exec (.timerGiveback x) s = .next t ∧ t.timers[x] = { s.timers[x] with
      cls := .user, displaced := false, saved := none, en := en, mode := mode, period := period, offset := offset } ∧
      testBit t.tmrEvents (16 + x.val) = true) ∧
  (∀ (s : State) (p : Fin 32) (n : Fin 18) (v : Word), s.hw = true → s.owns p (0x40 + n.val) = true →
    Trusted s (adcDom n) → testBit v 0 = true →
    Writes (.adcCntClear p n v) p s (s.onAdc n fun x => { x with
      urgDrop := 0, startMiss := 0, lost := 0, startLate := 0, winCnt := 0 }))

/-- The commands of group 0x4x complete (R110, R114 to R117, R125). Model's choice: reserved bits in a response are 0 (log 152). -/
def Obligations.ConverterCommandsComplete : Prop :=
  (∀ (s : State) (h : Header) (n : Fin 18), Turn s → (s.atTurn h).isSuspect (adcDom n) = false →
    s.adcState n ≠ .disabled →
    Begins (.adcStart h (setBit 0 n.val)) h s fun s => { s with adcStarts := s.adcStarts ++ [(refOf h, setBit 0 n.val)] }) ∧
  (∀ (s : State) (h : Header) (adc : Byte) (n : Fin 18), Turn s → adc.toNat = n.val →
    (s.atTurn h).isSuspect (adcDom n) = false → testBit s.adcs[n].urg 0 = true → testBit s.adcs[n].urg 1 = false →
    s.adcs[n].urgPend = false →
    Runs (.adcUrgent h adc) h s (fun s => s.onAdc n fun x => { x with urgPend := true }) fun _ => done []) ∧
  (∀ (s : State) (h : Header) (adc count : Byte) (n : Fin 18), Turn s → adc.toNat = n.val → 1 ≤ count.toNat →
    count.toNat ≤ 16 → s.adcs[n].queue ≠ [] →
    Runs (.adcResultPeek h adc count) h s id fun s => done (s.adcs[n].queue.take count.toNat).flatten) ∧
  (∀ (s : State) (h : Header) (adc count : Byte) (tag : Half) (n : Fin 18), Turn s → adc.toNat = n.val → 1 ≤ count.toNat →
    count.toNat ≤ 16 → (s.atTurn h).isSuspect (adcDom n) = false → s.adcs[n].queue ≠ [] → rd 16 s.adcs[n].head 2 2 = tag →
    Runs (.adcResultPop h adc count tag) h s
      (fun s => s.onAdc n fun x => { x with
        queue := x.queue.drop count.toNat, fullArmed := x.fullArmed || x.queue.length - count.toNat < 32 })
      fun s => done (s.adcs[n].queue.take count.toNat).flatten) ∧
  (∀ (s : State) (h : Header) (adc count : Byte) (tag : Half) (n : Fin 18), Turn s → adc.toNat = n.val → 1 ≤ count.toNat →
    count.toNat ≤ 16 → (s.atTurn h).isSuspect (adcDom n) = false → s.adcs[n].queue ≠ [] → rd 16 s.adcs[n].head 2 2 ≠ tag →
    Runs (.adcResultPop h adc count tag) h s id fun s => failed Status.conflict (le 2 (rd 16 s.adcs[n].head 2 2))) ∧
  (∀ (s : State) (h : Header) (adc : Byte) (n : Fin 18), Turn s → adc.toNat = n.val →
    Runs (.adcStatusGet h adc) h s id fun s =>
      done (le 4 (adcStatus s n) ++ le 4 (adcCnt s.adcs[n]) ++ le 4 s.adcs[n].winCnt ++ le 4 (adcRef s.adcs[n]))) ∧
  (∀ (s : State) (h : Header) (group : Byte) (g : Fin 8) (mask : Word) (src edge : Byte) (delay : Half), Turn s →
    group.toNat = g.val → bits mask 18 14 = 0 → src.toNat ≤ 33 → edge.toNat ≤ 1 → delay.toNat ≤ 4095 →
    (members (bits mask 0 18)).any (s.atTurn h).adcSuspect = false → s.otherGroup g (bits mask 0 18) = false →
    Runs (.adcGroupSet h group mask src edge delay) h s
      (fun s => { s with groups := upd s.groups g fun x => { x with
        mask := bits mask 0 18, ctrl := field src 0 ||| field edge 6 ||| field delay 8 } })
      fun _ => done []) ∧
  (∀ (s : State) (h : Header) (timer : Byte) (x : Fin 16) (period : Word) (offset : Et), Turn s → timer.toNat = x.val →
    s.timers[x].en = false → s.timers[x].cls = .user →
    Runs (.tmrSet h timer 1 period offset 1) h s
      (fun s => s.onTimer x fun y => { y with en := true, mode := true, period := period, offset := offset })
      fun _ => done [])

/-- With neutral coefficients a result is its sample: a code of 14 bits comes back unchanged at every reference, and a sample
beyond the range is clipped to it (R109, R150). -/
def Obligations.NeutralResultIsSample : Prop :=
  ∀ (n : Fin 18) (ref : BitVec 2) (raw : Int), ref.toNat ≤ 2 →
    clip14 (adcCode (neutralBody n.val) ref (clip14 raw) 0) =
      if raw < -8192 then -8192 else if 8191 < raw then 8191 else raw

/-! ### 07 Waveform DACs -/

/-- The commands of the waveform DACs complete (R137 to R147). Every output code goes through the unit's GAIN and
OFFSET (R150), in the order and with the rounding of log 133; what a tick latches moves the output three cycles later (R140),
and a job's claim of a running DAC takes effect at its next tick (R138). Model's choices: a start in STATIC (log 80), a claim
that waits for a tick (log 176). -/
def Obligations.WaveformCompletes : Prop :=
  (∀ (s : State) (p : Fin 32) (n : Fin 8) (v : Word), s.hw = true → s.owns p (0x60 + n.val) = true →
    s.wdacs[n].state = .stopped → s.wdacs[n].cls = .user → wdacOutEn s.wdacs[n].ctrl = false → wdacStart v = 0 →
    Writes (.wdacOutputClaim p n v) p s (s.onWdac n fun x => { x with ctrl := v &&& 0x0FFF3FF7 })) ∧
  (∀ (s : State) (n : Fin 8), s.hw = true → s.wdacs[n].cls = .user → wdacOutEn s.wdacs[n].ctrl = true →
    s.wdacs[n].displaced = false →
    ∃ t, exec (.wdacTakeover n .blocking) s = .next t ∧ t.wdacs[n].state = .lent ∧ t.wdacs[n].cls = .blocking ∧
      t.wdacs[n].table = s.wdacs[n].table ∧ testBit t.wdacs[n].events 1 = true) ∧
  (∀ (s : State) (n : Fin 8), s.hw = true → s.wdacs[n].cls = .blocking → s.wdacs[n].displaced = true →
    Reaches (.wdacGiveback n) s (s.onWdac n fun x => { x with
      cls := .user, displaced := false, state := .stopped, ctrl := clearBit x.ctrl 0, events := setBit x.events 2 })) ∧
  (∀ (s : State) (p : Fin 32) (n : Fin 8), s.hw = true → s.owns p (0x60 + n.val) = true → s.wdacs[n].state = .stopped →
    s.wdacs[n].short = false →
    Writes (.wdacCmdStart p n) p s (s.onWdac n fun x => { x with state := .waitStart, cmdStart := true, stopPend := false })) ∧
  (∀ (s : State) (p : Fin 32) (n : Fin 8), s.hw = true → s.owns p (0x60 + n.val) = true → s.wdacs[n].state = .running →
    Writes (.wdacCmdStop p n) p s (s.onWdac n fun x => { x with stopPend := true })) ∧
  (∀ (s : State) (p : Fin 32) (n : Fin 8), s.hw = true → s.owns p (0x60 + n.val) = true → s.wdacs[n].state = .stopped →
    Writes (.wdacCmdFlush p n) p s (s.onWdac n fun x => { x with queue := [] })) ∧
  (∀ (s : State) (n : Fin 8), s.hw = true → s.clk.atBoundary = true → s.wdacs[n].state = .waitStart →
    s.wdacs[n].cmdStart = true → s.wdacs[n].heldStart = false → s.wdacWaits = [] →
    exec (.wdacStartEvent n) s = .next (s.onWdac n fun x => { x with
      state := .delay, phase := x.phase0, ringIdx := 0, underrunSeen := false, heldStart := false, cmdStart := false })) ∧
  (∀ (s : State) (n : Fin 8) (v : Half) (q : List Half), s.hw = true → s.wdacs[n].runs = true →
    s.wdacs[n].claim = none → s.wdacs[n].stopPend = false → wdacSrc s.wdacs[n].ctrl = 1 → s.wdacs[n].queue = v :: q →
    exec (.wdacTick n) s = .next (s.onWdac n fun x => ({ x with
      state := .running, last := x.trim (s.coef (0x70 + n.val)).body v, queue := q } : Wdac).latched x s.ck)) ∧
  (∀ (s : State) (n : Fin 8), s.hw = true → s.wdacs[n].runs = true → s.wdacs[n].claim = none → s.wdacs[n].stopPend = false →
    wdacSrc s.wdacs[n].ctrl = 1 → s.wdacs[n].queue = [] → s.wdacs[n].underrunSeen = false →
    Reaches (.wdacTick n) s (s.onWdac n fun x => ({ x with
      state := .running, underrun := satInc x.underrun, underrunSeen := true, events := setBit x.events 0 } : Wdac).latched x s.ck)) ∧
  (∀ (s : State) (n : Fin 8), s.hw = true → s.wdacs[n].runs = true → s.wdacs[n].claim = none → s.wdacs[n].stopPend = false →
    wdacSrc s.wdacs[n].ctrl = 3 →
    exec (.wdacTick n) s = .next (s.onWdac n fun x => ({ x with
      state := .running, phase := x.phase + x.ftw
      last := x.trim (s.coef (0x70 + n.val)).body (saturate (wdacOmode x.ctrl) ((bits x.amp 16 16).toInt +
        roundDiv ((x.entry (bits x.phase 20 12).toNat).toInt * (bits x.amp 0 16).toInt) 32768)) } : Wdac).latched x s.ck)) ∧
  (∀ (s : State) (n : Fin 8), s.hw = true → s.wdacs[n].runs = true → s.wdacs[n].claim = none → s.wdacs[n].stopPend = true →
    s.wdacWaits = [] →
    exec (.wdacTick n) s = .next (s.onWdac n fun x => { x with state := .stopped, stopPend := false })) ∧
  (∀ (s : State) (n : Fin 8) (j : Fin 16) (x : Job), s.hw = true → s.wdacs[n].runs = true → s.wdacs[n].claim = some j →
    s.wdacs[n].cls = .user → s.cal.jobs[j] = some x → x.unit = 0x70 + n.val → x.gap = false → x.cls = .blocking →
    x.state = .noticed →
    ∃ t, exec (.wdacTick n) s = .next t ∧ t.wdacs[n].state = .lent ∧ t.wdacs[n].cls = .blocking ∧
      t.wdacs[n].claim = none ∧ t.cal.jobs[j] = some { x with state := .held }) ∧
  (∀ (s : State) (n : Fin 8), s.hw = true → wdacSrc s.wdacs[n].ctrl = 0 → s.wdacs[n].cls = .user →
    exec (.wdacStaticApply n) s = .next (s.onWdac n fun x => { x with
      last := x.trim (s.coef (0x70 + n.val)).body x.static, lag := [] })) ∧
  (∀ (s : State) (p : Fin 32) (n : Fin 8) (v : Word), s.hw = true → s.owns p (0x60 + n.val) = true →
    (s.wdacs[n].runs = true → wdacSrc s.wdacs[n].ctrl ≠ 2) →
    Writes (.wdacQueueAppend p n v) p s (s.onWdac n fun x =>
      if x.queue.length < 1024 then { x with queue := x.queue ++ [bits v 0 16] }
      else { x with overflow := satInc x.overflow })) ∧
  (∀ (s : State) (p : Fin 32) (n : Fin 8) (v : Word), s.hw = true → s.owns p (0x60 + n.val) = true →
    s.wdacs[n].state = .stopped →
    ∃ t, exec (.wdacTableWrite p n v) s = .next t ∧ t.acc = (Status.done, 0) ∧
      t.wdacs[n].tblAddr = s.wdacs[n].tblAddr + 1 ∧ t.wdacs[n].entry s.wdacs[n].tblAddr.toNat = bits v 0 16) ∧
  (∀ (s : State) (p : Fin 32) (n : Fin 8) (v : Word), s.hw = true → s.owns p (0x60 + n.val) = true → testBit v 0 = true →
    Writes (.wdacCntClear p n v) p s (s.onWdac n fun x => { x with
      underrun := 0, overflow := 0, startMiss := 0, startLate := 0 })) ∧
  (∀ (s : State) (h : Header) (k count : Byte) (n : Fin 8) (samples : List Half), Turn s → k.toNat = n.val →
    s.wdacs[n].runs = false → samples.length ≤ 1024 - s.wdacs[n].queue.length →
    Runs (.wdacQueueWrite h k count samples) h s (fun s => s.onWdac n fun x => { x with queue := x.queue ++ samples })
      fun s => done (bytesOf 2 (s.wdacs[n].queue.length + samples.length))) ∧
  (∀ (s : State) (h : Header) (k count : Byte) (n : Fin 8) (addr : Half) (entries : List Half) (i : Nat), Turn s →
    k.toNat = n.val → s.wdacs[n].runs = false → addr.toNat + entries.length ≤ 4096 → i < entries.length →
    ∃ t, exec (.wdacTableLoad h k addr count entries) s = .next t ∧
      t.wdacs[n].entry (addr.toNat + i) = entries.getD i 0) ∧
  (∀ (s : State) (h : Header) (n : Fin 8), Turn s → s.wdacs[n].state = .stopped → s.wdacs[n].cmdStart = false →
    s.wdacs[n].short = false →
    Begins (.wdacControl h (setBit 0 n.val) 0) h s fun s =>
      { s.onWdac n fun x => { x with state := .waitStart, cmdStart := true, stopPend := false } with
        wdacWaits := s.wdacWaits ++ [{ cmd := refOf h, mask := setBit 0 n.val, stop := false }] }) ∧
  (∀ (s : State) (h : Header) (n : Fin 8), Turn s → s.wdacs[n].state = .stopped →
    Runs (.wdacControl h (setBit 0 n.val) 2) h s (fun s => s.onWdac n fun x => { x with queue := [] }) fun _ => done [])

/-- What the commands of the analogue bays, the crossbar and the waveform DACs leave alone: all that the frame function of
the family does not put back is as before. -/
def Obligations.AnalogueAndWaveformFrame : Prop :=
  ∀ (i : Instr) (s t : State), exec i s = .next t → frameAnalogue t s i = s ∧ frameWaveform t s i = s

/-! ### 08 Calibration and self-test -/

/-- The commands of calibration complete (R149 to R162). Model's choices: the mean that a point measures is a free
value (log 13), when its command completes (log 134), TYPE and INDEX (log 23), the outage of ADC_SYS (log 107), a
refused BLOCKING claim (log 109), the pass mask of SELFTEST is free (log 22), NOT_READY and CONFLICT of CAL_RUN (log
81), jobs that hold no unit yet (log 108), a claim that waits for a DAC's tick (log 176). -/
def Obligations.CalibrationCompletes : Prop :=
  (∀ (s : State) (j : Fin 16) (x : Job) (a : Fin 9) (k : Fin 8), s.hw = true → s.cal.jobs[j] = some x →
    unitOf x.unit = some (.slot a k) → x.gap = false → x.state = .noticed → s.mayRun x = true →
    exec (.calNoticeExpiry j) s = .next { s with cal := { s.cal with jobs := s.cal.jobs.set j (some { x with state := .held }) } }) ∧
  (∀ (s : State) (j : Fin 16) (x : Job) (a : Fin 9) (k : Fin 8) (r : CalResult), s.hw = true → s.cal.jobs[j] = some x →
    unitOf x.unit = some (.slot a k) → x.gap = false → x.state = .held → x.kind = 6 → x.apply = true → x.cmd = none →
    x.cls = .blocking → x.aborted = false → x.pend = none →
    ∃ t, exec (.calOutageEnd j r false) s = .next t ∧ t.cal.jobs[j] = none ∧ testBit t.cal.events 1 = true ∧
      t.coef x.unit = {
        valid := setBit (s.coef x.unit).valid 6, dieT := s.pwr.dieT, et := s.clk.et
        body := (s.coef x.unit).body.take 18 ++ slice r.body 18 30 ++ (s.coef x.unit).body.drop 48 }) ∧
  (∀ (s : State) (j : Fin 16) (x : Job) (a : Fin 9) (k : Fin 8), s.hw = true → s.cal.jobs[j] = some x →
    unitOf x.unit = some (.slot a k) → x.gap = true → x.state = .queued → x.kind ≠ 1 → s.gapFits = true → s.mayRun x = true →
    exec (.calGapStepStart j) s = .next { s with cal := { s.cal with jobs := s.cal.jobs.set j (some { x with state := .held }) } }) ∧
  (∀ (s : State) (j : Fin 16) (x : Job) (a : Fin 9) (k : Fin 8) (r : CalResult), s.hw = true → s.cal.jobs[j] = some x →
    unitOf x.unit = some (.slot a k) → x.gap = true → x.state = .held → x.aborted = false →
    x.ending = false → x.kind ≠ 1 → x.pend = none → x.steps + 1 < gapSteps x.kind.toNat →
    exec (.calGapStepEnd j r false) s = .next { s with cal := { s.cal with
      steps := satInc s.cal.steps, jobs := s.cal.jobs.set j (some { x with steps := x.steps + 1, state := .between }) } }) ∧
  (∀ (s : State) (j : Fin 16) (x : Job) (c : CmdRef) (n : Fin 18), s.hw = true → s.cal.jobs[j] = some x → x.kind = 1 →
    x.point1 = none → x.pend = none → x.cmd = some c → x.aborted = false → x.state = .between → unitOf x.unit = some (.adc n) →
    exec (.calSysTimeout j) s =
      .next (({ s with cal := { s.cal with jobs := s.cal.jobs.set j none } }).finish c (failed Status.aborted))) ∧
  (∀ (s : State) (u : Nat) (c : Coef), s.hw = true → s.cal.pending = [(u, c)] →
    (∀ j : Fin 16, s.cal.jobs[j] = none) →
    ∃ t, exec .calCoefTakeEffect s = .next t ∧ t.coef u = c ∧ t.cal.pending = []) ∧
  (∀ (s : State) (p : Fin 32) (v : Word) (n : Fin 8), s.hw = true → s.cal.windows[p].unit = some (.wdac n) →
    s.owns p (0x60 + n.val) = true →
    Writes (.calCoefDataWrite p v) p s (s.onWindow p fun w => { w with
      staged := storeAll 0 w.staged w.addr.toNat (le 4 v), addr := w.addr + 4 })) ∧
  (∀ (s : State) (p : Fin 32) (n : Fin 8), s.hw = true → s.cal.windows[p].unit = some (.wdac n) →
    s.owns p (0x60 + n.val) = true → s.blobCheck (0x70 + n.val) (s.cal.windows[p].blob (0x70 + n.val)) false = none →
    ∃ t, exec (.calCoefApply p 1) s = .next t ∧ t.acc = (Status.done, 0) ∧
      t.cal.pending.getLast? = some (0x70 + n.val, blobCoef (s.cal.windows[p].blob (0x70 + n.val)))) ∧
  (∀ (s : State) (h : Header) (type index kind apply : Byte) (u : CalUnit), Turn s →
    calUnit type.toNat index.toNat = some u → u.suits kind.toNat = true → apply.toNat ≤ 1 → u.dom = none →
    (∀ j : Fin 16, s.cal.jobs[j] = none) →
    ∃ t, exec (.calRun h type index kind 0 apply) s = .next t ∧ testBit t.cal.events 0 = true ∧
      t.cal.jobs[(0 : Fin 16)] = some {
        cmd := some (refOf h), type := BitVec.ofNat 2 (unitType u.code), index := BitVec.ofNat 7 (unitIndex u.code)
        kind := bits kind 0 4, gap := false, apply := apply = 1, cls := .blocking, state := .noticed, steps := 0
        point0 := none, point1 := none, pend := none, aborted := false, ending := false }) ∧
  (∀ (s : State) (h : Header) (adc : Byte) (expected : Half) (n : Fin 18) (j : Fin 16) (x : Job), Turn s →
    adc.toNat = n.val → -8192 ≤ expected.toInt → expected.toInt ≤ 8191 → (s.atTurn h).isSuspect (adcDom n) = false →
    s.sysJob n.val = some (j, x) → x.ready = false → x.pend = none →
    ∃ t, exec (.calSysPoint h adc 0 expected) s = .next t ∧ t.cal.jobs[j] = some (
      if x.gap then { x with pend := some { cmd := refOf h, second := false, expected := expected, left := 200 } }
      else { x with point0 := some (expected, Config.measured s.freeCtr) })) ∧
  (∀ (s : State) (h : Header) (type index : Byte) (u : CalUnit), Turn s → calUnit type.toNat index.toNat = some u →
    (s.atTurn h).unitSuspect u = false →
    (∀ (j : Fin 16) (x : Job), s.cal.jobs[j] = some x → x.cls ≠ .repair) →
    ∃ t, exec (.calAbort h type index) s = .next t ∧
      ∀ (j : Fin 16) (x : Job), t.cal.jobs[j] = some x → x.unit = u.code → x.aborted = true) ∧
  (∀ (s : State) (h : Header) (type index : Byte) (u : CalUnit), Turn s → calUnit type.toNat index.toNat = some u →
    Runs (.calCoefGet h type index) h s id fun s => done (blobOf u.code (s.coef u.code))) ∧
  (∀ (s : State) (h : Header) (blob : List Byte) (n : Fin 8), Turn s → blobUnit blob = some (.wdac n) →
    s.blobCheck (0x70 + n.val) blob h.force = none →
    Runs (.calCoefSet h blob) h s (fun s => s.pendCoef (0x70 + n.val) (blobCoef blob)) fun _ => done []) ∧
  (∀ (s : State) (h : Header) (type index : Byte) (u : CalUnit), Turn s → calUnit type.toNat index.toNat = some u →
    (s.atTurn h).unitSuspect u = false → s.unitBusy u.code = false →
    Runs (.calCoefNeutral h type index) h s
      (fun s => s.pendCoef u.code { valid := 0, dieT := 0, et := 0, body := neutralBody u.code }) fun _ => done [])

/-- What the commands of the converters, groups and timers and of calibration leave alone: all that the frame function of
the family does not put back is as before. -/
def Obligations.ConverterAndCalibrationFrame : Prop :=
  ∀ (i : Instr) (s t : State), exec i s = .next t → frameConverters t s i = s ∧ frameCalibration t s i = s

/-! ### 09 Bays and the lintel crossbar -/

/-- The commands of the lintel crossbar and the bay resets complete (R168 to R172, R176). -/
def Obligations.FabricCompletes : Prop :=
  (∀ (s : State) (p : Fin 32) (x : BitVec 12) (v : Word) (src : BitVec 12), s.hw = true → src = bits v 0 12 →
    (linDest x.toNat).isSome = true → (linSource src.toNat).isSome = true → s.mayStage p x.toNat src.toNat = true →
    (routeDoms x.toNat src.toNat).any ((routeDoms x.toNat src.toNat).foldl State.auditDom s).isSuspect = false →
    s.linInRepair x.toNat = false →
    ∃ t, exec (.linStageWrite p x v) s = .next t ∧ t.acc = (Status.done, 0) ∧ t.lin.active = s.lin.active ∧
      t.lin.staged.getLast? = some { dst := x, src := src, writer := p, engine := false, committed := false } ∧ stageWord t x =
        (src.setWidth 32 ||| 0x8000 ||| BitVec.ofNat 32 (p.val * 65536))) ∧
  (∀ (s : State) (p : Fin 32), s.hw = true →
    (s.lin.staged.any fun x => x.writer = p && !x.committed && s.linInRepair x.dst.toNat) = false →
    ∃ t, exec (.linCommit p) s = .next t ∧ t.acc = (Status.done, 0) ∧ t.lin.pending.contains p = true ∧
      t.lin.active = s.lin.active ∧
      t.lin.staged = s.lin.staged.map fun x => if x.writer = p then { x with committed := true } else x) ∧
  (∀ (s : State) (p : Fin 32), s.hw = true →
    Writes (.linDiscard p) p s { s with lin := { s.lin with
      staged := s.lin.staged.filter fun x => x.committed || x.writer ≠ p } }) ∧
  (∀ (s : State) (e : Staged), s.hw = true → s.lin.staged = [e] → e.committed = true →
    ∃ t, exec .linCommitApply s = .next t ∧ t.lin.staged = [] ∧ t.lin.pending = [] ∧ t.lin.waits = [] ∧
      t.linActive e.dst.toNat = e.src ∧
      ∀ d : Fin 4096, d.val ≠ e.dst.toNat → t.linActive d.val = s.linActive d.val) ∧
  (∀ (s : State) (h : Header) (n : Byte) (pairs : List (Half × Half)), Turn s →
    (pairs.any fun x => (linDest x.1.toNat).isNone || (linSource x.2.toNat).isNone) = false →
    (pairs.any fun x => (routeDoms x.1.toNat x.2.toNat).any (s.atTurn h).isSuspect) = false →
    (pairs.any fun x => s.linInRepair x.1.toNat) = false →
    Runs (.linRouteSet h 0 n pairs) h s (fun s => s.stageAll h.part pairs) fun _ => done []) ∧
  (∀ (s : State) (h : Header) (n : Byte) (dst src : Half), Turn s →
    (linDest dst.toNat).isSome = true → (linSource src.toNat).isSome = true →
    (routeDoms dst.toNat src.toNat).any (s.atTurn h).isSuspect = false →
    s.linInRepair dst.toNat = false → (s.lin.staged.any fun x => x.writer = h.part && !x.committed && s.linInRepair x.dst.toNat) = false →
    Begins (.linRouteSet h 1 n [(dst, src)]) h s fun s =>
      let u := (s.stageRoute h.part (bits dst 0 12) (bits src 0 12)).commitRoutes h.part
      { u with lin := { u.lin with waits := u.lin.waits ++ [refOf h] } }) ∧
  (∀ (s : State) (h : Header) (dst : Half) (count : Byte), Turn s → 1 ≤ count.toNat → count.toNat ≤ 120 →
    ((List.range count.toNat).any fun k => (linDest (dst.toNat + k)).isNone) = false →
    Runs (.linRouteGet h dst count) h s ((destDoms dst count).foldl State.auditDom) fun s =>
      done ((List.range count.toNat).flatMap fun k => le 2 ((s.linActive (dst.toNat + k)).setWidth 16))) ∧
  (∀ (s : State) (a : Fin 9), s.hw = true → s.abays[a].resetDue = true →
    ∃ t, exec (.bayResetAssert ⟨a.val, by omega⟩) s = .next t ∧ t.abays[a].inReset = true ∧ t.abays[a].resetDue = false) ∧
  (∀ (s : State) (d : Fin 18), s.hw = true → s.dbays[d].resetDue = true →
    ∃ t, exec (.bayResetAssert ⟨9 + d.val, by omega⟩) s = .next t ∧ t.dbays[d].gsrReset = true ∧
      t.dbays[d].resetDue = false ∧ t.dbays[d].resetCnt = satInc s.dbays[d].resetCnt) ∧
  (∀ (s : State) (a : Fin 9), s.hw = true →
    exec (.bayResetRelease ⟨a.val, by omega⟩) s = .next (s.onAbay a fun b => { b with inReset := false })) ∧
  (∀ (s : State) (d : Fin 18), s.hw = true →
    exec (.bayResetRelease ⟨9 + d.val, by omega⟩) s = .next (s.onDbay d fun b => { b with gsrReset := false }))

/-! ### 10 Memory blocks, queue controllers, I/O cells and the probe bus -/

/-- The moments of memory blocks and queue controllers complete (R180 to R190). Model's choice: upsets are an operand of the read that
meets them (log 83). -/
def Obligations.MemoryMomentsComplete : Prop :=
  (∀ (s : State) (d : Fin 18) (m : Fin 4) (e : BitVec 12), ramRuns s d m → memCalm s d m → e.toNat < 1024 →
    s.dbays[d].mems[m].shape = 0 → s.dbays[d].mems[m].errAt e.toNat = none → s.writtenNow d m = false →
    exec (.memoryPortRead d m false e []) s = .next (s.onMem d m fun b => { b with
      outA := { data := s.memWord d m e.toNat, err := false } })) ∧
  (∀ (s : State) (d : Fin 18) (m : Fin 4) (e : BitVec 12) (bad : List (Fin 39)), ramRuns s d m → e.toNat < 1024 →
    s.dbays[d].mems[m].shape = 0 → s.dbays[d].mems[m].errAt e.toNat = some (.double bad) → s.writtenNow d m = false →
    ∃ t, exec (.memoryPortRead d m false e []) s = .next t ∧
      t.dbays[d].mems[m].outA = { data := s.memWord d m e.toNat, err := true } ∧
      t.dbays[d].mems[m].uncorr = satInc s.dbays[d].mems[m].uncorr ∧
      t.dbays[d].mems[m].errAddr = BitVec.ofNat 10 e.toNat ∧ t.dbays[d].mems[m].errValid = true) ∧
  (∀ (s : State) (d : Fin 18) (m : Fin 4) (e : BitVec 12) (bit : Fin 39), ramRuns s d m → memCalm s d m → e.toNat < 1024 →
    s.dbays[d].mems[m].shape = 0 → s.dbays[d].mems[m].errAt e.toNat = none → s.writtenNow d m = false →
    ∃ t, exec (.memoryPortRead d m false e [bit]) s = .next t ∧
      t.memWord d m e.toNat =
        (if bit.val < 32 then s.memWord d m e.toNat ^^^ BitVec.ofNat 32 (2 ^ bit.val) else s.memWord d m e.toNat) ∧
      t.dbays[d].mems[m].outA = { data := s.memWord d m e.toNat, err := false } ∧
      t.dbays[d].mems[m].errAt e.toNat = some (.single bit) ∧
      t.dbays[d].mems[m].corr = satInc s.dbays[d].mems[m].corr) ∧
  (∀ (s : State) (d : Fin 18) (m : Fin 4) (e f : BitVec 12) (v : Word), ramRuns s d m → memCalm s d m →
    s.imageB s.dbays[d].mems[m] = true → e.toNat < 1024 → s.dbays[d].mems[m].shape = 0 → f = e →
    s.dbays[d].mems[m].errAt e.toNat = none → s.writtenNow d m = false →
    ∃ t, exec (.memoryPortWrite d m (some (e, v)) none) s = .next t ∧ ∃ u, exec (.memoryPortRead d m true f []) t = .next u ∧
      u.dbays[d].mems[m].outB = { data := s.memWord d m e.toNat, err := false } ∧ u.memWord d m e.toNat = v) ∧
  (∀ (s : State) (d : Fin 18) (m : Fin 4) (e : BitVec 12) (v : Word), ramRuns s d m → memCalm s d m → e.toNat < 1024 →
    s.dbays[d].mems[m].shape = 0 → s.dbays[d].mems[m].errAt e.toNat = none → s.writtenNow d m = false →
    ∃ t, exec (.memoryPortWrite d m (some (e, v)) none) s = .next t ∧ t.memWord d m e.toNat = v ∧
      t.dbays[d].mems[m].outA = { data := s.memWord d m e.toNat, err := false }) ∧
  (∀ (s : State) (d : Fin 18) (m : Fin 4) (e f : BitVec 12) (v w : Word), ramRuns s d m → s.imageB s.dbays[d].mems[m] = true →
    e.toNat < 4096 → f.toNat < 4096 → s.dbays[d].mems[m].shape = 2 → e.toNat / 4 = f.toNat / 4 →
    ∃ t, exec (.memoryPortWrite d m (some (e, v)) (some (f, w))) s = .next t ∧ t.mem = (s.entryWrite d m e.toNat v).mem ∧
      t.dbays[d].mems[m].collide = satInc s.dbays[d].mems[m].collide) ∧
  (∀ (s : State) (d : Fin 18) (m : Fin 4) (bit : Fin 39), ramRuns s d m → memCalm s d m →
    s.dbays[d].mems[m].scrub = true → s.dbays[d].mems[m].scrubPos < 1024 →
    s.dbays[d].mems[m].errAt s.dbays[d].mems[m].scrubPos = some (.single bit) →
    ∃ t, exec (.memScrubWord d m []) s = .next t ∧
      t.memWord d m s.dbays[d].mems[m].scrubPos =
        fixed (s.memWord d m s.dbays[d].mems[m].scrubPos) (some (.single bit)) ∧
      t.dbays[d].mems[m].errAt s.dbays[d].mems[m].scrubPos = none ∧
      t.dbays[d].mems[m].scrubPos = (s.dbays[d].mems[m].scrubPos + 1) % 1024) ∧
  (∀ (s : State) (d : Fin 18) (m : Fin 4) (v : Word), s.hw = true → s.memRuns d = true → s.dbays[d].mems[m].mode = 1 →
    s.dbays[d].mems[m].shape = 0 → s.dbays[d].mems[m].level < 1024 →
    ∃ t, exec (.fifoPush d m v false) s = .next t ∧ t.dbays[d].mems[m].level = s.dbays[d].mems[m].level + 1 ∧
      t.dbays[d].mems[m].head = s.dbays[d].mems[m].head ∧
      t.memWord d m ((s.dbays[d].mems[m].head + s.dbays[d].mems[m].level) % 1024) = v) ∧
  (∀ (s : State) (d : Fin 18) (m : Fin 4) (v : Word), s.hw = true → s.memRuns d = true → s.dbays[d].mems[m].mode = 1 →
    entries s.dbays[d].mems[m].shape ≤ s.dbays[d].mems[m].level →
    exec (.fifoPush d m v false) s = .next (s.onMem d m fun b => { b with overflow := satInc b.overflow })) ∧
  (∀ (s : State) (d : Fin 18) (m : Fin 4), s.hw = true → s.memRuns d = true → s.dbays[d].mems[m].mode = 1 →
    s.dbays[d].mems[m].shape = 0 → 0 < s.dbays[d].mems[m].level → s.dbays[d].mems[m].head < 1024 → memCalm s d m →
    s.dbays[d].mems[m].errAt s.dbays[d].mems[m].head = none →
    exec (.fifoPop d m) s = .next (s.onMem d m fun b => { b with
      outB := { data := s.memWord d m b.head, err := false }, valid := true, head := (b.head + 1) % 1024
      level := b.level - 1 })) ∧
  (∀ (s : State) (d : Fin 18) (m : Fin 4), s.hw = true → s.memRuns d = true → s.dbays[d].mems[m].mode = 1 →
    s.dbays[d].mems[m].level = 0 →
    exec (.fifoPop d m) s = .next (s.onMem d m fun b => { b with valid := false, underflow := satInc b.underflow })) ∧
  (∀ (s : State) (d : Fin 18) (m : Fin 4) (start : BitVec 24) (len : Byte), s.hw = true → s.memRuns d = true →
    s.dbays[d].mems[m].mode = 3 → s.dbays[d].mems[m].waiting = none → s.dbays[d].mems[m].running = none →
    s.dbays[d].mems[m].decimNow = 0 → s.dbays[d].mems[m].shape = 0 → s.dbays[d].mems[m].level = 1024 →
    len.toNat + 1 ≤ (bits s.clk.et 0 24 - start).toNat → (bits s.clk.et 0 24 - start).toNat + len.toNat ≤ 1020 →
    ∃ t, exec (.lookbackRequest d m start len) s = .next t ∧
      t.dbays[d].mems[m].running = some { entry := start.toNat % 1024, left := len.toNat + 1, delay := 2 }) ∧
  (∀ (s : State) (d : Fin 18) (m : Fin 4) (start : BitVec 24) (len : Byte), s.hw = true → s.memRuns d = true →
    s.dbays[d].mems[m].mode = 3 → s.dbays[d].mems[m].waiting.isSome = true →
    exec (.lookbackRequest d m start len) s = .next (s.onMem d m fun b => { b with
      rejectNext := true, lbReject := satInc b.lbReject })) ∧
  (∀ (s : State) (d : Fin 18) (m : Fin 4) (start : BitVec 24) (len : Byte), s.hw = true → s.memRuns d = true →
    s.dbays[d].mems[m].mode = 3 → s.dbays[d].mems[m].waiting = some (start, len) → s.dbays[d].mems[m].running = none →
    ∃ t, exec (.lookbackDeferredEval d m) s = .next t ∧ t.dbays[d].mems[m].waiting = none ∧
      (t.dbays[d].mems[m].running.isSome = true ∨ t.dbays[d].mems[m].lbReject = satInc s.dbays[d].mems[m].lbReject)) ∧
  (∀ (s : State) (d : Fin 18) (m : Fin 4), s.hw = true →
    ∃ t, exec (.memSettingsApply d m) s = .next t ∧ t.dbays[d].mems[m].afNow = s.dbays[d].mems[m].af ∧
      t.dbays[d].mems[m].aeNow = s.dbays[d].mems[m].ae ∧ t.dbays[d].mems[m].depthNow = s.dbays[d].mems[m].depth ∧
      t.dbays[d].mems[m].decimNow = s.dbays[d].mems[m].decim) ∧
  (∀ (s : State) (p : Fin 32) (d : Fin 18) (m : Fin 4) (k : BitVec 10) (v : Word), s.hw = true →
    s.owns p (0x10 + d.val) = true → Trusted s (domOfD d) → s.windowOpen d m = true →
    ∃ t, exec (.memWindowAccess p d m k (some v)) s = .next t ∧ t.acc = (Status.done, 0) ∧ t.memWord d m k.toNat = v ∧
      t.dbays[d].mems[m].errAt k.toNat = none) ∧
  (∀ (s : State) (p : Fin 32) (d : Fin 18) (m : Fin 4) (k : BitVec 10), s.hw = true →
    s.owns p (0x10 + d.val) = true → s.windowOpen d m = true → memCalm s d m → s.dbays[d].mems[m].errAt k.toNat = none →
    exec (.memWindowAccess p d m k none) s = .next { s with acc := (Status.done, s.memWord d m k.toNat) }) ∧
  (∀ (s : State) (p : Fin 32) (d : Fin 18) (v : Word), s.hw = true → s.owns p (0x10 + d.val) = true →
    Trusted s (domOfD d) → testBit v 0 = true →
    Writes (.dbayMemClear p d v) p s (s.onDbay d fun b => { b with mems := b.mems.map clearMemCnt }))

/-- The commands of I/O cells, peepholes and the probe bus complete (R195, R197 to R200). -/
def Obligations.ProbesComplete : Prop :=
  (∀ (s : State) (i : Fin 24), s.hw = true →
    exec (.ioCellApply i) s = .next { s with io := s.io.set i { s.io[i] with ctrlNow := s.io[i].ctrl } }) ∧
  (∀ (s : State) (d : Fin 18) (k : Fin 2), s.hw = true →
    exec (.peepholeApply d k) s = .next (s.onDbay d fun b => { b with peepNow := b.peepNow.set k b.peep[k] })) ∧
  (∀ (s : State) (p : Fin 32) (v : Word), s.hw = true → s.owns p 0xC1 = true → testBit v 0 = true →
    (bits v 1 2).toNat ≤ 2 →
    Writes (.prbCapCtrlArm p v) p s { s with prb := { s.prb with
      trig := bits v 1 2, pre := bits v 16 10, data := [], state := 1 } }) ∧
  (∀ (s : State), s.hw = true → s.prb.state = 1 → s.prb.pre.toNat ≤ s.prb.data.length → s.probeMatch = true →
    ∃ t, exec .prbCaptureTrigger s = .next t ∧ t.prb.state = 2 ∧ t.prb.trigEt = s.clk.et ∧
      t.prb.data.length = s.prb.pre.toNat ∧ t.prb.data = s.prb.data.drop (s.prb.data.length - s.prb.pre.toNat)) ∧
  (∀ s : State, s.hw = true → s.prb.state = 2 → s.prb.data.length = 1023 →
    Reaches .prbCaptureComplete s { s with prb := { s.prb with
      data := s.prb.data ++ [s.probeLines], state := 3, events := setBit s.prb.events 0 } }) ∧
  (∀ (s : State) (h : Header) (probe bay peep net en : Byte) (n : Fin 8) (d : Fin 18) (k : Fin 2), Turn s →
    probe.toNat = n.val → bay.toNat = d.val → peep.toNat = k.val → en.toNat ≤ 1 →
    (s.atTurn h).isSuspect (domOfD d) = false →
    ∃ t, exec (.prbSelect h probe bay peep net en) s = .next t ∧ t.dbays[d].peep[k] = net ∧
      t.prb.sel[n] = (bay.setWidth 32 ||| (peep.setWidth 32 <<< 5) ||| (en.setWidth 32 <<< 8))) ∧
  (∀ (s : State) (h : Header) (trig pattern mask : Byte) (pre : Half) (et : Et), Turn s → trig.toNat ≤ 2 →
    pre.toNat ≤ 1023 →
    Runs (.prbCaptureArm h trig pre pattern mask et) h s (fun s => { s with prb := { s.prb with
      trig := bits trig 0 2, pre := bits pre 0 10, pattern := pattern, mask := mask, et := et, data := [], state := 1 } })
      fun _ => done []) ∧
  (∀ (s : State) (h : Header) (start count : Half), Turn s → s.prb.state = 3 → 1 ≤ count.toNat → count.toNat ≤ 256 →
    start.toNat + count.toNat ≤ 1024 →
    Runs (.prbCaptureRead h start count) h s id fun s =>
      done (le 6 s.prb.trigEt ++ slice s.prb.data start.toNat count.toNat)) ∧
  (∀ (s : State) (h : Header) (en : Byte), Turn s → s.auxOwned h.part en = true → s.auxConflict en = false →
    Runs (.prbAuxSet h en) h s (fun s => { s with prb := { s.prb with aux := en } }) fun _ => done [])

/-- No command changes a byte of the memory blocks outside the bytes it stores to (R180, R184, R190, R228). Upsets
that a read meets are stores of its row (the model's choice, log 83). -/
def Obligations.MemoryBytesFrame : Prop :=
  ∀ (i : Instr) (s t : State) (a : Nat), exec i s = .next t → storesAt s a i = false → look memDefault t.mem a = look memDefault s.mem a

/-- What the commands of the lintel crossbar, the bay resets, the memory blocks (but for their bytes), the I/O cells and the probe bus leave alone: all that the frame function of
the family does not put back is as before. -/
def Obligations.FabricAndMemoryFrame : Prop :=
  ∀ (i : Instr) (s t : State), exec i s = .next t → frameFabric t s i = s ∧ frameMemory t s i = s

/-! ### 11 Bay images, configuration and scrubbing -/

/-- The commands of bay images, configuration and scrubbing complete (R203 to R218). Model's choices: a
RELEASE empties the buffer (log 84), an engine load at a full queue (log 141) and its order (log 102), what is under way at the bar
(log 120), the erases that an area endures (log 25), reserved bits in a response are 0 (log 152). -/
def Obligations.ConfigurationCompletes : Prop :=
  (∀ s : State, s.hw = true → s.bufHeld = false →
    exec .cfgBufLapse s = .next { s with cfg := { s.cfg with holder := none, buf := [], valid := false } }) ∧
  (∀ (s : State) (x : Load) (rest : List Load) (c : CmdRef), s.hw = true → s.cfg.running = none →
    s.cfg.queue = x :: rest → x.cmd = some c → s.loadRefused x = none →
    ∃ t, exec .cfgLoadStart s = .next t ∧
      t.cfg.queue = ({ s with cfg := { s.cfg with queue := rest } } : State).queueSpares.cfg.queue ∧
      t.cfg.running = some {
        load := x, area := s.slotArea x.source, image := (s.sourceImage x.source).getD [], frame := 0, retried := false } ∧
      t.dbays[x.bay].gsrLoad = true ∧ t.dbays[x.bay].cfg = .loading ∧
      t.dbays[x.bay].source = x.source) ∧
  (∀ (s : State) (r : Loading), s.hw = true → s.cfg.running = some r → r.frame < 1020 →
    s.armedOn 0x143 (BitVec.ofNat 8 r.load.bay.val) (fun w => w.toNat = r.frame) = none →
    ∃ t, exec (.cfgFrameWrite false) s = .next t ∧
      t.cfg.running = some { r with frame := r.frame + 1, retried := false } ∧
      t.dbays[r.load.bay].frames =
        putFrame s.dbays[r.load.bay].frames r.frame (slice r.image (0x400 + 256 * r.frame) 256)) ∧
  (∀ (s : State) (r : Loading), s.hw = true → s.cfg.running = some r → r.frame < 1020 → r.retried = true →
    ∃ t, exec (.cfgFrameWrite true) s = .next t ∧ t.cfg.running = none ∧ t.dbays[r.load.bay].cfg = .faulted ∧
      t.dbays[r.load.bay].cause = 3 ∧ t.dbays[r.load.bay].frame = BitVec.ofNat 10 r.frame ∧
      t.dbays[r.load.bay].gsrLoad = s.dbays[r.load.bay].gsrLoad ∧ testBit t.dbays[r.load.bay].cfgEvents 4 = true) ∧
  (∀ (s : State) (r : Loading), s.hw = true → s.cfg.running = some r → 1020 ≤ r.frame →
    ∃ t, exec .cfgLoadFinish s = .next t ∧ t.cfg.running = none ∧ t.dbays[r.load.bay].cfg = .loaded ∧
      t.dbays[r.load.bay].gsrLoad = false ∧ t.dbays[r.load.bay].design = rd 64 r.image 16 8 ∧
      t.dbays[r.load.bay].uclk = testBit (rd 8 r.image 13 1) 0 ∧
      t.dbays[r.load.bay].slackFail = testBit (rd 8 r.image 13 1) 1 ∧
      t.dbays[r.load.bay].untimed = (testBit (rd 8 r.image 13 1) 0 || testBit (rd 8 r.image 13 1) 1) ∧
      testBit t.dbays[r.load.bay].cfgEvents 3 = true) ∧
  (∀ (s : State) (c : CmdRef) (k : Fin 32) (a : Fin 34) (data : List Byte), s.serves = true →
    s.cfg.job = some (.save c k a data) → s.pwr.nvwDefer = false → s.armedOn 0x1C1 2 = none →
    ∃ t, exec (.cfgStoreCommit true) s = .next t ∧ t.cfg.job = none ∧ t.cfg.slots[k] = some a ∧
      t.cfg.areas[a].data = data ∧ ∀ j : Fin 32, j ≠ k → t.cfg.slots[j] = s.cfg.slots[j]) ∧
  (∀ (s : State) (c : CmdRef) (k : Fin 32) (a : Fin 34) (data : List Byte), s.serves = true →
    s.cfg.job = some (.save c k a data) → s.pwr.nvwDefer = false →
    ∃ t, exec (.cfgStoreCommit false) s = .next t ∧ t.cfg.job = none ∧ t.cfg.slots = s.cfg.slots ∧
      t.cfg.areas[a].erased = false) ∧
  (∀ (s : State) (c : CmdRef) (k : Fin 32) (a : Fin 34) (data : List Byte), s.serves = true →
    s.cfg.job = some (.save c k a data) → s.pwr.nvwDefer = true → exec (.cfgStoreCommit true) s = .next s) ∧
  (∀ (s : State) (c : CmdRef) (k : Fin 32) (a : Fin 34), s.serves = true → s.cfg.job = some (.erase c k a) →
    s.mayWrite .directory = true → s.armedOn 0x1C1 2 = none →
    ∃ t, exec (.cfgStoreCommit true) s = .next t ∧ t.cfg.job = none ∧ t.cfg.slots = s.cfg.slots.set k none) ∧
  (∀ (s : State) (a : Fin 34), s.serves = true → s.freeAreas.contains a = true → s.cfg.areas[a].erased = false →
    s.cfg.running = none → s.mayWrite (.area a) = true →
    exec (.storeAreaErase a true) s = .next ((s.endWrite (.area a)).onArea a fun x => { x with erases := x.erases + 1, erased := true, data := [] })) ∧
  (∀ (s : State) (d : Fin 18), s.hw = true → s.cfg.scrubPos = 1020 * d.val + 7 →
    (s.isOn (domOfD d) = false ∨ s.dbays[d].cfg = .loading ∨ s.dbays[d].cfg = .empty) →
    exec (.scrubFrameVisit .bad) s = .next { s with cfg := { s.cfg with scrubPos := s.cfg.scrubPos + 1 } }) ∧
  (∀ (s : State) (d : Fin 18), s.hw = true → s.cfg.scrubPos = 1020 * d.val + 7 → s.isOn (domOfD d) = true →
    s.dbays[d].cfg = .loaded →
    ∃ t, exec (.scrubFrameVisit .bad) s = .next t ∧ t.dbays[d].cfg = .faulted ∧ t.dbays[d].cause = 1 ∧
      t.dbays[d].frame = 7 ∧ t.dbays[d].uncorr = satInc s.dbays[d].uncorr ∧ testBit t.dbays[d].cfgEvents 1 = true ∧
      t.cfg.scrubPos = s.cfg.scrubPos + 1) ∧
  (∀ (s : State) (d : Fin 18), s.hw = true → s.dbays[d].cfg = .faulted → s.dbays[d].faultAction = false →
    exec (.faultActionApply d) s = .next (s.onDbay d fun b => { b with gsrHold := false })) ∧
  (∀ (s : State) (d : Fin 18), s.hw = true → s.dbays[d].cfg = .faulted → s.dbays[d].faultAction = true →
    ∃ t, exec (.faultActionApply d) s = .next t ∧ t.gsr d = true) ∧
  (∀ (s : State) (h : Header), Turn s → s.cfg.holder = none →
    Runs (.cfgBufOpen h) h s (fun s => { s with cfg := { s.cfg with holder := some h.part, buf := [], valid := false } })
      fun _ => done []) ∧
  (∀ (s : State) (h : Header) (offset : Word) (count : Half) (data : List Byte), Turn s → s.cfg.holder = some h.part →
    s.cfg.valid = false → offset.toNat = s.cfg.buf.length → s.cfg.buf.length + data.length ≤ 262144 →
    Runs (.cfgBufWrite h offset count data) h s
      (fun s => { s with cfg := { s.cfg with buf := s.cfg.buf ++ data } })
      fun s => done (bytesOf 4 (s.cfg.buf.length + data.length))) ∧
  (∀ (s : State) (h : Header), Turn s → s.cfg.holder = some h.part → s.cfg.buf.length = 262144 →
    headerOk s.cfg.buf = true → bodyOk s.cfg.buf = true →
    Runs (.cfgBufClose h 0) h s (fun s => { s with cfg := { s.cfg with valid := true } }) fun _ => done [1]) ∧
  (∀ (s : State) (h : Header), Turn s → s.cfg.holder = some h.part → s.cfg.buf.length < 262144 → s.bufHeld = false →
    Runs (.cfgBufClose h 1) h s
      (fun s => { s with cfg := { s.cfg with holder := none, buf := [], valid := false } }) fun _ => done [0]) ∧
  (∀ (s : State) (h : Header) (bay source : Byte) (d : Fin 18), Turn s → bay.toNat = d.val →
    (source.toNat ≤ 31 ∨ source = 0xFF) →
    (s.atTurn h).loadRefused { cmd := some (refOf h), part := h.part, bay := d, source := source } = none →
    s.cfg.queue.length < 18 →
    Begins (.cfgLoad h bay source) h s fun s => { s with cfg := { s.cfg with
      queue := s.cfg.queue ++ [{ cmd := some (refOf h), part := h.part, bay := d, source := source }] } }) ∧
  (∀ (s : State) (h : Header) (slot : Byte) (k : Fin 32) (a : Fin 34), Turn s → slot.toNat = k.val → s.cfg.valid = true →
    s.cfg.holder = some h.part → headerOk s.cfg.buf = true → s.cfg.job = none → s.saveArea = .ok a →
    Begins (.cfgStoreSave h slot) h s fun s => { s with cfg := { s.cfg with job := some (.save (refOf h) k a s.cfg.buf) } }) ∧
  (∀ (s : State) (h : Header) (slot : Byte) (k : Fin 32) (a : Fin 34), Turn s → slot.toNat = k.val →
    s.cfg.slots[k] = some a → s.cfg.job = none →
    Begins (.cfgStoreErase h slot) h s fun s => { s with cfg := { s.cfg with job := some (.erase (refOf h) k a) } }) ∧
  (∀ (s : State) (h : Header) (slot : Byte) (k : Fin 32) (a : Fin 34), Turn s → slot.toNat = k.val →
    s.cfg.slots[k] = some a →
    Runs (.cfgStoreInfo h slot) h s id fun s => done (slice s.cfg.areas[a].data 0 1024)) ∧
  (∀ (s : State) (h : Header) (bay : Byte) (d : Fin 18), Turn s → bay.toNat = d.val →
    Runs (.cfgStatusGet h bay) h s id fun s =>
      done (le 4 (cfgStatus s.dbays[d]) ++ le 8 s.dbays[d].design ++ le 4 (cfgCnt s.dbays[d]) ++ bytesOf 4 s.cfg.queue.length))

/-! ### 12 In-service repair of bays -/

/-- The moments of a repair complete (R223, R226 to R235). Model's choices: the cycles of a MEM_COPY step (log 34),
the codes that a cut-over exchanges (log 26), the settings of an analogue spare before it (log 31), what a SHADOW
compares (log 142), a step that a gap's end abandons (log 172), what the original has on the spine at F (log 187). -/
def Obligations.RepairMomentsComplete : Prop :=
  (∀ (s : State) (r : Fin 3) (x : Repair), s.serves = true → s.rep.slots[r] = some x → x.phase = .recall →
    s.halted x = false → (s.ownOf (bayCode x.spare)).owner ≠ 0 → s.part.changes = [] →
    s.owns (s.ownOf (bayCode x.spare)).owner (bayCode x.spare) = true →
    exec (.recallNoticeExpiry r) s = .next { s with part := { s.part with
      changes := [.recall (s.ownOf (bayCode x.spare)).owner (bayCode x.spare)] } }) ∧
  (∀ (s : State) (r : Fin 3) (x : Repair) (i : Fin 32) (o d : Fin 18), s.hw = true → s.rep.slots[r] = some x →
    x.phase = .prepare → s.halted x = false → x.orig = 9 + o.val → x.spare = 9 + d.val → i = domOfD d → s.isOn i = true →
    s.dbays[d].cfg = .loaded → x.memCopy = 0 →
    ∃ t, exec (.repairSparePrepared r) s = .next t ∧ t.rep.slots[r].map (·.phase) = some .warmup ∧
      t.dbays[d].peep = s.dbays[o].peep ∧ t.dbays[d].faultAction = s.dbays[o].faultAction ∧
      (∀ m : Fin 4, t.dbays[d].mems[m].depth = s.dbays[o].mems[m].depth ∧
        t.dbays[d].mems[m].window = s.dbays[d].mems[m].window) ∧
      t.rep.slots[r].map (·.effective) = some (if x.warmup.toNat < digitalWarmup t.dbays[d] then
        BitVec.ofNat 32 (digitalWarmup t.dbays[d]) else x.warmup)) ∧
  (∀ (s : State) (r : Fin 3) (x : Repair) (o d : Fin 18) (m : Fin 4) (k : Nat), s.hw = true → s.rep.slots[r] = some x →
    x.phase = .prepare → s.halted x = false → x.orig = 9 + o.val → x.spare = 9 + d.val →
    s.dbays[d].cfg = .loaded → s.clk.gap = true → copyTarget x.memCopy x.copyStep = some (m, k) →
    s.dbays[o].mems[m].errors = [] → memCalm s o m →
    ∃ t, exec (.repairMemCopyStep r) s = .next t ∧
      t.rep.slots[r] = some { x with copyStep := x.copyStep + 1 } ∧ t.dbays[o].mems[m].heldUntil = s.ck + 96 ∧
      ∀ j : Fin 64, t.memWord d m (k + j.val) = s.memWord o m (k + j.val)) ∧
  (∀ (s : State) (r : Fin 3) (x : Repair), s.hw = true → s.rep.slots[r] = some x → x.phase = .warmup →
    s.halted x = false →
    ∃ t, exec (.repairWarmupEnd r) s = .next t ∧
      t.rep.slots[r].map (·.phase) = some (if x.cold then .cutover else .compare)) ∧
  (∀ (s : State) (r : Fin 3) (x : Repair), s.hw = true → s.rep.slots[r] = some x → x.phase = .compare →
    s.halted x = false → x.missed ≤ x.missTol.toNat →
    ∃ t, exec (.repairCompareWindowEnd r) s = .next t ∧ testBit t.rep.events 0 = true ∧
      t.rep.slots[r] = some { x with phase := .ready, windows := satInc x.windows, missed := 0 }) ∧
  (∀ (s : State) (r : Fin 3) (x : Repair), s.hw = true → s.rep.slots[r] = some x → x.phase = .ready →
    s.halted x = false → x.missTol.toNat < x.missed →
    exec (.repairCompareWindowEnd r) s = .next (s.onRep r fun x => { x with phase := .compare, missed := 0 })) ∧
  (∀ (s : State) (r : Fin 3) (x : Repair) (o d : Fin 18), s.hw = true → s.rep.slots[r] = some x →
    x.orig = 9 + o.val → x.spare = 9 + d.val → s.cutDue x = true → x.cold = false → x.leadNow ≤ 64 →
    canonical 0xFFF s.lin.active = true → s.part.changes = [] →
    ∃ t, exec (.repairCutoverBoundary r) s = .next t ∧ t.rep.slots[r].map (·.past) = some true ∧
      t.rep.slots[r].map (·.phase) = some .cutover ∧ t.rep.slots[r].map (·.lead) = some (BitVec.ofNat 7 (x.leadNow)) ∧
      testBit t.rep.events 2 = true ∧ t.part.changes = [.exchange x.orig x.spare] ∧
      ∀ dst : Fin 4096, t.linActive dst.val = (spareSource x (s.linActive dst.val)).getD (s.linActive dst.val)) ∧
  (∀ (s : State) (r : Fin 3) (x : Repair), s.hw = true → s.rep.slots[r] = some x → s.cutDue x = true → x.cold = false →
    64 < x.leadNow →
    ∃ t, exec (.repairCutoverBoundary r) s = .next t ∧ t.rep.slots = s.rep.slots ∧ t.lin = s.lin ∧
      testBit t.rep.events 1 = true) ∧
  (∀ (s : State) (r : Fin 3) (x : Repair), s.hw = true → s.rep.slots[r] = some x → x.past = true →
    exec (.repairUnwarmEnd r) s = .next { s with rep := { s.rep with slots := s.rep.slots.set r (some { x with unwarm := false }) } }) ∧
  (∀ (s : State) (r : Fin 3) (x : Repair) (i : Fin 32), s.serves = true → s.rep.slots[r] = some x → x.past = true →
    s.halted x = false → x.held = [] → x.lastBeat = false → s.exchangeDrained x = true → x.orig = i.val → x.phase ≠ .retire →
    (s.dom i).state = .on →
    ∃ t, exec (.repairRetireComplete r) s = .next t ∧ t.rep.slots[r] = some { x with phase := .retire } ∧
      (t.dom i).wantOff = true) ∧
  (∀ (s : State) (r : Fin 3) (x : Repair) (i : Fin 32), s.serves = true → s.rep.slots[r] = some x → x.past = true →
    s.halted x = false → x.held = [] → x.lastBeat = false → s.exchangeDrained x = true → x.orig = i.val → x.orig < 27 → x.spare < 27 →
    (s.dom i).state = .off →
    ∃ t, exec (.repairRetireComplete r) s = .next t ∧ t.rep.slots[r] = none ∧ testBit t.rep.retired x.orig = true ∧
      testBit t.rep.spares x.spare = false)

/-- The commands of group 0x6x complete (R221, R222, R224 to R227, R231, R237). Model's choice: reserved bits in a response are 0 (log 152). -/
def Obligations.RepairCommandsComplete : Prop :=
  (∀ (s : State) (h : Header) (a : RepairArgs) (i : Nat) (r : Fin 3) (spare : Nat), Turn s →
    bayNo (a.type = 1) a.orig.toNat = some i → a.inRange = true →
    ((List.finRange 3).find? fun r => s.rep.slots[r].isNone) = some r → s.inRepair i = false →
    (s.noGapSource = false ∨ testBit a.flags 2 = true ∧ (a.mode = 1 ∨ a.calMask = 0 ∧ a.memCopy = 0)) →
    (∀ o, dBay i = some o → s.digitalRefused a h.part o = none) → s.chooseSpare (a.type = 1) i = some (spare, false) →
    (s.atTurn h).baySuspect i = false → (s.atTurn h).baySuspect spare = false →
    ∃ t, exec (.repairStart h a.type a.orig a.mode a.source a.calMask a.memCopy a.flags a.warmup a.cmpFrames a.missTol
        a.ftTol a.mask) s = .next t ∧
      t.rep.slots[r].map (·.phase) = some .prepare ∧ t.rep.slots[r].map (·.orig) = some i ∧
      t.rep.slots[r].map (·.spare) = some spare ∧ t.rep.slots[r].map (·.owner) = some h.part ∧
      t.rep.slots[r].map (·.cmd) = some (refOf h) ∧ t.rep.slots[r].map (·.cold) = some (decide (a.mode = 1))) ∧
  (∀ (s : State) (h : Header) (rep force : Byte) (r : Fin 3) (x : Repair), Turn s → rep.toNat = r.val →
    s.rep.slots[r] = some x → x.past = false → (s.atTurn h).halted x = false → x.phase = .ready → force.toNat ≤ 1 →
    Runs (.repairCutover h rep force) h s (fun s => s.onRep r fun x => { x with cutRequested := true }) fun _ => done []) ∧
  (∀ (s : State) (h : Header) (rep : Byte) (r : Fin 3) (x : Repair), Turn s → rep.toNat = r.val →
    s.rep.slots[r] = some x → x.past = false → (s.atTurn h).baySuspect x.spare = false →
    ∃ t, exec (.repairAbort h rep) s = .next t ∧ t.rep.slots[r] = none) ∧
  (∀ (s : State) (h : Header) (type bay part : Byte) (p : Fin 32) (i : Nat), Turn s → type.toNat ≤ 1 →
    bayNo (type = 1) bay.toNat = some i → part.toNat = p.val → p ≠ 0 → s.part.changes = [] → s.freeSpare i = true →
    ∃ t, exec (.repairLend h type bay part) s = .next t ∧ t.part.changes = [.lend (refOf h) p (bayCode i)]) ∧
  (∀ (s : State) (h : Header) (type bay : Byte) (i : Nat), Turn s → type.toNat ≤ 1 → bayNo (type = 1) bay.toNat = some i →
    s.inRepair i = false → testBit s.rep.retired i = true → s.returnable i = true →
    Runs (.repairReturn h type bay) h s (fun s => { s with rep := { s.rep with
      retired := clearBit s.rep.retired i, spares := setBit s.rep.spares i } }) fun _ => done []) ∧
  (∀ (s : State) (h : Header) (rep : Byte) (r : Fin 3), Turn s → rep.toNat = r.val →
    Runs (.repairStatusGet h rep) h s id fun s => done ((repWords s r).flatMap (le 4)))

/-- What the commands of bay images, configuration, scrubbing and in-service repair (but for the bytes of memory) leave alone: all that the frame function of
the family does not put back is as before. -/
def Obligations.ConfigurationAndRepairFrame : Prop :=
  ∀ (i : Instr) (s t : State), exec i s = .next t → frameConfiguration t s i = s ∧ frameRepair t s i = s

/-! ### 13 Franum links -/

/-- The moments of the links complete (R242 to R254). Model's choices: the tables and the disparity of 8b/10b (log 139), DEPTH above
511 (log 140), code violations as an operand (log 58), an injected lock loss (log 148), measured values (log 13). The CRC of the
segment gives its check value (R243). -/
def Obligations.LinkMomentsComplete : Prop :=
  (∀ (s : State) (p : Fin 4) (v : Word), s.hw = true → Trusted s (domOfL p) → testBit v 0 = true → s.ports[p].en = false →
    s.isOn (domOfL p) = true →
    ∃ t, exec (.lnkCtrlEnWrite 0 p v) s = .next t ∧ t.acc = (Status.done, 0) ∧ t.ports[p].en = true ∧
      t.ports[p].state = .settle ∧ t.ports[p].synthLock = false) ∧
  (∀ (s : State) (p : Fin 4) (v : Word), s.hw = true → Trusted s (domOfL p) → testBit v 0 = false → s.ports[p].en = true →
    ∃ t, exec (.lnkCtrlEnWrite 0 p v) s = .next t ∧ t.acc = (Status.done, 0) ∧ t.ports[p].en = false ∧
      t.ports[p].state = .disabled) ∧
  (∀ (s : State) (p : Fin 4), s.hw = true →
    exec (.lnkTxApply p) s = .next (s.onPort p fun x => { x with swingNow := x.swing, emphNow := x.emph })) ∧
  (∀ (s : State) (p : Fin 4), s.hw = true → s.ports[p].state = .settle →
    ∃ t, exec (.linkSynthSettled p) s = .next t ∧ t.ports[p].state = .seek ∧ t.ports[p].synthLock = true ∧
      t.ports[p].enabling = []) ∧
  (∀ (s : State) (p : Fin 4), s.hw = true → s.ports[p].state = .seek →
    ∃ t, exec (.linkSeekDone p) s = .next t ∧ t.ports[p].state = .deskew ∧
      ∀ l : Fin 4, t.ports[p].lanes[l].lock = true ∧ t.ports[p].lanes[l].slip.toNat ≤ 9) ∧
  (∀ (s : State) (p : Fin 4), s.hw = true → s.ports[p].state = .deskew →
    ∃ t, exec (.linkDeskewDone p) s = .next t ∧ t.ports[p].state = .exchange ∧
      ∀ l : Fin 4, t.ports[p].lanes[l].offset.toNat ≤ 8) ∧
  (∀ (s : State) (p : Fin 4) (b : List Byte) (trip arrival : Word), s.hw = true → s.ports[p].state = .exchange →
    blockOk b = true → s.ports[p].samples.length < 16 →
    exec (.trainingBlockReceived p b trip arrival) s = .next (s.onPort p fun x => { x with
      badBlocks := 0, block := some b, echo := rd 16 b 24 2, echoAt := some (s.frameStart + arrival.toNat), arrival := arrival.toNat
      samples := x.samples ++ [trip.toNat - (rd 32 b 28 4).toNat] })) ∧
  (∀ (s : State) (p : Fin 4) (b : List Byte) (trip arrival : Word), s.hw = true → s.ports[p].state = .exchange →
    blockOk b = false → s.ports[p].badBlocks = 15 →
    ∃ t, exec (.trainingBlockReceived p b trip arrival) s = .next t ∧ t.ports[p].state = .refused ∧ t.ports[p].cause = 3 ∧
      testBit t.ports[p].events 8 = true) ∧
  (∀ (s : State) (p : Fin 4) (b : List Byte), s.hw = true → s.ports[p].state = .exchange → s.ports[p].block = some b →
    s.refusal b false = none → s.ports[p].samples.length = 16 → s.ports[p].level.ck ≤ 511 →
    ∃ t, exec (.linkExchangeDone p false) s = .next t ∧ t.ports[p].state = .level ∧ t.ports[p].partner = partnerOf b) ∧
  (∀ (s : State) (p : Fin 4) (b : List Byte) (drift : Bool) (c : BitVec 3), s.hw = true → s.ports[p].state = .exchange →
    s.ports[p].block = some b → s.refusal b drift = some c →
    ∃ t, exec (.linkExchangeDone p drift) s = .next t ∧ t.ports[p].state = .refused ∧ t.ports[p].cause = c ∧
      testBit t.ports[p].events 8 = true) ∧
  (∀ (s : State) (p : Fin 4), s.hw = true → s.ports[p].state = .refused → s.ports[p].cause ≠ 4 →
    exec (.refusalCleared p) s = .next (s.onPort p fun x => { x with
      state := .exchange, cause := 0, samples := [], block := none, badBlocks := 0 })) ∧
  (∀ (s : State) (p : Fin 4), s.hw = true → s.ports[p].state = .level →
    ∃ t, exec (.linkLevelDone p) s = .next t ∧ t.ports[p].state = .up ∧ testBit t.ports[p].events 0 = true ∧
      t.ports[p].sessionHeld = true ∧
      (s.ports[p].newSession = false → t.ports[p].session = s.ports[p].session) ∧
      (s.ports[p].newSession = true → t.ports[p].session = s.ports[p].nextSession)) ∧
  (∀ (s : State) (p : Fin 4), s.hw = true → s.ports[p].state = .up → s.ports[p].lockLost = false →
    ∃ t, exec (.lockLossDetect p true) s = .next t ∧ t.ports[p].state = .up ∧ t.ports[p].lockLost = true ∧
      t.ports[p].lockLoss = satInc s.ports[p].lockLoss ∧ testBit t.ports[p].events 2 = true ∧
      t.ports[p].req = s.ports[p].req ∧ t.ports[p].rsp = s.ports[p].rsp) ∧
  (∀ (s : State) (p : Fin 4) (lost : Half), s.hw = true → s.ports[p].state = .up → s.ports[p].lockLost = true →
    s.ports[p].lockHold ≤ s.ck →
    ∃ t, exec (.lockRestore p true lost) s = .next t ∧ t.ports[p].state = .up ∧ t.ports[p].lockLost = false ∧
      testBit t.ports[p].events 3 = true) ∧
  (∀ (s : State) (p : Fin 4) (lost : Half), s.hw = true → s.ports[p].state = .up → s.ports[p].lockLost = true →
    s.ports[p].lockHold ≤ s.ck →
    ∃ t, exec (.lockRestore p false lost) s = .next t ∧ t.ports[p].state = .seek ∧ testBit t.ports[p].events 1 = true) ∧
  (∀ (s : State) (p : Fin 4), s.hw = true → s.ports[p].state = .up → s.ports[p].lockLost = true →
    ∃ t, exec (.linkDownTimeout p) s = .next t ∧ t.ports[p].state = .seek ∧ t.ports[p].lockLost = false ∧
      t.ports[p].downs = satInc s.ports[p].downs ∧ testBit t.ports[p].events 1 = true) ∧
  (∀ (s : State) (p : Fin 4), s.hw = true → s.ports[p].state = .up → s.clk.atBoundary = true →
    ∃ t, exec (.segmentDeparture p) s = .next t ∧ t.ports[p].txSeg.length = 15 ∧
      t.ports[p].txSeg.take 12 = le 12 s.ports[p].txUser ∧
      testBit (t.ports[p].txSeg.getD 12 0) 0 = (!s.ports[p].lockLost && s.ports[p].txEn && !s.segmentsHeld) ∧
      testBit (t.ports[p].txSeg.getD 12 0) 3 = s.clk.etSuspect ∧
      rd 16 t.ports[p].txSeg 13 2 = crc16 (t.ports[p].txSeg.take 13) ∧
      t.ports[p].txSuper = decide (bits s.clk.et 0 15 = 0) ∧ t.ports[p].txTrain = false ∧
      t.ports[p].txLanes = Vector.ofFn fun l : Fin 4 =>
        (encodeLane (laneOf t.ports[p].frame l) s.ports[p].lanes[l].disparity).1) ∧
  (∀ (s : State) (p : Fin 4), s.hw = true → s.ports[p].trains = true → s.clk.atBoundary = true →
    ∃ t, exec (.segmentDeparture p) s = .next t ∧ t.ports[p].mark = s.ports[p].mark + 1 ∧
      blockOk t.ports[p].txFlit = true ∧ t.ports[p].txTrain = true ∧
      ∀ l : Fin 4, (t.ports[p].txLanes[l].length = 16)) ∧
  (∀ (s : State) (p : Fin 4) (seg : List Byte), s.hw = true → s.ports[p].live = true → s.ports[p].latShift = false →
    rd 16 seg 13 2 = crc16 (slice seg 0 13) → s.armedOn 0x181 (BitVec.ofNat 8 p.val) = none →
    exec (.segmentDelivery p seg 0) s = .next (s.onPort p fun x => { x with
      rxSeg := slice seg 0 13, rxValid := testBit (seg.getD 12 0) 0
      rxSync := testBit (seg.getD 12 0) 0 && testBit (seg.getD 12 0) 1
      rxGap := testBit (seg.getD 12 0) 0 && testBit (seg.getD 12 0) 2 })) ∧
  (∀ (s : State) (p : Fin 4) (seg : List Byte) (code : Half), s.hw = true → s.ports[p].state = .up →
    rd 16 seg 13 2 ≠ crc16 (slice seg 0 13) →
    ∃ t, exec (.segmentDelivery p seg code) s = .next t ∧ t.ports[p].rxValid = false ∧
      t.ports[p].segCrc = satInc s.ports[p].segCrc ∧ t.ports[p].codeErr = satAdd s.ports[p].codeErr code.toNat) ∧
  (∀ (s : State) (p : Fin 4) (b : List Byte), s.hw = true → s.ports[p].state = .exchange → s.ports[p].block = some b →
    s.refusal b false = none → s.ports[p].samples.length = 16 → 511 < s.ports[p].level.ck →
    ∃ t, exec (.linkExchangeDone p false) s = .next t ∧ t.ports[p].state = .refused ∧ t.ports[p].cause = 5 ∧
      t.ports[p].latShift = true ∧ t.ports[p].now.valid = true ∧
      t.ports[p].now.flight = BitVec.ofNat 16 s.ports[p].level.flight) ∧
  (∀ (s : State) (p : Fin 4) (at' : Nat), s.hw = true → s.ports[p].trains = true → s.clk.atBoundary = true →
    s.ports[p].echoAt = some at' →
    ∃ t, exec (.segmentDeparture p) s = .next t ∧ rd 32 t.ports[p].txFlit 28 4 = BitVec.ofNat 32 (64 * s.ck - at')) ∧
  (∀ (s : State) (p : Fin 4) (drift : Bool), s.hw = true → s.ports[p].state = .exchange → s.ports[p].block = none →
    s.clk.lock = false ∨ drift = true →
    ∃ t, exec (.linkExchangeDone p drift) s = .next t ∧ t.ports[p].state = .refused ∧
      t.ports[p].cause = (if s.clk.lock then 2 else 4)) ∧
  crc16 (ascii "123456789") = 0x29B1

/-- The commands of the links complete (R250, R251, R254 to R257). The last four bytes of each port's part of
LNK_PARTNER_GET are free (log 29). -/
def Obligations.LinkCommandsComplete : Prop :=
  (∀ (s : State) (h : Header), Turn s →
    let u := ((List.finRange 4).map domOfL).foldl State.auditDom (s.atTurn h)
    exec (.lnkPartnerGet h) s = .next (({ u with freeCtr := u.freeCtr + 4 }).finish (refOf h)
      (done ((List.finRange 4).flatMap fun p => u.partnerBytes p (Config.freeWord (u.freeCtr + p.val)))))) ∧
  (∀ (s : State) (h : Header) (p : Fin 4), Turn s → Trusted (s.atTurn h) (domOfL p) → s.isOn (domOfL p) = true →
    s.ports[p].en = false →
    ∃ t, exec (.lnkEnable h (setBit 0 p.val) 0) s = .next t ∧ t.ports[p].en = true ∧ t.ports[p].state = .settle ∧
      t.ports[p].enabling = s.ports[p].enabling ++ [refOf h]) ∧
  (∀ (s : State) (h : Header) (p : Fin 4), Turn s → Trusted (s.atTurn h) (domOfL p) →
    Runs (.lnkEnable h 0 (setBit 0 p.val)) h s (fun s => s.setEn p false) fun _ => done []) ∧
  (∀ (s : State) (h : Header) (p : Fin 4), Turn s → Trusted (s.atTurn h) (domOfL p) → s.ports[p].state = .up →
    ∃ t, exec (.lnkRetrain h (setBit 0 p.val)) s = .next t ∧ t.ports[p].state = .seek) ∧
  (∀ (s : State) (h : Header) (p : Fin 4), Turn s → Trusted (s.atTurn h) (domOfL p) → s.ports[p].latShift = true →
    Runs (.lnkLatAck h (setBit 0 p.val)) h s (fun s => s.onPort p fun x => { x with
      recd := { x.now with valid := true }, latShift := false }) fun _ => done [])

/-! ### 14 The reliable channel -/

/-- The commands of the reliable channel complete (R261 to R276). Model's choices: slots that become free are seen from the
next CK cycle (log 60), the address of a packet to a module without one (log 116), packets for this module wait in a list
without a bound (log 68), reserved bits in a response are 0 (log 152). The CRC of a flit gives its check value (R260). -/
def Obligations.ChannelCompletes : Prop :=
  (∀ (s : State) (p : Fin 4) (x : Packet), s.hw = true → s.ports[p].live = true → s.ports[p].rsp.firstDue = none →
    s.ports[p].req.firstDue = none → s.ports[p].canSend .rsp = false → s.ports[p].canSend .req = true →
    s.ports[p].source .req = some x → s.armedOn 0x184 0 = none → s.armedOn 0x185 0 = none →
    s.ports[p].req.replay.find? (fun g => g.seq = s.ports[p].req.nextSeq && !g.acked) = none →
    ∃ t, exec (.flitChoice p .clean) s = .next t ∧ t.ports[p].req.nextSeq = s.ports[p].req.nextSeq + 1 ∧
      t.ports[p].req.replay.length = s.ports[p].req.replay.length + 1 ∧ flitCrcOk t.ports[p].txFlit = true ∧
      (readFlit t.ports[p].txFlit).seq = s.ports[p].req.nextSeq ∧ (readFlit t.ports[p].txFlit).vc = .req ∧
      (readFlit t.ports[p].txFlit).kind = kindCode x.kind ∧ t.ports[p].avcRsp = !s.ports[p].avcRsp) ∧
  (∀ (s : State) (p : Fin 4), s.hw = true → s.ports[p].live = true → s.ports[p].rsp.firstDue = none →
    s.ports[p].req.firstDue = none → s.ports[p].canSend .rsp = false → s.ports[p].canSend .req = false →
    ∃ t, exec (.flitChoice p .clean) s = .next t ∧ (readFlit t.ports[p].txFlit).kind = 0 ∧
      flitCrcOk t.ports[p].txFlit = true ∧ t.ports[p].req = s.ports[p].req ∧ t.ports[p].rsp = s.ports[p].rsp) ∧
  (∀ (s : State) (p : Fin 4) (f : SentFlit), s.hw = true → s.ports[p].live = true → s.ports[p].rsp.firstDue = some f →
    ∃ t, exec (.flitChoice p .clean) s = .next t ∧ t.ports[p].retx = satInc s.ports[p].retx ∧
      (readFlit t.ports[p].txFlit).seq = f.seq ∧ (readFlit t.ports[p].txFlit).vc = .rsp ∧
      t.ports[p].req = s.ports[p].req) ∧
  (∀ (s : State) (p : Fin 4) (b : List Byte), s.hw = true → s.ports[p].live = true → flitCrcOk b = false →
    ∃ t, exec (.flitArrival p b) s = .next t ∧ t.ports[p] = { s.ports[p] with flitCrc := satInc s.ports[p].flitCrc }) ∧
  (∀ (s : State) (p : Fin 4) (b : List Byte), s.hw = true → s.ports[p].live = true → flitCrcOk b = true →
    s.armedOn 0x182 (BitVec.ofNat 8 p.val) = none → (readFlit b).session ≠ s.ports[p].session →
    exec (.flitArrival p b) s = .next (s.onPort p fun x => { x with sessionErr := satInc x.sessionErr })) ∧
  (∀ (s : State) (p : Fin 4) (b : List Byte), s.hw = true → s.ports[p].live = true → flitCrcOk b = true →
    s.armedOn 0x182 (BitVec.ofNat 8 p.val) = none → (readFlit b).session = s.ports[p].session →
    (readFlit b).formed = true → (readFlit b).kind = 2 → (readFlit b).vc = .req →
    ((readFlit b).seq - s.ports[p].req.e - 1).toNat < 256 →
    (s.ports[p].req.reorder.any fun g => g.seq = (readFlit b).seq) = false →
    ∃ t, exec (.flitArrival p b) s = .next t ∧ t.ports[p].req.reorder = s.ports[p].req.reorder ++ [{
      seq := (readFlit b).seq, kind := .record, first := (readFlit b).first, last := (readFlit b).last
      poison := (readFlit b).poison, payload := (readFlit b).payload.take (readFlit b).len.toNat }]) ∧
  (∀ (s : State) (p : Fin 4) (f : HeldFlit), s.hw = true → s.ports[p].req.nextHeld = some f → f.first = true →
    f.last = true → f.kind = .darem → rd 16 f.payload 0 2 = s.node.addr →
    ∃ t, exec (.flitDelivery p .req) s = .next t ∧ t.ports[p].req.e = s.ports[p].req.e + 1 ∧ t.ports[p].req.ackv = true ∧
      t.ports[p].req.consumer = .none ∧ t.keeperIn = s.keeperIn ++ [(.link p, f.payload, f.poison)]) ∧
  (∀ (s : State) (p q : Fin 4) (f : HeldFlit), s.hw = true → s.ports[p].req.nextHeld = some f → f.first = true →
    f.last = true → rd 16 f.payload 0 2 ≠ s.node.addr → rd 16 f.payload 0 2 ≠ 0xFFFF →
    s.route (rd 16 f.payload 0 2) = some q → s.ports[p].req.fwdUsed + 15 ≤ 384 →
    ∃ t, exec (.flitDelivery p .req) s = .next t ∧ t.ports[p].req.e = s.ports[p].req.e + 1 ∧
      t.keeperIn = s.keeperIn ∧ t.ports[p].req.fwd = s.ports[p].req.fwd ++ [{
        port := q, packet := { kind := f.kind, bytes := f.payload, source := none, forwarded := true, poison := if f.poison then [0] else [] } }]) ∧
  (∀ (s : State) (p q : Fin 4) (f : HeldFlit), s.hw = true → s.ports[p].req.nextHeld = some f → f.first = true →
    rd 16 f.payload 0 2 ≠ s.node.addr → rd 16 f.payload 0 2 ≠ 0xFFFF → s.route (rd 16 f.payload 0 2) = some q →
    384 < s.ports[p].req.fwdUsed + 15 → exec (.flitDelivery p .req) s = .next s) ∧
  (∀ (s : State) (p : Fin 4) (v : Vc), s.hw = true → s.ports[p].live = true →
    ((s.ports[p].vc v).replay.any fun f => !f.acked) = true →
    ∃ t, exec (.replayTimerExpiry p v true) s = .next t ∧ t.ports[p].timeouts = satInc s.ports[p].timeouts ∧
      testBit t.ports[p].rcEvents 0 = true) ∧
  (∀ (s : State) (p : Fin 4) (h : Holder) (f : Forwarded) (rest : List Forwarded), s.hw = true →
    s.ports[p].req.fwd = f :: rest → s.arb.holder = some h → h.k.val = 28 + p.val → h.rsp = false →
    h.packet = some f.packet → s.armedOn 0x240 (BitVec.ofNat 8 h.k.val) = none →
    ∃ t, exec (.forwardingMove p .req) s = .next t ∧ t.ports[p].req.fwd = rest ∧ t.arb.holder = s.arb.next ∧
      t.ports[p].req.fwdHidden = s.ports[p].req.fwdHidden + h.slots ∧
      t.ports[h.port].orqReq = s.ports[h.port].orqReq ++ [f.packet]) ∧
  (∀ (s : State) (p : Fin 4) (k : Fin 32) (f : Forwarded) (rest : List Forwarded), s.hw = true → k.val = 28 + p.val →
    s.ports[p].rsp.fwd = [] → s.ports[p].req.fwd = f :: rest → s.holds k = false → s.arb.reqs[k].waiting = none →
    rd 16 f.packet.bytes 0 2 ≠ s.node.addr → (s.route (rd 16 f.packet.bytes 0 2)).isSome = true →
    ∃ t, exec (.forwardingMove p .req) s = .next t ∧ t.ports[p].req.fwd = f :: rest ∧
      t.arb.reqs[k].waiting = some {
        deadline := s.clk.et + s.arb.reqs[k].deadline.setWidth 48, raised := s.ck
        bytes := f.packet.bytes.length, xlen := xlenOf f.packet.bytes.length, dest := rd 16 f.packet.bytes 0 2, rsp := false
        stamped := s.arb.stampCount }) ∧
  (∀ (s : State) (p : Fin 4) (v : Word), s.hw = true → Trusted s (domOfL p) → testBit v 0 = true →
    Writes (.lnkRcCntClear 0 p v) 0 s (s.onPort p clearRc)) ∧
  (∀ (s : State) (h : Header) (entry : Half) (count : Byte) (vals : List Byte), Turn s →
    entry.toNat + vals.length ≤ 320 →
    ∃ t, exec (.lnkRouteSet h entry count vals) s = .next t ∧
      (∀ i : Fin 64, i.val < vals.length → look 0 t.routes (entry.toNat + i.val) = bits (vals.getD i.val 0) 0 3) ∧
      ∀ e : Fin 320, e.val < entry.toNat ∨ entry.toNat + vals.length ≤ e.val → look 0 t.routes e.val = look 0 s.routes e.val) ∧
  (∀ (s : State) (h : Header) (port : Byte) (p : Fin 4), Turn s → port.toNat = p.val →
    Runs (.lnkRcStatusGet h port) h s id fun s => done (rcStatus s.ports[p])) ∧
  crc32 (ascii "123456789") = 0xCBF43926

/-- What the commands of the links and of the Hopolink channel leave alone: all that the frame function of
the family does not put back is as before. -/
def Obligations.LinkAndChannelFrame : Prop :=
  ∀ (i : Instr) (s t : State), exec i s = .next t → frameLinks t s i = s ∧ frameChannel t s i = s

/-! ### 15 Readout records, the spine and the deadline arbiter -/

/-- The commands of the spine and the arbiter complete (R280 to R294). Model's choices: LATE of a transfer is judged
as it ends (log 138), REQ 0 withdraws and a holder raises no second request (log 143), what a SHADOW takes over of its
original's records (log 33), slots that become free are seen from the next CK cycle (log 60), the mask of a SHADOW
spare (log 171), DL between two rows (log 175). -/
def Obligations.ArbiterCompletes : Prop :=
  (∀ (s : State) (k : Fin 32) (dl : Half) (blen : BitVec 4) (dest : Half) (p : Fin 4), s.hw = true → k.val < 18 →
    s.shadowOf k true = none → s.shadowOf k false = none → s.reqMasked k = false → s.arb.reqs[k].waiting = none →
    s.holds k = false → dest ≠ s.node.addr → s.route dest = some p →
    ∃ t, exec (.arbRequestRaise k true dl blen dest) s = .next t ∧ t.arb.reqs[k].waiting = some {
      deadline := s.clk.et + dl.setWidth 48, raised := s.ck, bytes := 16 + 8 * (blen.toNat + 1), xlen := blen.toNat, dest := dest
      rsp := false, stamped := s.arb.stampCount }) ∧
  (∀ (s : State) (k : Fin 32) (dl : Half) (blen : BitVec 4) (dest : Half), s.hw = true → k.val < 18 →
    s.shadowOf k true = none → s.shadowOf k false = none → s.reqMasked k = false → s.arb.reqs[k].waiting = none →
    s.holds k = false → (dest = s.node.addr ∨ s.route dest = none) →
    ∃ t, exec (.arbRequestRaise k true dl blen dest) s = .next t ∧ t.arb.reqs[k].waiting = none ∧
      t.arb.reqs[k].noroute = satInc s.arb.reqs[k].noroute ∧ t.arb.reqs[k].refusedNext = true ∧
      testBit t.arb.events 2 = true) ∧
  (∀ (s : State) (k : Fin 32) (dl : Half) (blen : BitVec 4) (dest : Half), s.hw = true →
    exec (.arbRequestRaise k false dl blen dest) s = .next (s.onReq k fun x => { x with dl := dl, waiting := none })) ∧
  (∀ (s : State) (k : Fin 32) (dl : Half) (blen : BitVec 4) (dest : Half), s.hw = true → s.shadowOf k true = none →
    s.holds k = true →
    exec (.arbRequestRaise k true dl blen dest) s = .next (s.onReq k fun x => { x with dl := dl })) ∧
  (∀ (s : State) (k : Fin 18) (n : Fin 32) (dl : Half) (q : Request), s.hw = true → n.val = k.val →
    s.arb.reqs[n].waiting = some q →
    ∃ t, exec (.readoutRestamp k dl) s = .next t ∧ t.arb.reqs[n].dl = dl ∧ t.arb.reqs[n].waiting = some { q with
      deadline := s.clk.et + dl.setWidth 48, stamped := s.arb.stampCount }) ∧
  (∀ (s : State) (k p : Fin 32) (q : Request), s.hw = true → s.reqOwner k = p → (∀ i ∈ reqDoms k, Trusted s i) →
    s.arb.reqs[k].waiting = some q →
    ∃ t, exec (.arbRestamp p (setBit 0 k.val)) s = .next t ∧ t.acc = (Status.done, 0) ∧
      t.arb.reqs[k].waiting.map (·.deadline) =
        some (s.clk.et + (if k.val < 18 then s.arb.reqs[k].dl else s.arb.reqs[k].deadline).setWidth 48)) ∧
  (∀ (s : State) (k : Fin 32) (q : Request) (p : Fin 4), s.hw = true → s.arb.holder = none → k.val < 27 →
    s.sweepRequests.winner = some (k, q) → s.sweepRequests.reqPort k q = some p →
    ∃ t, exec .arbDecision s = .next t ∧ t.arb.holder.map (·.k) = some k ∧ t.arb.holder.map (·.request) = some q ∧
      t.arb.lastHolder = k ∧ t.arb.reqs[k].waiting = none ∧
      t.ports[p].reservedReq = s.ports[p].reservedReq + flitsOf q.bytes ∧ t.arb.nextRseq = s.arb.nextRseq) ∧
  (∀ (s : State) (h : Holder) (cause : Fin 4) (bubbles : Byte), s.hw = true → s.arb.holder = some h → h.packet = none →
    h.rsp = false → s.tearCause h cause bubbles.toNat = true →
    ∃ t, exec (.arbTear cause bubbles none) s = .next t ∧ t.arb.holder = s.arb.next ∧ t.arb.nextRseq = s.arb.nextRseq ∧
      t.arb.reqs[h.k].torn = satInc s.arb.reqs[h.k].torn ∧ t.arb.reqs[h.k].tornNext = true ∧
      t.ports[h.port].orqReq = s.ports[h.port].orqReq ∧
      t.ports[h.port].req.orqLeaving = s.ports[h.port].req.orqLeaving + h.slots ∧ testBit t.arb.events 0 = true) ∧
  (∀ (s : State) (h : Holder) (cause : Fin 4) (bubbles lead : Byte), s.hw = true → s.arb.holder = none → s.arb.cut = some h →
    2 ≤ cause.val → h.request.deadline ≠ s.beatZero h lead.toNat →
    passed h.request.deadline (s.beatZero h lead.toNat) = true →
    ∃ t, exec (.arbTear cause bubbles (some lead)) s = .next t ∧ t.arb.cut = none ∧
      t.arb.reqs[h.k].late = satInc s.arb.reqs[h.k].late ∧ t.arb.reqs[h.k].torn = s.arb.reqs[h.k].torn ∧
      testBit t.arb.events 1 = true) ∧
  (∀ (s : State) (h : Holder) (src : Fin 32) (beats : List Byte) (bubbles lead : Byte), s.hw = true →
    s.arb.holder = some h → h.packet = none → h.rsp = false → h.k.val < 18 → s.shadowOf h.k false = none →
    src.val = s.arb.reqs[h.k].srcnum.toNat → s.cutCause h.k = none → bubbles.toNat ≤ s.arb.bubbleMax.toNat →
    lead.toNat ≤ bubbles.toNat → s.armedOn 0x240 (BitVec.ofNat 8 h.k.val) = none →
    ∃ t, exec (.arbCommit beats bubbles lead) s = .next t ∧ t.arb.holder = s.arb.next ∧
      t.arb.nextRseq[src] = s.arb.nextRseq[src] + 1 ∧ t.arb.skipped[src] = 0 ∧
      t.arb.reqs[h.k].late = (if h.request.deadline ≠ s.beatZero h lead.toNat ∧ passed h.request.deadline (s.beatZero h lead.toNat) = true then
        satInc s.arb.reqs[h.k].late else s.arb.reqs[h.k].late) ∧
      t.ports[h.port].orqReq = s.ports[h.port].orqReq ++ [{
        kind := .record, poison := [], source := some (src, s.arb.nextRseq[src])
        bytes := s.recordHeader h src lead.toNat ++ slice beats 0 (8 * (h.request.xlen + 1)) }]) ∧
  (∀ (s : State) (h : Holder) (beats : List Byte) (bubbles lead : Byte), s.hw = true → s.arb.holder = some h →
    h.packet = none → h.rsp = false → s.cutCause h.k = none → s.arb.bubbleMax.toNat < bubbles.toNat →
    ∃ t, exec (.arbCommit beats bubbles lead) s = .next t ∧ t.arb.nextRseq = s.arb.nextRseq ∧
      t.arb.reqs[h.k].torn = satInc s.arb.reqs[h.k].torn ∧ t.ports[h.port].orqReq = s.ports[h.port].orqReq) ∧
  (∀ (s : State) (v : Word), s.hw = true → testBit v 0 = true →
    Writes (.arbCntClear 0 v) 0 s { s with arb := { s.arb with reqs := s.arb.reqs.map clearReq } }) ∧
  (∀ (s : State) (v : Word), s.hw = true → testBit v 0 = true →
    Writes (.orqClear 0 v) 0 s { s with ports := s.ports.map fun x => { x with
      peakReq := x.orqUsed .req, peakRsp := x.orqUsed .rsp } })

/-! ### 16 Darem commands, the ledger and the event log; 23 register accesses -/

/-- The single register accesses complete (R5, R6, R401, R402). Model's choices: the outcome of a single access stays in
a field of the model (log 8), an event in the cycle of its clear is an operand (log 66). -/
def Obligations.AccessCompletes : Prop :=
  (∀ (s : State) (p : Fin 32) (addr v : Word) (r : Reg), s.hw = true → targetAt addr.toNat = some (.reg r) → r.single = true →
    (r.access p (s.unstage p)).writable = true → (r.access p (s.unstage p)).who v = true →
    (∀ i ∈ (r.access p (s.unstage p)).doms v, Trusted s i) → (r.access p (s.unstage p)).range v = true →
    (r.access p (s.unstage p)).rule none v = none →
    exec (.registerWrite p addr v) s = .next { (r.access p (s.unstage p)).act none v (s.unstage p) with
      acc := (Status.done, 0) }) ∧
  (∀ (s : State) (p : Fin 32) (addr v : Word) (r : Reg), s.hw = true → targetAt addr.toNat = some (.reg r) →
    (r.access p (s.unstage p)).writable = false → r.stages = false →
    exec (.registerWrite p addr v) s = .next { s.unstage p with acc := (Status.done, 0) }) ∧
  (∀ (s : State) (p : Fin 32) (addr v : Word), s.hw = true → targetAt addr.toNat = none →
    exec (.registerWrite p addr v) s = .next { s.unstage p with acc := (Status.outOfRange, 0) }) ∧
  (∀ (s : State) (p : Fin 32) (c : Clk), s.hw = true →
    ∃ t, exec (.wideFieldSnapshotRead p 0x1010) s = .next t ∧ t.acc = (Status.done, bits s.clk.et 0 32) ∧
      bits (({ t with clk := c }).readAddr p 0x1014).2.1 0 16 = bits s.clk.et 32 16) ∧
  (∀ (s : State) (p : Fin 32) (addr v : Word) (r : Reg), s.hw = true → targetAt addr.toNat = some (.reg r) →
    r.stages = true → (r.access p s).who v = true → (∀ i ∈ (r.access p s).doms v, Trusted s i) → r.addr = addr.toNat →
    exec (.wideFieldLowWrite p addr v) s = .next { s.unstage p with
      acc := (Status.done, 0)
      staged := (s.staged.filter fun x => x.part ≠ p) ++ [{ part := p, addr := addr.toNat, value := v.toNat }] }) ∧
  (∀ (s : State) (p : Fin 32) (v w : Word), s.hw = true → s.owns p 0xC1 = true → s.stagedAt p 0xA030 = some w →
    Writes (.wideFieldHighWrite p 0xA034 v) p s { s with prb := { s.prb with et := bits v 0 16 ++ w } }) ∧
  (∀ (s : State) (p : Fin 32) (t : Fin 16) (v w : Word), s.hw = true → s.owns p (0x90 + t.val) = true →
    s.timers[t].en = false → s.stagedAt p (0x2F508 + 16 * t.val) = some w → bits v 16 16 = 0 →
    Writes (.wideFieldHighWrite p (0x2F50C + 16 * BitVec.ofNat 32 t.val) v) p s (s.onTimer t fun x => {
      x with offset := bits v 0 16 ++ w })) ∧
  (∀ (s : State) (v again : Word), s.hw = true →
    Writes (.latchedEventClear 0 0x1008 v again) 0 s (s.onClk fun x => { x with
      events := (x.events &&& ~~~(v &&& 0x3F)) ||| (v &&& again &&& 0x3F) })) ∧
  (∀ (s : State) (p : Fin 32) (addr v : Word), s.hw = true →
    exec (.registerWrite p addr v) s = .next { (s.writeAddr p addr.toNat v).2 with
      acc := ((s.writeAddr p addr.toNat v).1, 0) }) ∧
  (∀ (s : State) (v : Word), s.hw = true → Writes (.registerWrite 0 0x1028 v) 0 s (s.onClk fun x => {
    x with period := bits v 0 16, length := bits v 16 16, genPend := true })) ∧
  (∀ (s : State) (p : Fin 32) (d : Fin 18) (m : Fin 4) (k : BitVec 10) (addr v : Word), s.hw = true →
    addr.toNat = memAddr d m k.toNat → s.owns p (0x10 + d.val) = true → Trusted s (domOfD d) → s.windowOpen d m = true →
    ∃ t, exec (.registerWrite p addr v) s = .next t ∧ t.acc = (Status.done, 0) ∧ t.memWord d m k.toNat = v) ∧
  (∀ (s : State) (p : Fin 32) (addr : Word) (r : Reg), s.hw = true → targetAt addr.toNat = some (.reg r) → r.words ≠ [] →
    ∃ t, exec (.wideFieldSnapshotRead p addr) s = .next t ∧ t.acc = (Status.done, (s.readReg p r).1) ∧
      t.snapOf p addr.toNat = some (s.wideValue p r.words).1) ∧
  (∀ (s : State) (v : Word), s.hw = true →
    exec (.wideFieldLowWrite 0 0x1018 v) s = .next { s with
      acc := (Status.done, 0)
      staged := (s.staged.filter fun x => x.part ≠ 0) ++ [{ part := 0, addr := 0x1018, value := v.toNat }] }) ∧
  (∀ (s : State) (p : Fin 32) (t : Fin 16) (v : Word), s.hw = true → s.owns p (0x90 + t.val) = true →
    exec (.wideFieldLowWrite p (0x2F508 + 16 * BitVec.ofNat 32 t.val) v) s = .next { s with
      acc := (Status.done, 0)
      staged := (s.staged.filter fun x => x.part ≠ p) ++
        [{ part := p, addr := 0x2F508 + 16 * t.val, value := v.toNat }] }) ∧
  (∀ (s : State) (p : Fin 32) (v : Word), s.hw = true → s.owns p 0xC1 = true →
    exec (.wideFieldLowWrite p 0xA030 v) s = .next { s with
      acc := (Status.done, 0)
      staged := (s.staged.filter fun x => x.part ≠ p) ++ [{ part := p, addr := 0xA030, value := v.toNat }] }) ∧
  (∀ (s : State) (v : Word), s.hw = true →
    Writes (.wideFieldHighWrite 0 0x101C v) 0 s (s.onClk fun x => { x with
      syncValue := bits v 0 16 ++ (s.stagedAt 0 0x1018).getD (bits x.syncValue 0 32) })) ∧
  (∀ (s : State) (p : Fin 32) (t : Fin 16) (v : Word), s.hw = true → s.owns p (0x90 + t.val) = true →
    s.timers[t].en = false →
    Writes (.wideFieldHighWrite p (0x2F50C + 16 * BitVec.ofNat 32 t.val) v) p s (s.onTimer t fun x => { x with
      offset := bits v 0 16 ++ (s.stagedAt p (0x2F508 + 16 * t.val)).getD (bits x.offset 0 32) })) ∧
  (∀ (s : State) (p : Fin 32) (v : Word), s.hw = true → s.owns p 0xC1 = true →
    Writes (.wideFieldHighWrite p 0xA034 v) p s { s with prb := { s.prb with
      et := bits v 0 16 ++ (s.stagedAt p 0xA030).getD (bits s.prb.et 0 32) } })

/-- The host's commands complete (Table 16-7, R308, R311, R315, R319, R320). Model's choices: what counts as a use
(log 44), the log's ring and the records that wait (log 45), a failed erase (log 57), EVT_SUBSCRIBE's EN (log 63),
re-runs (log 94), UPTO of RESULT_RELEASE (log 62), a REG_MODIFY whose read fails (log 151), the resources that a
command names (log 163), reserved bits in a response are 0 (log 152). -/
def Obligations.HostCompletes : Prop :=
  (∀ (s u : State) (c : CmdRef) (e : Entry) (r : Reply), s.serves = true → s.pwr.nvwDefer = false → s.ldg.reruns = [c] →
    s.entry c = some e →
    (e.rerun.map fun run => run (({ s with ldg := { s.ldg with reruns := [] } }).begun c)) = some (u, some r) →
    exec (.ledgerRerunDone c.part c.id) s = .next (u.finish c r)) ∧
  (∀ (s : State) (h : Header) (data : List Byte), Turn s → Runs (.ping h data) h s id fun _ => done data) ∧
  (∀ (s : State) (h : Header) (addr : Word) (count : Byte) (rs : List Reg), Turn s → 1 ≤ rs.length → rs.length ≤ 119 →
    count.toNat = rs.length → (∀ k : Fin rs.length, targetAt (addr.toNat + 4 * k.val) = some (.reg rs[k])) →
    (∀ r ∈ rs, r.words = [] ∧ r.low = none ∧ (r.access h.part (s.atTurn h)).mask = 0xFFFFFFFF) →
    Runs (.regRead h addr count) h s ((wordDoms addr count.toNat).foldl State.auditDom) fun s =>
      done (rs.flatMap fun r => le 4 (r.access h.part ((wordDoms addr count.toNat).foldl State.auditDom s)).val)) ∧
  (∀ (s : State) (h : Header) (addr : Word) (v : Word) (r : Reg), Turn s → targetAt addr.toNat = some (.reg r) →
    r.single = true → (r.access h.part ((s.atTurn h).unstage h.part)).Takes v →
    Runs (.regWrite h addr 1 [v]) h s (fun s => (r.access h.part (s.unstage h.part)).act none v (s.unstage h.part))
      fun _ => done []) ∧
  (∀ (s : State) (h : Header) (addr : Word) (v w : Word) (r : Reg), Turn s → targetAt addr.toNat = some (.reg r) →
    r.single = true → (r.access h.part ((s.atTurn h).unstage h.part)).Takes v →
    targetAt (addr.toNat + 4) = none →
    Runs (.regWrite h addr 2 [v, w]) h s (fun s => ((r.access h.part (s.unstage h.part)).act none v (s.unstage h.part)).unstage
      h.part) fun _ => failed Status.outOfRange [1]) ∧
  (∀ (s u : State) (h : Header) (addr mask value new : Word) (r : Reg), Turn s → targetAt addr.toNat = some (.reg r) →
    r.single = true → u = (wordDoms addr 1).foldl State.auditDom (s.atTurn h) → (r.access h.part u).mask = 0xFFFFFFFF →
    new = ((r.access h.part u).val &&& ~~~mask) ||| (value &&& mask) →
    (r.access h.part (u.unstage h.part)).Takes new →
    exec (.regModify h addr mask value) s = .next (((r.access h.part (u.unstage h.part)).act none new
      (u.unstage h.part)).finish (refOf h) (done (le 4 (r.access h.part u).val)))) ∧
  (∀ (s : State) (i : Fin 256), s.serves = true → s.ldg.segs[i].state = .erasing →
    s.mayWrite (.segment i) = true →
    ∃ t, exec (.ledgerSegmentErase (BitVec.ofFin i) true) s = .next t ∧ t.ldg.segs[i].state = .free ∧
      t.ldg.segs[i].used = 0) ∧
  (∀ (s : State) (i : Fin 256), s.serves = true → s.ldg.segs[i].state = .erasing →
    s.mayWrite (.segment i) = true →
    ∃ t, exec (.ledgerSegmentErase (BitVec.ofFin i) false) s = .next t ∧ t.ldg.segs[i].state = .retired ∧
      testBit t.ldg.events 0 = true) ∧
  (∀ (s : State) (h : Header) (id : Word) (e : Entry) (r : Reply), Turn s →
    (s.atTurn h).entry { part := h.part, id := id } = some e → e.result = some r →
    Runs (.resultGet h id) h s (fun s => s.touchEntry { part := h.part, id := id }) fun _ => done (r.status :: r.body)) ∧
  (∀ (s : State) (h : Header) (count : Byte) (ids : List Word), Turn s →
    ∃ t, exec (.resultRelease h 0 count ids) s = .next t ∧ ∀ e ∈ (s.atTurn h).ldg.entries, e.part = h.part →
      e.result.isSome = true → ids.contains e.id = true →
      (t.ldg.entries.any fun x => x.part == e.part && x.id == e.id && x.released) = true) ∧
  (∀ (s : State) (h : Header) (count : Byte) (id : Word), Turn s →
    ∃ t, exec (.resultRelease h 1 count [id]) s = .next t ∧ ∀ e ∈ (s.atTurn h).ldg.entries, e.part = h.part →
      (id - e.id).toNat < 2 ^ 31 → (t.ldg.entries.any fun x => x.part == e.part && x.id == e.id && x.released) = true) ∧
  (∀ (s : State) (h : Header), Turn s →
    Runs (.ldgStatusGet h) h s id fun s => done (le 4 (ldgStatus s) ++ le 4 (ldgSpace s) ++ le 4 (ldgSegs s) ++
      le 4 s.ldg.floors[h.part])) ∧
  (∀ (s : State) (h : Header) (node : Half) (en : Byte), Turn s → en.toNat ≤ 1 →
    Runs (.evtSubscribe h node en) h s (fun s => { s with log := { s.log with subs := s.log.subs.set h.part {
      node := node, en := decide (en = 1)
      pseq := if en = 1 ∧ (s.log.subs[h.part].en = false ∨ s.log.subs[h.part].node ≠ node) then 0
        else s.log.subs[h.part].pseq } } }) fun _ => done []) ∧
  (∀ (s : State) (h : Header) (count : Byte) (a b : List Rec) (r : Rec), Turn s → h.part = 0 → 1 ≤ count.toNat →
    count.toNat ≤ 28 → (s.atTurn h).kept = a ++ r :: b → (∀ x ∈ a, carriedLt r.lseq x.lseq = false ∧ x.lseq ≠ r.lseq) →
    Runs (.evtLogRead h r.lseq count) h s id fun _ => done (le 4 r.lseq ++
      le 4 (nextLseq (((r :: b).take count.toNat).getLastD r).lseq) ++ ((r :: b).take count.toNat).flatMap recBytes)) ∧
  (∀ (s : State) (h : Header) (lseq : Word) (count : Byte) (r : Rec) (b : List Rec), Turn s → h.part = 0 →
    1 ≤ count.toNat → count.toNat ≤ 28 → (s.atTurn h).kept = r :: b → carriedLt lseq r.lseq = true →
    Runs (.evtLogRead h lseq count) h s id fun _ => done (le 4 r.lseq ++
      le 4 (nextLseq (((r :: b).take count.toNat).getLastD r).lseq) ++ ((r :: b).take count.toNat).flatMap recBytes)) ∧
  (∀ (s : State) (i : Fin 256) (c : CmdRef) (e : Entry), s.serves = true → s.pwr.nvwDefer = false →
    s.ldg.openSeg = i.val → s.ldg.segs[i].state = .live → s.ldg.last = some (.command c) → s.entry c = some e → e.seg = i.val →
    s.armedOn 0x1C0 (BitVec.ofFin i) = none →
    ∃ t, exec (.ledgerSegmentErase (BitVec.ofFin i) false) s = .next t ∧ t.ldg.segs[i].state = .retired ∧
      testBit t.ldg.events 0 = true ∧ ∀ k : Fin 256, s.freshSeg = some k → t.ldg.openSeg = k.val ∧
        t.ldg.segs[k].state = .live ∧ t.ldg.segs[k].used = e.size ∧ t.ldg.segs[k].liveRecords = 1 ∧
        (t.entry c).map (·.seg) = some k.val)

/-- What the commands of the arbiter, of the access rows and of the host leave alone: all that the frame function of
the family does not put back is as before. -/
def Obligations.ArbiterAndHostFrame : Prop :=
  ∀ (i : Instr) (s t : State), exec i s = .next t → frameArbiter t s i = s ∧ frameHost t s i = s

/-! ### 17 Partitions, ownership rules and key slots -/

/-- The moments of partitions and keys complete (R326 to R335). Model's choices: the block of each table record (log
123), the live generations of the key store (log 124), the codes that a lending moves (log 26), the drain set of a
cut-over's revocation (log 30), the leases of commands (log 49), KCV after an erase (log 85), records of both stores stand
whatever their verification gives (log 149). -/
def Obligations.PartitionMomentsComplete : Prop :=
  (∀ (s : State) (p : Fin 32) (g : Half) (x : Gen) (m : Nat), s.serves = true →
    (s.keys.slots[p].gens.filter fun y => y.gen = g) = [x] → (x.leases.map (·.taken)).min? = some m →
    ∃ t, exec (.keyLeaseExpiry p g) s = .next t ∧ t.currentKey p = s.currentKey p ∧
      (s.keys.slots[p].gen ≠ g → (x.leases.all fun l => l.taken = m) = true →
        (t.keys.slots[p].gens.any fun y => y.gen = g) = false) ∧
      ((x.leases.all fun l => l.taken = m) = false → (t.keys.slots[p].gens.filter fun y => y.gen = g) =
        [{ x with leases := x.leases.filter fun l => l.taken ≠ m }])) ∧
  (∀ (s : State) (c : CmdRef) (p : Fin 32) (key : List Byte) (kcv : Word), s.serves = true →
    s.keys.jobs = [.write c p key kcv] → s.keyGen p (nextGen s.keys.slots[p].gen) = none → s.mayWrite .key = true →
    s.keyRoom = true →
    ∃ t, exec .keyRecordCommit s = .next t ∧ t.currentKey p = some (nextGen s.keys.slots[p].gen, key) ∧
      t.keys.slots[p].kcv = kcv ∧ t.keys.slots[p].writes = satInc s.keys.slots[p].writes ∧ t.keys.jobs = [] ∧
      t.keys.active = s.keys.active + 1 ∧ testBit t.keys.events 0 = true ∧
      (t.keys.blocks[t.keys.active].copies.any fun x => x.slot = p && x.key = key) = true) ∧
  (∀ (s : State) (c : CmdRef) (p : Fin 32), s.serves = true → s.keys.jobs = [.erase c p] → s.mayWrite .key = true →
    s.keyRoom = true →
    ∃ t, exec .keyRecordCommit s = .next t ∧ t.currentKey p = none ∧ t.keys.slots[p].gen = s.keys.slots[p].gen ∧
      (∀ x ∈ t.keys.slots[p].gens, x.leases ≠ []) ∧ t.keys.jobs = [] ∧ testBit t.keys.events 1 = true ∧
      t.keys.active = s.keys.active + 1 ∧
      ∀ x ∈ t.keys.blocks[t.keys.active].copies, x.slot = p → (t.keys.slots[p].gens.any fun y => y.gen = x.gen) = true) ∧
  (∀ (s : State) (c : CmdRef) (p : Fin 32) (codes : List Nat), s.serves = true → s.part.changes = [.grant c p codes] →
    s.mayWrite .table = true →
    ∃ t, exec .ownershipRecordCommit s = .next t ∧ t.part.epoch = nextEpoch s.part.epoch ∧ t.part.changes = [] ∧
      t.part.tableBlock = s.part.tableBlock + 1 ∧ t.part.loss = s.part.loss ∧ (∀ k ∈ codes, t.ownOf k = { owner := p, draining := false, lent := false }) ∧
      ∀ k : Fin 0x340, codes.contains k.val = false → t.ownOf k.val = s.ownOf k.val) ∧
  (∀ (s : State) (c : CmdRef) (p : Fin 32) (force : Bool) (limit : Nat) (codes : List Nat), s.serves = true →
    s.part.changes = [.revoke c p force limit codes] → s.mayWrite .table = true →
    ∃ t, exec .ownershipRecordCommit s = .next t ∧ t.part.epoch = nextEpoch s.part.epoch ∧
      t.part.loss = s.part.loss.set p (nextEpoch s.part.epoch) ∧ testBit t.part.events 0 = true ∧
      (∀ k ∈ codes, t.ownOf k = { owner := 0, draining := true, lent := (s.ownOf k).lent }) ∧
      t.part.drains = s.part.drains ++ [{
        cmd := some c, loser := p, codes := codes, epoch := nextEpoch s.part.epoch, force := force
        expiry := s.ck + 250000 * limit, aborted := 0 }]) ∧
  (∀ (s : State) (c : CmdRef) (p : Fin 32) (i : Fin 27), s.serves = true → s.part.changes = [.lend c p (bayCode i.val)] →
    s.mayWrite .table = true →
    ∃ t, exec .ownershipRecordCommit s = .next t ∧ t.part.epoch = nextEpoch s.part.epoch ∧
      t.ownOf (bayCode i.val) = { owner := p, draining := false, lent := true } ∧ testBit t.rep.loans i.val = true) ∧
  (∀ (s : State) (d : Drain), s.serves = true → s.part.drains = [d] → s.drainSet d = [] →
    s.pwr.nvwDefer = false → (∀ r : Fin 3, s.rep.slots[r] = none) →
    ∃ t, exec .revocationDrained s = .next t ∧ t.part.drains = [] ∧ testBit t.part.events 1 = true ∧
      ∀ k ∈ d.codes, t.ownOf k = { s.ownOf k with draining := false, lent := false }) ∧
  (∀ (s : State) (d : Drain) (c : CmdRef) (e : Entry), s.serves = true → s.pwr.nvwDefer = false → s.part.drains = [d] →
    d.force = true → d.cmd = some c → d.aborted = 0 → s.entry c = some e → e.op = 0x71 → e.result = none →
    (s.drainSet d).length < 65536 → ((s.drainSet d).all fun e => e.ref ≠ c) = true → (∀ r : Fin 3, s.rep.slots[r] = none) →
    ∃ t, exec .drainLimitExpiry s = .next t ∧ t.part.drains = [] ∧
      (t.entry c).map (·.result) = some (some (done (bytesOf 2 (s.drainSet d).length))) ∧
      ∀ k ∈ d.codes, (t.ownOf k).draining = false)

/-- The commands of group 0x7x complete (Table 17-2). Model's choices: the block of each table record (log 123), the generations that
BUSY counts (log 96), the hashes (log 18), a record of the table stands whatever its verification gives (log 149), reserved bits in a
response are 0 (log 152). -/
def Obligations.PartitionCommandsComplete : Prop :=
  (∀ (s : State) (h : Header) (part count : Byte) (codes : List Half) (p : Fin 32), Turn s → part.toNat = p.val → p ≠ 0 →
    (∀ k ∈ codes, codeListed k.toNat = true) → s.part.changes = [] → (∀ k ∈ codes, s.grantable k.toNat = true) →
    ∃ t, exec (.partGrant h part count codes) s = .next t ∧
      t.part.changes = [.grant (refOf h) p (codes.map (·.toNat))] ∧ t.part.own = s.part.own) ∧
  (∀ (s : State) (h : Header) (part count : Byte) (codes : List Half) (limit : Half) (p : Fin 32), Turn s →
    part.toNat = p.val → p ≠ 0 → (∀ k ∈ codes, codeListed k.toNat = true) → s.part.changes = [] →
    (∀ k ∈ codes, s.owns p k.toNat = true) →
    ∃ t, exec (.partRevoke h part limit count codes) s = .next t ∧
      t.part.changes = [.revoke (refOf h) p h.force limit.toNat (codes.map (·.toNat))] ∧ t.part.own = s.part.own) ∧
  (∀ (s : State) (h : Header) (part count : Byte) (codes : List Half) (p : Fin 32), Turn s → part.toNat = p.val → p ≠ 0 →
    (∀ k ∈ codes, codeListed k.toNat = true) → s.part.changes = [] → (codes.any fun k => !s.grantable k.toNat) = true →
    ∃ t, exec (.partGrant h part count codes) s = .next t ∧ t.part.changes = [] ∧ t.part.own = s.part.own) ∧
  (∀ (s : State) (h : Header) (first : Half) (count : Byte), Turn s → 1 ≤ count.toNat → count.toNat ≤ 200 →
    first.toNat + count.toNat ≤ 0x340 →
    Runs (.partTableGet h first count) h s id fun s => done (le 4 s.part.epoch ++
      (List.range count.toNat).flatMap fun i => ownPair s (first.toNat + i))) ∧
  (∀ (s : State) (h : Header) (target : Byte) (wrapped : List Byte) (kcv : Word) (p : Fin 32) (g : Half) (k : List Byte),
    Turn s → target.toNat = p.val → (s.atTurn h).currentKey h.part = some (g, k) →
    keyKcv (xorBytes wrapped (hmac k (ascii "ZKW1" ++ [target] ++ le 4 h.cmdId))) = kcv → (s.atTurn h).keys.jobs = [] →
    (s.atTurn h).keys.slots[p].gens.length < 4 →
    Begins (.keyWrite h target 1 wrapped kcv) h s fun s => { s with keys := { s.keys with
      jobs := [.write (refOf h) p (xorBytes wrapped (hmac k (ascii "ZKW1" ++ [target] ++ le 4 h.cmdId))) kcv] } }) ∧
  (∀ (s : State) (h : Header) (key : List Byte) (ch : Fin 4), Turn s → h.path = .can ch → h.part = 0 →
    (s.atTurn h).keys.slots[0].present = false → (s.atTurn h).keys.jobs = [] →
    (s.atTurn h).keys.slots[0].gens.length < 4 →
    Begins (.keyWrite h 0 0 key (keyKcv key)) h s fun s => { s with keys := { s.keys with
      jobs := [.write (refOf h) 0 key (keyKcv key)] } }) ∧
  (∀ (s : State) (h : Header) (target : Byte) (p : Fin 32), Turn s → target.toNat = p.val →
    Begins (.keyErase h target) h s fun s => { s with keys := { s.keys with jobs := s.keys.jobs ++ [.erase (refOf h) p] } }) ∧
  (∀ (s : State) (h : Header) (target : Byte) (p : Fin 32), Turn s → target.toNat = p.val →
    Runs (.keyStatusGet h target) h s id fun s => done (le 4 (keySlotWord s.keys.slots[p]) ++
      le 4 (keyLeaseWord s.keys.slots[p]) ++ le 4 s.keys.slots[p].kcv ++ le 4 (keyCntWord s.keys.slots[p]))) ∧
  (∀ (s : State) (h : Header) (part : Byte) (lo hi : Half) (p : Fin 32), Turn s → part.toNat = p.val → 4 ≤ lo.toNat →
    lo.toNat ≤ hi.toNat → hi.toNat ≤ 256 → (s.atTurn h).sumMin p lo.toNat ≤ 256 →
    Runs (.partQuotaSet h part lo hi 0) h s (fun s => ({ s with part := { s.part with
      quota := s.part.quota.set p { min := lo.toNat, max := hi.toNat, auth := false } } }).tableRecord) fun _ => done []) ∧
  (∀ (s : State) (h : Header) (part : Byte) (lo hi : Half) (p : Fin 32), Turn s → part.toNat = p.val → 4 ≤ lo.toNat →
    lo.toNat ≤ hi.toNat → hi.toNat ≤ 256 → (s.atTurn h).sumMin p lo.toNat ≤ 256 → (s.atTurn h).keys.slots[p].present = true →
    Runs (.partQuotaSet h part lo hi 1) h s (fun s => ({ s with part := { s.part with
      quota := s.part.quota.set p { min := lo.toNat, max := hi.toNat, auth := true } } }).tableRecord) fun _ => done []) ∧
  (∀ (s : State) (h : Header) (part : Byte) (lo hi : Half) (p : Fin 32), Turn s → part.toNat = p.val → 4 ≤ lo.toNat →
    lo.toNat ≤ hi.toNat → hi.toNat ≤ 256 → (s.atTurn h).sumMin p lo.toNat ≤ 256 → (s.atTurn h).keys.slots[p].present = false →
    Runs (.partQuotaSet h part lo hi 1) h s id fun _ => failed Status.notReady)

/-! ### 18 The slow-control bus -/

/-- The commands of the slow-control bus complete (R343 to R354). Model's choices: the arithmetic of TEC and REC (log
28, PRESUMED), the draw of a DISCOVER delay (log 14), an announce waits for room (log 146), the packets that wait for the
keeper and for the spine, in lists without a bound (log 68). -/
def Obligations.CanCompletes : Prop :=
  (∀ (s : State) (id : BitVec 11) (hd : Byte) (bs : List Byte), s.canOn = true → s.can.dup = false →
    bits id 8 3 = 2 → (bits id 2 6 = 0x3F ∨ s.ownGa id = true) → testBit hd 7 = true → testBit hd 6 = true →
    ∃ t, exec (.canFrameReceive (some (id, hd :: bs)) 0) s = .next t ∧ t.can.alone = false ∧
      t.can.rxFrames = satInc s.can.rxFrames ∧
      t.keeperIn = s.keeperIn ++ [(.can (bits id 0 2).toFin, bs.take (packetLength bs), false)]) ∧
  (∀ (s : State) (id : BitVec 11) (hd : Byte) (bs : List Byte) (x : CanPart), s.canOn = true → s.can.dup = false →
    bits id 8 3 = 2 → s.ownGa id = true → testBit hd 7 = false → testBit hd 6 = false → s.can.rx = [x] → x.id = id →
    ∃ t, exec (.canFrameReceive (some (id, hd :: bs)) 0) s = .next t ∧ t.keeperIn = s.keeperIn ∧
      ((bits hd 0 4).toNat = x.index + 1 → t.can.rx = [{ x with index := x.index + 1, bytes := x.bytes ++ bs }] ∧
        t.can.segErr = s.can.segErr) ∧
      ((bits hd 0 4).toNat ≠ x.index + 1 → t.can.rx = [] ∧ t.can.segErr = satInc s.can.segErr)) ∧
  (∀ (s : State) (id : BitVec 11) (bs : List Byte), s.canOn = true → s.can.dup = false → bits id 8 3 = 5 →
    s.ownGa id = true → bs.length = 24 → rd 49 bs 8 8 ≠ Config.dieId →
    ∃ t, exec (.canFrameReceive (some (id, bs)) 0) s = .next t ∧ t.can.dup = true ∧ testBit t.can.events 3 = true ∧
      t.keeperIn = s.keeperIn) ∧
  (∀ (s : State) (x : CanPart), s.kpr = true → s.can.rx = [x] →
    exec (.canReassemblyTimeout x.id) s = .next { s with can := { s.can with rx := [], segErr := satInc s.can.segErr } }) ∧
  (∀ (s : State) (p : CanPacket), s.canOn = true → s.can.dup = false → s.can.alone = false → s.can.txq = [p] →
    s.can.waiting = [] → p.frames ≤ s.can.frame + 1 →
    ∃ t, exec .canFrameSent s = .next t ∧ t.can.txq = [] ∧ t.can.frame = 0 ∧ t.can.attempts = 0 ∧
      t.can.tec = s.can.tec - 1 ∧ t.can.txFrames = satInc s.can.txFrames) ∧
  (∀ s : State, s.canOn = true → s.canHead.isSome = true →
    ∃ t, exec (.canTransmitError true) s = .next t ∧ t.can.attempts = s.can.attempts + 1 ∧ t.can.txq = s.can.txq ∧
      t.can.tec = (if s.can.errPassive then s.can.tec else s.can.tec + 8)) ∧
  (∀ (s : State) (ack : Bool), s.canOn = true → s.can.alone = true → s.can.tec < 248 →
    ∃ t, exec (.canTransmitError ack) s = .next t ∧ t.can.attempts = s.can.attempts ∧
      t.can.tec = (if ack = true ∧ s.can.errPassive = true then s.can.tec else s.can.tec + 8)) ∧
  (∀ (s : State) (n : Nat), s.canOn = true → s.can.recErr ≤ 127 → 127 < s.can.recErr + n →
    ∃ t, exec (.canFrameReceive none n) s = .next t ∧ t.can.errPassive = true ∧ t.keeperIn = s.keeperIn) ∧
  (∀ s : State, s.canOn = true → (s.canHead.isSome = true ∨ s.can.alone = true) → 248 ≤ s.can.tec →
    ∃ t, exec (.canTransmitError false) s = .next t ∧ t.can.busOff = true) ∧
  (∀ s : State, s.canOn = true → s.canHead.isSome = true → s.can.retryMax.toNat ≤ s.can.attempts →
    (∀ p : Fin 32, s.log.subs[p].en = false) →
    ∃ t, exec .canFrameAbandon s = .next t ∧ t.can.alone = true ∧ t.can.txq = [] ∧ t.can.waiting = [] ∧
      t.can.abandoned = satAdd s.can.abandoned (s.can.txq.length + s.can.waiting.length) ∧
      testBit t.can.events 0 = true) ∧
  (∀ s : State, s.canOn = true → s.can.alone = true →
    ∃ t, exec (.canAloneAnnounce true) s = .next t ∧ t.can.alone = false ∧ testBit t.can.events 1 = true) ∧
  (∀ s : State, s.canOn = true → s.can.dup = true → s.can.txq = [] →
    exec .canDupAnnounce s = .next { s with can := { s.can with
      txq := [{ id := canId 5 s.canGa 0, raw := true, bytes := s.announceBody false }] } }) ∧
  (∀ s : State, s.kpr = true → s.can.busOff = true →
    ∃ t, exec .canBusOffRecovery s = .next t ∧ t.can.busOff = false ∧ t.can.tec = 0 ∧ t.can.recErr = 0 ∧
      testBit t.can.events 2 = true) ∧
  (∀ s : State, s.kpr = true →
    exec .canCtrlApply s = .next { s with can := { s.can with enNow := s.can.en, termNow := s.can.term, brsNow := s.can.brsEn } }) ∧
  (∀ (s : State) (v : Word), s.hw = true → testBit v 0 = true →
    Writes (.canCntClear 0 v) 0 s { s with can := { s.can with
      txFrames := 0, rxFrames := 0, segErr := 0, dropped := 0, abandoned := 0, discarded := 0 } }) ∧
  (∀ (s : State) (h : Header), Turn s → h.dest ≠ 0xFFFF →
    Runs (.discover h) h s id fun s => done (s.announceBody false)) ∧
  (∀ (s : State) (h : Header) (p : Fin 4), s.kpr = true → s.resuming = false → s.fw.recovery = false → h.path = .link p →
    s.mustWait h = false → h.dest = 0xFFFF → h.poisoned = false → wellSized h [] = true → h.flags = 0 → s.part.quota[h.part].auth = false →
    s.node.valid = false →
    ∃ t, exec (.discover h) s = .next t ∧ t.keeperOut = s.keeperOut ∧
      t.can.delayed.length = s.can.delayed.length + 1 ∧ t.can.delayed.take s.can.delayed.length = s.can.delayed ∧
      (∀ x ∈ t.can.delayed.drop s.can.delayed.length, x.1 = .link p ∧ s.ck ≤ x.2.2 ∧ x.2.2 ≤ s.ck + 15 * 250000)) ∧
  (∀ (s : State) (p : Fin 4) (ps : List (List Byte)) (n : Nat), s.kpr = true → s.can.delayed = [(.link p, ps, n)] →
    exec .discoverDelayedResponse s = .next { s with
      can := { s.can with delayed := [] }
      keeperOut := s.keeperOut ++ ps.map fun b => { kind := .darem, bytes := b, poison := [], source := none } })

/-! ### 19 Keeper firmware: slots, update and rollback -/

/-- The commands of the keeper's firmware complete (R355 to R367). Model's choices: the cause codes of FW_ROLLBACK
(log 51), whether a program fails is a free value (log 149), the erase that reaches the count (log 97), the boot
selector at the bar (log 144), a switch to the active slot (log 56), FW_VERIFY of an EMPTY slot (log 98), the check
that a corrupted slot fails (log 173), the keys (log 15), reserved bits in a response are 0 (log 152). -/
def Obligations.FirmwareCompletes : Prop :=
  (∀ (s : State) (c : CmdRef) (k : Fin 2) (h : List Byte), s.kpr = true → s.fw.erasing = [(c, k, h)] → s.pwr.nvwDefer = false →
    s.armedOn 0x1C1 (BitVec.ofNat 8 k.val) = none → s.fw.slots[k].worn = false →
    (∀ b : Fin 64, s.fw.slots[k].erases[b] < 99999) →
    ∃ t, exec (.fwEraseComplete true) s = .next t ∧ t.fw.slots[k].header = h ∧ t.fw.slots[k].body = [] ∧
      t.fw.slots[k].state = (if fwLen h = 256 then .written else .writing) ∧ t.fw.slots[k].worn = s.fw.slots[k].worn ∧
      ∀ b : Fin 64, t.fw.slots[k].erases[b] = s.fw.slots[k].erases[b] + if b.val < (fwLen h + 65535) / 65536 then 1 else 0) ∧
  (∀ (s : State) (c : CmdRef) (k : Fin 2) (h : List Byte), s.kpr = true → s.fw.erasing = [(c, k, h)] → s.pwr.nvwDefer = false →
    s.fw.slots[k].worn = false →
    ∃ t, exec (.fwEraseComplete false) s = .next t ∧ t.fw.slots[k].worn = true ∧ t.fw.slots[k].state = .empty ∧
      testBit t.fw.events 3 = true) ∧
  (∀ (s : State) (c : CmdRef) (k : Fin 2), s.kpr = true → s.fw.verifying = [(c, k)] → s.pwr.nvwDefer = false →
    s.fw.slots[k].check s.fw.floor = none →
    ∃ t, exec .fwVerifyComplete s = .next t ∧ t.fw.slots[k].state = .verified ∧ t.fw.verifying = []) ∧
  (∀ (s : State) (c : CmdRef) (k : Fin 2), s.kpr = true → s.fw.verifying = [(c, k)] → s.pwr.nvwDefer = false →
    s.fw.slots[k].check s.fw.floor ≠ none →
    ∃ t, exec .fwVerifyComplete s = .next t ∧ t.fw.slots[k].state ≠ .verified ∧ t.fw.slots[k].state ≠ .valid ∧
      t.fw.verifying = []) ∧
  (∀ s : State, s.kpr = true → s.fw.trial = true → s.pwr.nvwDefer = false → s.fw.confirmLeft ≠ 0 →
    exec .fwConfirmTick s = .next (s.onFw fun x => { x with confirmLeft := x.confirmLeft - 1 })) ∧
  (∀ (s : State) (c : CmdRef) (k : Fin 2) (gap : Bool), s.kpr = true → s.fw.switching = some (c, k, gap) →
    s.pwr.nvwDefer = false → (gap = false ∨ s.gapOpens = true) → s.fw.slots[k].boots s.fw.floor = true →
    ∃ t, exec .fwSwitchRestart s = .next t ∧ t.pwr.phase = .booting ∧ t.fw.active = k ∧ t.fw.trial = true ∧
      t.fw.tries = 1 ∧ t.fw.lastStart = 2 ∧ t.fw.switched = some c ∧ t.pwr.cause = s.pwr.cause) ∧
  (∀ s : State, s.kpr = true → s.fw.trial = true → s.fw.confirmLeft = 0 → s.pwr.nvwDefer = false →
    s.fw.slots[otherSlot s.fw.active].boots s.fw.floor = true →
    ∃ t, exec .fwConfirmExpiry s = .next t ∧ t.pwr.phase = .booting ∧ t.fw.active = otherSlot s.fw.active ∧
      t.fw.trial = false ∧ t.fw.lastStart = 3 ∧ t.fw.rollback = some 0 ∧ t.fw.floor = s.fw.floor) ∧
  (∀ s : State, s.pwr.phase = .booting → s.fw.trial = true → s.fw.slots[otherSlot s.fw.active].boots s.fw.floor = true →
    ∃ t, exec .fwTrialBootTimeout s = .next t ∧ t.pwr.phase = .booting ∧ t.fw.active = otherSlot s.fw.active ∧
      t.fw.trial = false ∧ t.fw.lastStart = 3 ∧ t.fw.rollback = some 2 ∧ t.fw.floor = s.fw.floor) ∧
  (∀ (s : State) (h : Header), Turn s →
    Runs (.fwInfoGet h) h s id fun s => done (([fwStatus s.fw, s.fw.floor, field s.fw.confirmLeft 0] ++
      fwSlotWords s.fw.slots[0] ++ fwSlotWords s.fw.slots[1]).flatMap (le 4))) ∧
  (∀ (s : State) (h : Header) (slot : Byte) (header : List Byte) (k : Fin 2), Turn s → slot.toNat = k.val →
    k ≠ s.fw.active → s.fw.trial = false → s.fw.slots[k].worn = false →
    ∃ t, exec (.fwWriteBegin h slot header) s = .next t ∧
      (fwHeaderCheck s.fw.floor header = none →
        t.fw.erasing = s.fw.erasing ++ [(refOf h, k, header)] ∧ t.fw.slots[k].state = .empty) ∧
      (fwHeaderCheck s.fw.floor header ≠ none → t.fw = s.fw)) ∧
  (∀ (s : State) (h : Header) (slot : Byte) (header : List Byte) (k : Fin 2), Turn s → slot.toNat = k.val →
    k ≠ s.fw.active → s.fw.trial = false → s.fw.slots[k].worn = false → fwFormOk header = false →
    Runs (.fwWriteBegin h slot header) h s id fun _ => failed Status.badImage [1]) ∧
  (∀ (s : State) (h : Header) (slot : Byte) (offset : Word) (count : Half) (data : List Byte) (k : Fin 2), Turn s →
    slot.toNat = k.val → s.fw.slots[k].state = .writing → s.fw.erasing = [] → offset.toNat = s.fw.slots[k].length →
    s.fw.slots[k].length + data.length ≤ fwLen s.fw.slots[k].header → s.fw.slots[k].factory = false →
    s.fw.slots[k].header ≠ [] → s.fw.slots[k].worn = false → s.armedOn 0x1C1 slot = none →
    ∃ t, exec (.fwWrite h slot offset count data) s = .next t ∧
      (if Config.flashFails (s.atTurn h).freeCtr then t.fw.slots[k].worn = true ∧ t.fw.slots[k].body = s.fw.slots[k].body
      else t.fw.slots[k].body = s.fw.slots[k].body ++ data ∧
        t.fw.slots[k].length = s.fw.slots[k].length + data.length ∧
        t.fw.slots[k].state = if s.fw.slots[k].length + data.length = fwLen s.fw.slots[k].header then .written
          else .writing)) ∧
  (∀ (s : State) (h : Header) (slot : Byte) (k : Fin 2), Turn s → slot.toNat = k.val →
    Begins (.fwVerify h slot) h s fun s => s.onFw fun x => { x with verifying := x.verifying ++ [(refOf h, k)] }) ∧
  (∀ (s : State) (h : Header) (slot mode : Byte) (k : Fin 2), Turn s → slot.toNat = k.val → mode.toNat ≤ 1 →
    s.fw.trial = false → s.fw.switching = none → k ≠ s.fw.active → s.fw.slots[k].state = .verified →
    (mode = 1 ∨ s.clk.gapSrc ≠ 0) →
    Begins (.fwSwitch h slot mode) h s fun s => s.onFw fun x => { x with switching := some (refOf h, k, decide (mode = 0)) }) ∧
  (∀ (s : State) (h : Header), Turn s → s.fw.trial = true →
    ∃ t, exec (.fwConfirm h) s = .next t ∧ t.fw.trial = false ∧ t.fw.confirmLeft = 0 ∧ testBit t.fw.events 1 = true ∧
      t.fw.floor = if s.fw.floor.toNat < s.fw.slots[s.fw.active].svn.toNat then s.fw.slots[s.fw.active].svn else s.fw.floor)

/-- What the commands of the slow-control bus and of the firmware leave alone: all that the frame function of
the family does not put back is as before. -/
def Obligations.CanAndFirmwareFrame : Prop :=
  ∀ (i : Instr) (s t : State), exec i s = .next t → frameCan t s i = s ∧ frameFirmware t s i = s

/-! ### 20 Identity, error detectors and deliberate fault injection -/

/-- The commands of identity and injection complete (R371, R377, R378). Model's choices: the release of a held condition (log 43), the
number of checks of a detector (log 67), DURATION with EN 0 (log 99). -/
def Obligations.InjectionCompletes : Prop :=
  (∀ (s : State) (j : Fin 16) (a : Armed), s.serves = true → s.inj.armed[j] = some a →
    exec (.injectTimeout j) s =
      .next (({ s with inj := { s.inj with armed := s.inj.armed.set j none } }).finish a.cmd (failed Status.aborted))) ∧
  (∀ s : State, s.serves = true → s.inj.enable = true →
    ∃ t, exec .injectWindowExpiry s = .next t ∧ t.inj.enable = false ∧ (∀ j : Fin 16, t.inj.armed[j] = none) ∧
      testBit t.inj.events 1 = true) ∧
  (∀ s : State, s.hw = true → s.pwr.warn = true → s.inj.held = [0x082] → s.pwr.dieT.toInt < warnClear →
    exec (.injectedConditionRelease 0x082) s = .next { s with
      inj := { s.inj with held := [] }, pwr := { s.pwr with warn := false } }) ∧
  (∀ s : State, s.hw = true → s.pwr.nvwDefer = true → s.inj.held = [0x083] → s.pwr.dieT.toInt < barClear →
    ∃ t, exec (.injectedConditionRelease 0x083) s = .next t ∧ t.pwr.nvwDefer = false ∧ t.inj.held = []) ∧
  (∀ (s : State) (h : Header), Turn s → Runs (.idGet h) h s id fun s => done s.idBody) ∧
  (∀ (s : State) (h : Header) (duration : Half), Turn s → 1 ≤ duration.toNat → duration.toNat ≤ 3600 →
    ∃ t, exec (.injectEnable h 1 duration) s = .next t ∧ t.inj.enable = true ∧
      t.inj.expiry = s.ck + duration.toNat * 250000000 ∧ testBit t.inj.events 0 = true) ∧
  (∀ (s : State) (h : Header) (duration : Half), Turn s → s.inj.enable = true →
    ∃ t, exec (.injectEnable h 0 duration) s = .next t ∧ t.inj.enable = false ∧ (∀ j : Fin 16, t.inj.armed[j] = none) ∧
      testBit t.inj.events 1 = true) ∧
  (∀ (s : State) (h : Header) (det : Half) (unit : Byte) (arg : Word) (timeout : Half) (j : Fin 16), Turn s →
    s.inj.enable = true → detUnitOk det.toNat unit.toNat = true → detArgOk det.toNat arg = true → det ≠ 0x200 →
    1 ≤ timeout.toNat → timeout.toNat ≤ 60000 → ((s.atTurn h).armedOn (det.setWidth 10) unit) = none →
    ((List.finRange 16).find? fun j => (s.atTurn h).inj.armed[j].isNone) = some j →
    Begins (.inject h det unit arg timeout) h s fun s => { s with inj := { s.inj with armed := s.inj.armed.set j (some {
      det := det.setWidth 10, unit := unit, arg := arg, cmd := refOf h, left := detChecks det.toNat }) } }) ∧
  (∀ (s : State) (h : Header) (arg : Word) (timeout : Half), Turn s → s.inj.enable = true → 1 ≤ timeout.toNat →
    timeout.toNat ≤ 60000 → (s.atTurn h).armedOn 0x200 0 = none → s.inj.count < 16 →
    ∃ t, exec (.inject h 0x200 0 arg timeout) s = .next t ∧ t.pwr.phase = .booting ∧ t.inj.enable = false ∧
      t.unstarted = [] ∧ look 0 t.inj.injected 0x200 = satInc (look 0 s.inj.injected 0x200))

/-- What the commands of partitions, keys and injections leave alone: all that the frame function of
the family does not put back is as before. -/
def Obligations.PartitionAndInjectionFrame : Prop :=
  ∀ (i : Instr) (s t : State), exec i s = .next t → framePartition t s i = s ∧ frameInject t s i = s

/-! ### The block as a whole -/

/-- The command in front of the queue runs: a step is `exec` on it with the queue's rest. -/
def Obligations.StepRunsTheFront : Prop :=
  ∀ (c : Instr) (rest : List Instr) (s : State),
    step { s with pending := c :: rest } = exec c { s with pending := rest }

/-- On an empty queue the block does its own work (the model's choice, log 3): the keeper's next packet, an accepted command
whose turn has come, or one cycle of CK, in which ET counts (R17), timers fire (R114), destinations present what their
sources did two cycles before (R166), and I/O cells sample or drive their pins (R192 to R194). -/
def Obligations.EmptyQueueDoesOwnWork : Prop :=
  (∀ (s : State) (path : Sys2Proof.Path) (bs : List Byte) (poisoned : Bool) (rest : List (Sys2Proof.Path × List Byte × Bool))
    (i : Instr), s.pending = [] → s.serves = true → s.keeperIn = (path, bs, poisoned) :: rest → 20 ≤ bs.length →
    parse (openPacket path poisoned bs).1 (openPacket path poisoned bs).2.1 (openPacket path poisoned bs).2.2 = .command i →
    step s = exec i { s with keeperIn := rest, taken := true }) ∧
  (∀ (s : State) (c : CmdRef) (i : Instr), s.pending = [] → s.serves = true → s.keeperIn = [] → s.nextStart = some (c, i) →
    step s = exec i { s.dropUnstarted c with resuming := true }) ∧
  (∀ s : State, s.pending = [] → s.hw = true → (s.kpr = false ∨ s.keeperIn = [] ∧ s.nextStart = none) →
    ∃ t, step s = .next t ∧ t.clk.et = s.clk.et + 1 ∧ t.ck = s.ck + 1 ∧ t.lin.out = s.lin.pipe ∧
      t.lin.pipe = (s.lin.active.filter fun x => s.srcValue x.2.toNat).map (·.1) ∧
      (∀ x : Fin 16, t.timers[x] = s.timers[x].tick (s.clk.et + 1)) ∧
      ∀ x : Fin 24, (decide (x.val < 8) && testBit s.prb.aux x.val) = false → t.io[x] = s.nextCell x) ∧
  (∀ s : State, s.pending = [] → s.hw = false → step s = .next { s with ck := s.ck + 1 })

/-- Every command answers a next state, whatever the state: none faults, none is refused. It leaves the queue and the
model's clock alone. That a moment whose conditions do not hold answers too is the model's choice (log 2). -/
def Obligations.EveryCommandAnswers : Prop :=
  ∀ (i : Instr) (s : State), ∃ t, exec i s = .next t ∧ t.pending = s.pending ∧ t.ck = s.ck

/-- A selection of the registers of chapters 01 to 10 reads, in the defined bits, the reset values that the tables of those
chapters give. -/
def Obligations.CoreRegistersAtReset : Prop :=
  let reads (r : Reg) (v : Word) : Prop := (r.access 0 State.reset).val &&& (r.access 0 State.reset).mask = v
  (reads (.clk .status) 0x4A ∧ reads (.clk .ctrl) 1 ∧ reads (.clk .etLo) 0 ∧ reads (.clk .etHi) 0 ∧
    reads (.clk .gapStats) 0xFFFF0000 ∧ reads (.clk .syncCtrl) 0 ∧ reads (.clk .gapCtrl) 0 ∧ reads (.clk .syncCount) 0) ∧
  (reads (.pwr .domState) 0 ∧ reads (.pwr .domReq) 0 ∧ reads (.pwr .domTripped) 0 ∧ reads (.pwr .domSuspect) 0 ∧
    reads (.pwr .peak) 0x8000 ∧ ∀ i, reads (.pwr (.ctrl i)) 0) ∧
  (reads (.sash .status) 0 ∧ reads (.sash .expect) 0 ∧ reads (.sash .ramp) 10 ∧ reads (.sash .peakT) 0x8000 ∧
    ∀ g, reads (.sash (.biasSet g)) 0) ∧
  (∀ a, reads (.abay a .slotEn) 0 ∧ reads (.abay a .mux) 0 ∧ ∀ k, reads (.abay a (.cmpLo k)) 0xFFF ∧ reads (.abay a (.cmpHi k)) 0xFFF) ∧
  (reads (.xbar .asb) 0x0F0F0F0F ∧ ∀ o, reads (.xbar (.oct o)) (0xF0 + BitVec.ofNat 32 o.val)) ∧
  (∀ n, reads (.adc n .ctrl) 0 ∧ reads (.adc n .tag) 0 ∧ ∀ e, reads (.adc n (.entCfg e)) 0 ∧ reads (.adc n (.entWin e)) 0x1FFF2000) ∧
  (∀ n, reads (.wdac n .ctrl) 0 ∧ reads (.wdac n .div) 1 ∧ reads (.wdac n .ring) 0x3FF ∧ reads (.wdac n .amp) 0x7FFF) ∧
  (reads (.cal .gapCfg) 0x0020000C ∧ reads (.cal .limits) 0x00102010 ∧ ∀ j, reads (.cal (.job j)) 0) ∧
  (reads (.lin .offSrc) 0xFFF ∧ ∀ x : Fin 4096, (linDest x.val).isSome = true → reads (.lin (.active (BitVec.ofNat 12 x.val))) 0xFFF) ∧
  (reads (.prb .aux) 0 ∧ reads (.prb .capStatus) 0 ∧ ∀ i, reads (.io (.ctrl i)) 0)

/-- A selection of the registers of chapters 11 to 20 reads, in the defined bits, the reset values that the tables of those
chapters give. -/
def Obligations.ServiceRegistersAtReset : Prop :=
  let reads (r : Reg) (v : Word) : Prop := (r.access 0 State.reset).val &&& (r.access 0 State.reset).mask = v
  (∀ d, reads (.cfg d .bayStatus) 2 ∧ reads (.cfg d .status) 0 ∧ reads (.cfg d .ctrl) 0) ∧
  (reads (.rep .spare) 0x06000100 ∧ reads (.rep .loan) 0 ∧ reads (.rep .retired) 0) ∧
  (∀ p, reads (.lnk p .ctrl) 1 ∧ reads (.lnk p .latTarget) 10 ∧ reads (.lnk p .downTime) 1024 ∧ reads (.lnk p .tx) 0x24 ∧
    reads (.rc p .ctrl) 256 ∧ reads (.rc p .rx) 0x03FF03FF ∧ reads (.rc p .fwd) 0x00800180 ∧ reads (.rc p .session) 0) ∧
  (reads (.arb .ctrl) 2 ∧ reads (.arb .mask) 0x07FFFFFF ∧ ∀ k, reads (.arb (.req k)) (if k.val < 27 then 0x03E80001 else 0x03E80002) ∧
    reads (.arb (.dest k)) (BitVec.ofNat 32 (k.val * 65536))) ∧
  (reads (.ldg .status) 0 ∧ reads (.ldg .segs) 256 ∧ reads (.kpr .evtLost) 0 ∧ ∀ p, reads (.ldg (.floor p)) 0 ∧ reads (.kpr (.evtSub p)) 0) ∧
  (reads (.part .epoch) 1 ∧ reads (.part .status) 0x00800000 ∧ ∀ p, reads (.part (.cfg p)) 0x00020004 ∧ reads (.part (.loss p)) 0 ∧
    reads (.key (.slot p)) 0) ∧
  (reads (.can .status) 0 ∧ reads (.can .err) 0 ∧ reads (.fw .confirmTime) 600 ∧ reads (.fw .confirmLeft) 0) ∧
  (reads (.inj .type) 0x5A546432 ∧ reads (.inj .ctrl) 0 ∧ reads (.inj .status) 0 ∧ ∀ j, reads (.inj (.arm j)) 0)

/-- The register map is one to one: every register that exists and every window word is found at its address, and nothing else
is found anywhere (R399, R400). -/
def Obligations.EveryAddressNamesItsTarget : Prop :=
  (∀ r : Reg, r.exists = true → targetAt r.addr = some (.reg r)) ∧
  (∀ (d : Fin 18) (m : Fin 4) (k : BitVec 10), targetAt (Target.window d m k).addr = some (.window d m k)) ∧
  (∀ (addr : Nat) (x : Target), targetAt addr = some x → x.addr = addr ∧ ∀ r, x = .reg r → r.exists = true)

/-- An access to an unmapped address answers OUT_OF_RANGE, a read returns no data, a write changes nothing but for the words
the partition has staged (R6, R400). The routing table lies in port 0's block only. -/
def Obligations.UnmappedAccessChangesNothing : Prop :=
  (∀ (s : State) (p : Fin 32) (addr : Nat), (∀ r : Reg, r.exists = true → r.addr ≠ addr) →
    (∀ (d : Fin 18) (m : Fin 4) (k : BitVec 10), (Target.window d m k).addr ≠ addr) →
    s.readAddr p addr = (Status.outOfRange, 0, s) ∧ ∀ v, s.writeAddr p addr v = (Status.outOfRange, s.unstage p)) ∧
  (∀ (q : Fin 4) (o : Nat), q ≠ 0 → 0x800 ≤ o → o < 0x1000 → targetAt (0x10000 + 0x1000 * q.val + o) = none)

/-- An access is checked in the order of R401: the first check that fails gives its code and the write has no effect; a read
of a register by any partition is DONE, one of a memory window is refused to all but its owner. -/
def Obligations.WriteChecksRunInOrder : Prop :=
  (∀ (s : State) (p : Fin 32) (addr : Nat) (v : Word), targetAt addr = none →
    (s.writeAddr p addr v).1 = Status.outOfRange ∧ (s.readAddr p addr).1 = Status.outOfRange) ∧
  (∀ (s : State) (p : Fin 32) (addr : Nat) (r : Reg), targetAt addr = some (.reg r) → (s.readAddr p addr).1 = Status.done) ∧
  (∀ (s : State) (p : Fin 32) (addr : Nat) (v : Word) (d : Fin 18) (m : Fin 4) (k : BitVec 10),
    targetAt addr = some (.window d m k) → s.owns p (0x10 + d.val) = false →
    (s.readAddr p addr).1 = Status.denied ∧ (s.writeAddr p addr v).1 = Status.denied) ∧
  (∀ (s u : State) (p : Fin 32) (addr : Nat) (v : Word) (r : Reg) (a : Access) (lo : Option Word), targetAt addr = some (.reg r) →
    a = r.access p (s.unstage p) → u = (a.doms v).foldl State.auditDom (s.unstage p) →
    lo = (match r.low with | some (l, _) => if l.stages then s.stagedAt p l.addr else none | none => none) →
    (a.writable = false → (s.writeAddr p addr v).1 = Status.done) ∧
    (a.writable = true → a.who v = false → (s.writeAddr p addr v).1 = Status.denied) ∧
    (a.writable = true → a.who v = true → (a.doms v).any u.isSuspect = true → (s.writeAddr p addr v).1 = Status.hwMismatch) ∧
    (a.writable = true → a.who v = true → (a.doms v).any u.isSuspect = false → a.range v = false →
      (s.writeAddr p addr v).1 = Status.outOfRange) ∧
    (a.writable = true → a.who v = true → (a.doms v).any u.isSuspect = false → a.range v = true →
      (s.writeAddr p addr v).1 = (a.rule lo v).getD Status.done) ∧
    ((s.writeAddr p addr v).1 ≠ Status.done ∨ a.writable = false → (s.writeAddr p addr v).2.accessBooksOf s = s))

/-- Reads of a field wider than 32 bits (R5): the read of its lowest word takes the partition's snapshot, a higher word returns
it, no access of another partition disturbs it, and without one the live word is read and none is taken. -/
def Obligations.WideReadsAreConsistent : Prop :=
  (∀ (s : State) (p : Fin 32) (r : Reg), r.words ≠ [] → (s.readReg p r).2.snapOf p r.addr = some (s.wideValue p r.words).1) ∧
  (∀ (s : State) (p : Fin 32) (r l : Reg) (k v : Nat), r.words = [] → r.low = some (l, k) → s.snapOf p l.addr = some v →
    s.readReg p r = (BitVec.ofNat 32 (v / 2 ^ (32 * k)), s)) ∧
  (∀ (s : State) (p : Fin 32) (r l : Reg) (k : Nat), r.words = [] → r.low = some (l, k) → s.snapOf p l.addr = none →
    s.readReg p r = s.readWord (r.access p s) ∧ (s.readReg p r).2.snaps = s.snaps) ∧
  (∀ (s : State) (p q : Fin 32) (addr low : Nat), q ≠ p → (s.readAddr p addr).2.2.snapOf q low = s.snapOf q low) ∧
  (∀ (s : State) (p : Fin 32) (addr low : Nat), low ≠ addr → (s.readAddr p addr).2.2.snapOf p low = s.snapOf p low) ∧
  State.reset.snaps = [] ∧
  (∀ (i : Instr) (s t : State), exec i s = .next t →
    ((s.kpr = true ∨ s.pwr.phase = .silent) ∧ t.kpr = false ∧ t.pwr.phase ≠ .silent ∨ s.hw = true ∧ t.hw = false) → t.snaps = [])

/-- Writes of a field wider than 32 bits (R6): the write of the highest word puts the whole field into effect with the staged
lower word, or with the one in effect where none is staged; a write access ends the staging of its partition whatever its outcome, but for
a lower word that it stages itself; it leaves the others' alone, and reads disturb none. -/
def Obligations.StagedWordsEndWithTheNextWrite : Prop :=
  (∀ (s : State) (v : Word), (s.writeAddr 0 (Reg.clk .syncValueHi).addr v).2.clk.syncValue =
    bits v 0 16 ++ (s.stagedAt 0 (Reg.clk .syncValueLo).addr).getD (bits s.clk.syncValue 0 32)) ∧
  (∀ (s : State) (p : Fin 32) (x : Fin 16) (v : Word), s.owns p (0x90 + x.val) = true → s.timers[x].en = false →
    (s.writeAddr p (Reg.conv (.tmrOffHi x)).addr v).2.timers[x].offset =
      bits v 0 16 ++ (s.stagedAt p (Reg.conv (.tmrOffLo x)).addr).getD (bits s.timers[x].offset 0 32)) ∧
  (∀ (s : State) (p : Fin 32) (v : Word), s.owns p 0xC1 = true → (s.writeAddr p (Reg.prb .capEtHi).addr v).2.prb.et =
    bits v 0 16 ++ (s.stagedAt p (Reg.prb .capEtLo).addr).getD (bits s.prb.et 0 32)) ∧
  (∀ (s : State) (p : Fin 32) (addr : Nat) (v : Word), (s.writeAddr p addr v).2.staged = s.staged.filter (fun x => x.part ≠ p) ∨
    ∃ r : Reg, targetAt addr = some (.reg r) ∧ r.stages = true ∧ (s.writeAddr p addr v).1 = Status.done ∧
      (s.writeAddr p addr v).2.staged = s.staged.filter (fun x => x.part ≠ p) ++ [{ part := p, addr := r.addr, value := v.toNat }]) ∧
  (∀ (s : State) (p : Fin 32) (addr : Nat), (s.readAddr p addr).2.2.staged = s.staged) ∧
  (∀ (i : Instr) (s t : State), exec i s = .next t →
    ((s.kpr = true ∨ s.pwr.phase = .silent) ∧ t.kpr = false ∧ t.pwr.phase ≠ .silent ∨ s.hw = true ∧ t.hw = false) → t.staged = [])

/-- A command packet from a link that arrives while the keeper is down waits as bytes, and the bytes spell the same
command when the keeper takes them (R270, Tables 16-1 and 16-6). That it waits as bytes, in a list without a bound, is
the model's choice (logs 17, 68, 100). -/
def Obligations.AWaitingPacketSpellsItsCommand : Prop :=
  ∀ (i : Instr) (h : Header) (p : Fin 4) (s : State), header? i = some h → h.path = .link p → spellable i h = true →
    s.kpr = false → s.hw = true →
    ∃ bs, exec i s = .next { s with keeperIn := s.keeperIn ++ [(.link p, bs, h.poisoned)] } ∧
      ∀ u : State, u.localPacket (.link p) bs h.poisoned = .command i { u with taken := true }

/-- A retry never runs the command and never changes its result (R305). That the order of use may change is the
model's choice (log 44). -/
def Obligations.ARetryChangesNothing : Prop :=
  ∀ (i : Instr) (h : Header) (s t : State) (e : Entry), header? i = some h → s.kpr = true → s.resuming = false →
    s.mustWait h = false → h.dest ≠ 0xFFFF → s.entry (refOf h) = some e → exec i s = .next t →
    t.commandBooksOf s = s ∧ t.unstarted = s.unstarted ∧ t.keeperIn = s.keeperIn ∧ t.inj.enable = s.inj.enable ∧
      (∀ p : Fin 32, t.log.subs[p].node = s.log.subs[p].node ∧ t.log.subs[p].en = s.log.subs[p].en) ∧
      (s.armedOn 0x202 (BitVec.ofNat 8 h.part.val) = none → t.inj.armed = s.inj.armed ∧
        (t.ldg.entries.map fun e => (e.ref, e.result, e.released, e.started)) =
          s.ldg.entries.map fun e => (e.ref, e.result, e.released, e.started)) ∧
      ∀ r, e.result = some r → (t.entry (refOf h)).map (·.result) = some (some r)

/-- A command that is not accepted into the ledger has no effect, unless it is run as IDEMP (R300). -/
def Obligations.ARejectedCommandHasNoEffect : Prop :=
  ∀ (i : Instr) (h : Header) (s t : State), header? i = some h → s.kpr = true → s.resuming = false → h.idemp = false →
    h.dest ≠ 0xFFFF → s.ldg.accepted ≠ 0xFFFF → exec i s = .next t → t.ldg.accepted = s.ldg.accepted →
    t.commandBooksOf s = s ∧ t.unstarted = s.unstarted ∧ t.inj.enable = s.inj.enable ∧
      (∀ p : Fin 32, t.log.subs[p].node = s.log.subs[p].node ∧ t.log.subs[p].en = s.log.subs[p].en) ∧
      (s.armedOn 0x202 (BitVec.ofNat 8 h.part.val) = none → t.inj.armed = s.inj.armed ∧
        (t.ldg.entries.map fun e => (e.ref, e.result, e.released, e.started)) =
          s.ldg.entries.map fun e => (e.ref, e.result, e.released, e.started)) ∧
      t.ldg.entries.length ≤ s.ldg.entries.length

/-- The epoch (R326, R327): it starts at 1, never is 0, advances with each committed change of the ownership table and
by nothing else, where a change's record that is being written as the power fails still commits (R66; which one is, is
the model's choice, log 121; a record that fails verification stands, log 149); a command whose epoch lies ahead of it, or before its partition's last loss, is refused. -/
def Obligations.EpochAdvancesWithTheTable : Prop :=
  State.reset.part.epoch = 1 ∧
  (∀ e : Word, nextEpoch e ≠ 0 ∧ (e ≠ 0xFFFFFFFF → nextEpoch e = e + 1) ∧ nextEpoch 0xFFFFFFFF = 1) ∧
  (∀ (s : State) (x : Change) (rest : List Change), s.serves = true → s.part.changes = x :: rest →
    s.mayWrite .table = true →
    ∃ t, exec .ownershipRecordCommit s = .next t ∧ t.part.epoch = nextEpoch s.part.epoch) ∧
  (∀ (i : Instr) (s t : State), exec i s = .next t → t.part.epoch = s.part.epoch ∨
    t.part.epoch = nextEpoch s.part.epoch ∧ s.part.changes ≠ [] ∧
      (i = .ownershipRecordCommit ∨ ∃ ok, i = .powerInputLoss ok ∨ i = .presLHigh ok)) ∧
  (∀ (i : Instr) (s : State) (h : Header) (sp : OpSpec) (ps : List Byte) (run : Run), sp.layout = true →
    (h.epoch ≠ 0 ∧ (serialLt s.part.epoch h.epoch = true ∨ (h.epoch - s.part.epoch).toNat = 2 ^ 31 ∨
      s.part.loss[h.part] ≠ 0 ∧ (serialLt h.epoch s.part.loss[h.part] = true ∨
        (s.part.loss[h.part] - h.epoch).toNat = 2 ^ 31)) ↔ s.staleEpoch h = true) ∧
    (s.staleEpoch h = true → s.accept i h sp ps run = s.reject h sp.op Status.staleEpoch))

/-- Serial-number comparison (R405): the one reached by adding is the greater; of a pair half the range apart, a value that a
command carries is the lesser, a stored time has passed, and of two stored deadlines the one stored earlier is the lesser. -/
def Obligations.SerialNumbersCompare : Prop :=
  (∀ (n : Nat) (a b : BitVec n), 1 ≤ n →
    (serialLt a b = true ↔ 1 ≤ (b - a).toNat ∧ (b - a).toNat ≤ 2 ^ (n - 1) - 1)) ∧
  (∀ a b : Word, carriedLe a b = (decide (a = b) || serialLt a b || decide ((b - a).toNat = 2 ^ 31))) ∧
  (∀ a b : Word, carriedLt a b = (serialLt a b || decide ((b - a).toNat = 2 ^ 31))) ∧
  (∀ stored now : Et, passed stored now = (decide (stored = now) || serialLt stored now || decide ((now - stored).toNat = 2 ^ 47))) ∧
  (∀ (s : State) (a b : Fin 32 × Request), s.arb.reqs[a.1].cls = s.arb.reqs[b.1].cls → a.2.deadline ≠ b.2.deadline →
    s.goesFirst a b = (serialLt a.2.deadline b.2.deadline ||
      decide ((b.2.deadline - a.2.deadline).toNat = 2 ^ 47 ∧ a.2.stamped < b.2.stamped))) ∧
  (∀ (s : State) (h : Header) (op : Byte) (ps : List Byte) (rest : State → State), wellSized h ps = true →
    s.part.quota[h.part].auth = false → h.auth = false → h.dest ≠ 0xFFFF → s.entry (refOf h) = none →
    (s.ldg.floors[h.part] - h.cmdId).toNat ≤ 2 ^ 31 →
    s.checkPacket h op ps rest = s.reject h op Status.duplicate [0])

/-- ET changes only where a SYNC or SYNC_NOW loads it, where the block loses its power, and with the cycles of CK. A block without
power has ET 0 (`Bounded.off`, which every step keeps). -/
def Obligations.OnlyLoadsMoveEt : Prop :=
  ∀ (i : Instr) (s t : State), exec i s = .next t → i ≠ .syncBoundaryAction → i ≠ .syncNowLoad →
    (s.hw = false → s.clk.et = 0) → t.hw = s.hw → t.clk.et = s.clk.et

/-- A word of a memory block reads back as it was written, and every other word keeps its value. -/
def Obligations.WordsReadBack : Prop :=
  ∀ (s : State) (d e : Fin 18) (m n : Fin 4) (j k : Nat) (v : Word), j < 1024 → k < 1024 → Memory.wf s.mem = true →
    (s.setWord d m k v).memWord d m k = v ∧ Memory.wf (s.setWord d m k v).mem = true ∧
    ((e, n, j) ≠ (d, m, k) → (s.setWord d m k v).memWord e n j = s.memWord e n j)

/-- A SYNC while FREEWHEEL is set is ignored: MISSED counts it, SYNC_IGNORED is raised, and nothing else happens but that each
SYNC_NOW that waits for the same boundary is counted and turned away too (R31), and that the frame's samples become those of the
frame before (R19). -/
def Obligations.ASyncInFreewheelIsIgnored : Prop :=
  let miss (s : State) : State := (s.onClk fun x => { x with missed := satInc x.missed }).raise { ev := .syncIgnored, marks := [refMark] }
  ∀ s : State, s.hw = true → s.clk.syncDue = true → s.clk.syncCk < s.ck → s.clk.syncArmed = true → s.clk.freewheel = true →
    exec .syncBoundaryAction s = .next (s.clk.syncNow.foldl (fun u c => (miss u).finish c (failed Status.notReady))
      (miss (s.onClk fun x => { x with syncDue := false, syncNow := [] }).frameSamples))

/-- A response is sent in at most four packets, numbered from 0, MORE in every packet but the last; their bodies are the
result, each packet has its own header, and with a key its own MAC (R298). -/
def Obligations.AResultIsSentInSegments : Prop :=
  ∀ (node src : Half) (part : Fin 32) (op flags status : Byte) (id epoch : Word) (key : Option (List Byte)) (body : List Byte),
    body.length ≤ 1024 →
    ∃ bodies : List (List Byte), bodies.flatten = body ∧ 1 ≤ bodies.length ∧ bodies.length ≤ 4 ∧
      (∀ b ∈ bodies, b.length ≤ if key.isSome then 476 else 492) ∧
      responsePackets node src part op flags status id epoch key body =
        (List.range bodies.length).map fun n =>
          let m := headerBytes src node part 1 op flags status id epoch (bodies.getD n []).length n
            (decide (n + 1 < bodies.length)) ++ bodies.getD n []
          match key with
          | some k => m ++ packetMac k m
          | none => m

/-- A command that passes every check of Table 16-4 is journalled (R301, R302, R310): every command row goes through the check
order, and in the state after step 13 the ledger holds the command without a result and under the epoch of its acceptance,
ACCEPTED counts it, it takes a slot of its partition, and a command marked L has been answered ACCEPTED. From that state it
starts, or it waits for the partition's earlier commands (R304). Here of packets without a MAC, with room in the open segment; the
size of a record is a free value (log 12), and SEG_WRITES and the like are the books of the ledger (log 166). -/
def Obligations.AnAcceptedCommandIsJournalled : Prop :=
  (∀ (i : Instr) (h : Header), header? i = some h → ∃ (sp : State → OpSpec) (ps : List Byte) (run : State → Run),
    ∀ s : State, exec i s = darem i h (sp s) ps (run s) s) ∧
  (∀ (i : Instr) (h : Header) (sp : OpSpec) (ps : List Byte) (run : Run) (s : State) (p : Fin 4), h.path = .link p →
    s.kpr = true → s.resuming = false → s.fw.recovery = false → s.mustWait h = false → s.node.valid = true →
    h.dest = s.node.addr → h.dest ≠ 0xFFFF → h.poisoned = false → wellSized h ps = true →
    s.part.quota[h.part].auth = false → h.auth = false → s.entry (refOf h) = none →
    carriedLe h.cmdId s.ldg.floors[h.part] = false → sp.layout = true → s.staleEpoch h = false → sp.allowed = true →
    (h.idemp && sp.idem) = false → sp.always = false → s.pwr.nvwDefer = false → s.noSlot h.part = false →
    s.ledgerFull = false → s.charged + chargeBytes ≤ s.room → s.ldg.entries.length < 4096 → s.openUsed + chargeBytes ≤ 4096 →
    ∃ u : State,
      u.ldg.entries.map (·.ref) = s.ldg.entries.map (·.ref) ++ [refOf h] ∧
      (u.entry (refOf h)).map (fun e => (e.op, e.params, e.flags, e.path, e.epoch, e.codes)) =
        some (sp.op, ps, h.flags, h.path, s.part.epoch, sp.codes) ∧
      (u.entry (refOf h)).map (fun e => (e.long, e.started, e.result)) = some (sp.long, false, none) ∧
      u.ldg.accepted = satInc s.ldg.accepted ∧ u.inFlight h.part = s.inFlight h.part + 1 ∧
      (∃ body, u.keeperOut = s.keeperOut ++ if sp.long && !h.noresp then
        (s.replyPackets h.src h.part sp.op h.cmdId s.part.epoch false 0 false false { status := Status.accepted, body := body }).map
          fun b => { kind := .darem, bytes := b, poison := [], source := none }
        else []) ∧
      darem i h sp ps run s = .next (if u.blocked (refOf h) && !sp.now then { u with unstarted := u.unstarted ++ [(refOf h, i)] }
        else u.start (refOf h) fun s => run (sp.doms.foldl State.auditDom s)))

/-- The machine right after reset meets both invariants. State.reset is the power-on reset of a module as manufactured
(the model's choice, logs 4, 5, 9 and 10). -/
def Obligations.InvariantsHoldAtReset : Prop := Canonical State.reset ∧ Bounded State.reset

/-- Every step keeps memory, routes, the ownership table and the detector counts in canonical form. -/
def Obligations.StepKeepsCanonicalForms : Prop := ∀ s t : State, Canonical s → step s = .next t → Canonical t

/-- Every step keeps within the size that the specification gives them: the event log and its queues, the transmit queue of the
slow-control bus, the ledger, the results and samples of the converters, the loads that wait (R213), the configuration buffer (R206),
the result streams (R279) and the records that a repair holds (R233); the quotas stay within the pool (R325), each key slot within its
four generations (R334), the epoch and the next LSEQ different from 0 (R326, R318), and ET at 0 without power (R17, R65). -/
def Obligations.StepKeepsBounds : Prop := ∀ s t : State, Bounded s → step s = .next t → Bounded t
end

