-- ==== Sys2Proof/Laws/Bytes.lean ====
section
/-!
SUPPORT. Little-endian byte strings: their lengths, and a value reads back from the bytes that spell it.
-/
namespace Sys2Proof.Machine

@[simp] theorem length_bytesOf (n v : Nat) : (bytesOf n v).length = n := by
  induction n generalizing v with
  | zero => rfl
  | succ n ih => simp [bytesOf, ih]

@[simp] theorem length_le_bytes {w : Nat} (n : Nat) (v : BitVec w) : (le n v).length = n := length_bytesOf n v.toNat

theorem unle_bytesOf (n v : Nat) : unle (bytesOf n v) = v % 256 ^ n := by
  induction n generalizing v with
  | zero => simp [bytesOf, unle, Nat.mod_one]
  | succ n ih =>
    have e : v % 256 ^ (n + 1) = v % 256 + 256 * (v / 256 % 256 ^ n) := by rw [Nat.pow_succ', Nat.mod_mul]
    simp only [bytesOf, unle, ih, BitVec.toNat_ofNat, e]

/-- A value of at most `8 * n` bits reads back from where its `n` bytes stand. -/
theorem rd_append_le {w : Nat} (n : Nat) (a b : List Byte) (v : BitVec w) (h : w ≤ 8 * n) :
    rd w (a ++ le n v ++ b) a.length n = v := by
  have hd : ((a ++ le n v ++ b).drop a.length).take n = le n v := by
    rw [List.append_assoc, List.drop_left]
    exact List.take_left' (length_le_bytes n v)
  have hv : v.toNat < 256 ^ n := by
    have hp : (2 : Nat) ^ w ≤ 2 ^ (8 * n) := Nat.pow_le_pow_right (by decide) h
    have he : (2 : Nat) ^ (8 * n) = 256 ^ n := by rw [Nat.pow_mul]
    have := v.isLt
    omega
  unfold rd
  rw [hd, le, unle_bytesOf, Nat.mod_eq_of_lt hv]
  simp

/-- A value that lies within the first bytes is read from them. -/
theorem rd_append_left {w : Nat} (a b : List Byte) (i n : Nat) (h : i + n ≤ a.length) : rd w (a ++ b) i n = rd w a i n := by
  unfold rd
  rw [List.drop_append_of_le_length (by omega), List.take_append_of_le_length (by rw [List.length_drop]; omega)]

end Sys2Proof.Machine
end

