-- ==== Sys2Proof/Laws/State.lean ====
section
/-!
SUPPORT. One equation for each update of State: what the update writes, as a record. With them simp finds every field after an
update without unfolding anything else. And the elements of an updated vector.
-/
namespace Sys2Proof.Machine

variable (s : State)

/-- An element of an updated vector, with its index as simp writes it. -/
@[simp] theorem upd_getElem {α : Type} {n : Nat} (v : Vector α n) (i : Fin n) (f : α → α) (j : Nat) (h : j < n) :
    (upd v i f)[j] = if i.val = j then f v[j] else v[j] := by
  simp only [upd, Vector.getElem_set]
  split
  · subst_vars; rfl
  · rfl

/-- The same for an index in a finite range. -/
theorem upd_get {α : Type} {n : Nat} (v : Vector α n) (i j : Fin n) (f : α → α) :
    (upd v i f)[j] = if i = j then f v[j] else v[j] := by
  simp [Fin.ext_iff]

@[simp] theorem onClk_eq (f) : s.onClk f = { s with clk := f s.clk } := rfl
@[simp] theorem onPwr_eq (f) : s.onPwr f = { s with pwr := f s.pwr } := rfl
@[simp] theorem onSash_eq (f) : s.onSash f = { s with sash := f s.sash } := rfl
@[simp] theorem onFw_eq (f) : s.onFw f = { s with fw := f s.fw } := rfl
@[simp] theorem onAbay_eq (a f) : s.onAbay a f = { s with abays := upd s.abays a f } := rfl
@[simp] theorem onAdc_eq (n f) : s.onAdc n f = { s with adcs := upd s.adcs n f } := rfl
@[simp] theorem onTimer_eq (t f) : s.onTimer t f = { s with timers := upd s.timers t f } := rfl
@[simp] theorem onWdac_eq (n f) : s.onWdac n f = { s with wdacs := upd s.wdacs n f } := rfl
@[simp] theorem onDbay_eq (d f) : s.onDbay d f = { s with dbays := upd s.dbays d f } := rfl
@[simp] theorem onPort_eq (p f) : s.onPort p f = { s with ports := upd s.ports p f } := rfl
@[simp] theorem onReq_eq (k f) : s.onReq k f = { s with arb := { s.arb with reqs := upd s.arb.reqs k f } } := rfl
@[simp] theorem onMem_eq (d m f) :
    s.onMem d m f = { s with dbays := upd s.dbays d fun b => { b with mems := upd b.mems m f } } := rfl
@[simp] theorem onSlot_eq (a k f) :
    s.onSlot a k f = { s with abays := upd s.abays a fun b => { b with slots := upd b.slots k f } } := rfl
@[simp] theorem onDom_eq (i f) : s.onDom i f = { s with pwr := { s.pwr with doms := upd s.pwr.doms i f } } := rfl
@[simp] theorem onFwSlot_eq (k f) : s.onFwSlot k f = { s with fw := { s.fw with slots := upd s.fw.slots k f } } := rfl
@[simp] theorem onArea_eq (a f) : s.onArea a f = { s with cfg := { s.cfg with areas := upd s.cfg.areas a f } } := rfl
@[simp] theorem onKey_eq (p f) : s.onKey p f = { s with keys := { s.keys with slots := upd s.keys.slots p f } } := rfl
@[simp] theorem onJob_eq (j x) : s.onJob j x = { s with cal := { s.cal with jobs := s.cal.jobs.set j x } } := rfl
@[simp] theorem onEntry_eq (c f) : s.onEntry c f =
    { s with ldg := { s.ldg with entries := s.ldg.entries.map fun e => if e.part == c.part && e.id == c.id then f e else e } } := rfl
@[simp] theorem setOwn_eq (c o) : s.setOwn c o = { s with part := { s.part with own := store ownDefault s.part.own c o } } := rfl
@[simp] theorem draw_eq : s.draw = (Config.freeWord s.freeCtr, { s with freeCtr := s.freeCtr + 1 }) := rfl
@[simp] theorem unstage_eq (p) : s.unstage p = { s with staged := s.staged.filter fun x => x.part ≠ p } := rfl

/-- A fold over a list keeps what each of its steps keeps. -/
theorem each_keeps {α β : Type} (g : State → β) (f : State → α → State) (h : ∀ s x, g (f s x) = g s) (xs : List α) :
    g (s.each xs f) = g s := by
  unfold State.each
  induction xs generalizing s with
  | nil => rfl
  | cons x xs ih => simp only [List.foldl_cons]; rw [ih, h]

end Sys2Proof.Machine
end

