-- ==== Sys2Proof/Laws/Frame.lean ====
section
/-!
SUPPORT. What the shared operations can change, said once for each: an event, a response, a check of a detector, a final code
and the audit touch the log, the outgoing packets, the slow-control bus's queue, the ledger, the keys' leases, the injections
and the counter of free values, and nothing else.
-/
namespace Sys2Proof.Machine

/-- The state with its books taken out. -/
def State.still (s : State) : State := s.booksOf State.reset

/-- `t` is `s` but for what `still` takes out. -/
def Quiet (s t : State) : Prop := t.still = s.still

theorem Quiet.clk {s t : State} (h : Quiet s t) : t.clk = s.clk := congrArg State.clk (a₁ := t.still) (a₂ := s.still) h
theorem Quiet.node {s t : State} (h : Quiet s t) : t.node = s.node := congrArg State.node (a₁ := t.still) (a₂ := s.still) h
theorem Quiet.pwr {s t : State} (h : Quiet s t) : t.pwr = s.pwr := congrArg State.pwr (a₁ := t.still) (a₂ := s.still) h
theorem Quiet.sash {s t : State} (h : Quiet s t) : t.sash = s.sash := congrArg State.sash (a₁ := t.still) (a₂ := s.still) h
theorem Quiet.abays {s t : State} (h : Quiet s t) : t.abays = s.abays := congrArg State.abays (a₁ := t.still) (a₂ := s.still) h
theorem Quiet.xbar {s t : State} (h : Quiet s t) : t.xbar = s.xbar := congrArg State.xbar (a₁ := t.still) (a₂ := s.still) h
theorem Quiet.adcs {s t : State} (h : Quiet s t) : t.adcs = s.adcs := congrArg State.adcs (a₁ := t.still) (a₂ := s.still) h
theorem Quiet.timers {s t : State} (h : Quiet s t) : t.timers = s.timers := congrArg State.timers (a₁ := t.still) (a₂ := s.still) h
theorem Quiet.tmrEvents {s t : State} (h : Quiet s t) : t.tmrEvents = s.tmrEvents := congrArg State.tmrEvents (a₁ := t.still) (a₂ := s.still) h
theorem Quiet.groups {s t : State} (h : Quiet s t) : t.groups = s.groups := congrArg State.groups (a₁ := t.still) (a₂ := s.still) h
theorem Quiet.vrefIn {s t : State} (h : Quiet s t) : t.vrefIn = s.vrefIn := congrArg State.vrefIn (a₁ := t.still) (a₂ := s.still) h
theorem Quiet.adcStarts {s t : State} (h : Quiet s t) : t.adcStarts = s.adcStarts := congrArg State.adcStarts (a₁ := t.still) (a₂ := s.still) h
theorem Quiet.wdacs {s t : State} (h : Quiet s t) : t.wdacs = s.wdacs := congrArg State.wdacs (a₁ := t.still) (a₂ := s.still) h
theorem Quiet.wdacWaits {s t : State} (h : Quiet s t) : t.wdacWaits = s.wdacWaits := congrArg State.wdacWaits (a₁ := t.still) (a₂ := s.still) h
theorem Quiet.cal {s t : State} (h : Quiet s t) : t.cal = s.cal := congrArg State.cal (a₁ := t.still) (a₂ := s.still) h
theorem Quiet.dbays {s t : State} (h : Quiet s t) : t.dbays = s.dbays := congrArg State.dbays (a₁ := t.still) (a₂ := s.still) h
theorem Quiet.lin {s t : State} (h : Quiet s t) : t.lin = s.lin := congrArg State.lin (a₁ := t.still) (a₂ := s.still) h
theorem Quiet.mem {s t : State} (h : Quiet s t) : t.mem = s.mem := congrArg State.mem (a₁ := t.still) (a₂ := s.still) h
theorem Quiet.io {s t : State} (h : Quiet s t) : t.io = s.io := congrArg State.io (a₁ := t.still) (a₂ := s.still) h
theorem Quiet.prb {s t : State} (h : Quiet s t) : t.prb = s.prb := congrArg State.prb (a₁ := t.still) (a₂ := s.still) h
theorem Quiet.cfg {s t : State} (h : Quiet s t) : t.cfg = s.cfg := congrArg State.cfg (a₁ := t.still) (a₂ := s.still) h
theorem Quiet.rep {s t : State} (h : Quiet s t) : t.rep = s.rep := congrArg State.rep (a₁ := t.still) (a₂ := s.still) h
theorem Quiet.ports {s t : State} (h : Quiet s t) : t.ports = s.ports := congrArg State.ports (a₁ := t.still) (a₂ := s.still) h
theorem Quiet.routes {s t : State} (h : Quiet s t) : t.routes = s.routes := congrArg State.routes (a₁ := t.still) (a₂ := s.still) h
theorem Quiet.arb {s t : State} (h : Quiet s t) : t.arb = s.arb := congrArg State.arb (a₁ := t.still) (a₂ := s.still) h
theorem Quiet.part {s t : State} (h : Quiet s t) : t.part = s.part := congrArg State.part (a₁ := t.still) (a₂ := s.still) h
theorem Quiet.fw {s t : State} (h : Quiet s t) : t.fw = s.fw := congrArg State.fw (a₁ := t.still) (a₂ := s.still) h
theorem Quiet.keeperIn {s t : State} (h : Quiet s t) : t.keeperIn = s.keeperIn := congrArg State.keeperIn (a₁ := t.still) (a₂ := s.still) h
theorem Quiet.unstarted {s t : State} (h : Quiet s t) : t.unstarted = s.unstarted := congrArg State.unstarted (a₁ := t.still) (a₂ := s.still) h
theorem Quiet.taken {s t : State} (h : Quiet s t) : t.taken = s.taken := congrArg State.taken (a₁ := t.still) (a₂ := s.still) h
theorem Quiet.resuming {s t : State} (h : Quiet s t) : t.resuming = s.resuming := congrArg State.resuming (a₁ := t.still) (a₂ := s.still) h
theorem Quiet.snaps {s t : State} (h : Quiet s t) : t.snaps = s.snaps := congrArg State.snaps (a₁ := t.still) (a₂ := s.still) h
theorem Quiet.staged {s t : State} (h : Quiet s t) : t.staged = s.staged := congrArg State.staged (a₁ := t.still) (a₂ := s.still) h
theorem Quiet.ck {s t : State} (h : Quiet s t) : t.ck = s.ck := congrArg State.ck (a₁ := t.still) (a₂ := s.still) h
theorem Quiet.acc {s t : State} (h : Quiet s t) : t.acc = s.acc := congrArg State.acc (a₁ := t.still) (a₂ := s.still) h
theorem Quiet.pending {s t : State} (h : Quiet s t) : t.pending = s.pending := congrArg State.pending (a₁ := t.still) (a₂ := s.still) h

/-- A quiet change leaves everything but the books. -/
theorem Quiet.books {s t : State} (h : Quiet s t) : t.booksOf s = s := by
  have e : t.booksOf s = t.still.booksOf s := rfl
  rw [e, h]
  rfl

variable (s : State)

@[simp] theorem still_log (x : Log) : State.still { s with log := x } = s.still := rfl
@[simp] theorem still_keeperOut (x : List Packet) : State.still { s with keeperOut := x } = s.still := rfl
@[simp] theorem still_txq (x : List CanPacket) : State.still { s with can := { s.can with txq := x } } = s.still := rfl
@[simp] theorem still_waiting (x : List CanPacket) : State.still { s with can := { s.can with waiting := x } } = s.still := rfl
@[simp] theorem still_dropped (x : Byte) : State.still { s with can := { s.can with dropped := x } } = s.still := rfl
@[simp] theorem still_ldg (x : Ledger) : State.still { s with ldg := x } = s.still := rfl
@[simp] theorem still_slots (x : Vector KeySlot 32) : State.still { s with keys := { s.keys with slots := x } } = s.still := rfl
@[simp] theorem still_blocks (x : Vector KeyBlock 2) : State.still { s with keys := { s.keys with blocks := x } } = s.still := rfl
@[simp] theorem still_inj (x : Inj) : State.still { s with inj := x } = s.still := rfl
@[simp] theorem still_freeCtr (x : Nat) : State.still { s with freeCtr := x } = s.still := rfl

/-- A fold of quiet steps is quiet. -/
theorem foldl_still {α : Type} (f : State → α → State) (h : ∀ s x, (f s x).still = s.still) (xs : List α) :
    (xs.foldl f s).still = s.still := each_keeps s State.still f h xs

theorem each_still {α : Type} (f : State → α → State) (h : ∀ s x, (f s x).still = s.still) (xs : List α) :
    (s.each xs f).still = s.still := each_keeps s State.still f h xs

/-! ### Sending -/

@[simp] theorem canRespond_still (p) : (s.canRespond p).still = s.still := by
  unfold State.canRespond; split <;> simp

@[simp] theorem canEvent_still (p) : (s.canEvent p).still = s.still := by
  unfold State.canEvent; split <;> simp

@[simp] theorem sendOn_still (path ps) : (s.sendOn path ps).still = s.still := by
  unfold State.sendOn
  split
  · simp
  · exact foldl_still s _ (fun s b => canRespond_still s _) _

@[simp] theorem respondTo_still (path src part op id epoch auth gen final jnl r) :
    (s.respondTo path src part op id epoch auth gen final jnl r).still = s.still := sendOn_still s _ _

/-! ### Events -/

@[simp] theorem post_still (node b) : (s.post node b).still = s.still := by
  unfold State.post; split
  · simp
  · split <;> simp

@[simp] theorem nextPseq_still (p) : (s.nextPseq p).still = s.still := by simp [State.nextPseq]

@[simp] theorem sendEvent_still (p r args) : (s.sendEvent p r args).still = s.still := by
  unfold State.sendEvent; split
  · split <;> simp
  · rfl

@[simp] theorem keepRec_still (r) : (s.keepRec r).2.still = s.still := by
  unfold State.keepRec
  simp only
  split
  · split <;> simp
  · simp

@[simp] theorem logRec_still (r args) : (s.logRec r args).2.still = s.still := by
  unfold State.logRec
  simp only
  split <;> simp

@[simp] theorem foldRec_still (l n) : (s.foldRec l n).still = s.still := by simp [State.foldRec]

@[simp] theorem foldRate_still (x n) : (s.foldRate x n).still = s.still := by
  unfold State.foldRate; split <;> simp

@[simp] theorem emit_still (r args) : (s.emit r args).2.still = s.still := by
  unfold State.emit
  split
  · simp
  · split <;> simp

/-- A record, or its addition to the record that limits it, is quiet. -/
@[simp] theorem limited_still (o inj r) : (s.limited o inj r).still = s.still := by
  unfold State.limited
  simp only
  split
  · simp
  · split
    · split
      · split <;> simp
      · simp
    · simp

/-- Raising an event latches its bit; the rest is quiet. -/
theorem raise_still (o : Occ) :
    (s.raise o).still = (s.onLatch o.ev.block o.inst fun w => setBit w (o.ev.pos + o.off)).still := by
  unfold State.raise
  simp only [limited_still]

/-! ### The ledger -/

@[simp] theorem onSeg_still (i f) : (s.onSeg i f).still = s.still := by
  unfold State.onSeg; split <;> simp

@[simp] theorem openAt_still (i) : (s.openAt i).still = s.still := by simp [State.openAt]

@[simp] theorem onEntry_still (c f) : (s.onEntry c f).still = s.still := by rw [onEntry_eq]; simp

/-- A record of the journal in another segment: only its place changes. -/
@[simp] theorem moveRecord_still (r i) : (s.moveRecord r i).still = s.still := by
  unfold State.moveRecord; split <;> simp

@[simp] theorem cleanSeg_still (v) : (s.cleanSeg v).still = s.still := by
  unfold State.cleanSeg
  simp only [onSeg_still]
  exact foldl_still s _ (fun s (r : LdgRec × Nat) => moveRecord_still s r.1 s.ldg.openSeg) _

@[simp] theorem openNext_still (n) : (s.openNext n).still = s.still := by
  unfold State.openNext
  split <;> split <;> simp

@[simp] theorem append_still (n) : (s.append n).2.still = s.still := by
  unfold State.append
  simp only
  split <;> (try split) <;> simp

@[simp] theorem recordSize_still (n) : (s.recordSize n).2.still = s.still := by simp [State.recordSize]

@[simp] theorem supersede_still (i) : (s.supersede i).still = s.still := by simp [State.supersede]

@[simp] theorem watchLedger_still : s.watchLedger.still = s.still := by
  unfold State.watchLedger
  split
  · rfl
  · split
    · split
      · rfl
      · rw [raise_still]; rfl
    · simp

@[simp] theorem eraseOldKeys_still : s.eraseOldKeys.still = s.still := by
  unfold State.eraseOldKeys
  simp only
  split <;> simp

@[simp] theorem unlease_still (c) : (s.unlease c).still = s.still := by simp [State.unlease]

@[simp] theorem lease_still (p g c) : (s.lease p g c).still = s.still := by simp [State.lease]

/-- Committing a result is quiet. -/
@[simp] theorem commitResult_still (c r send) : (s.commitResult c r send).still = s.still := by
  unfold State.commitResult
  split
  · rfl
  · split
    · rfl
    · simp only
      split
      · next h => simpa using congrArg (fun x => x.2.still) h.symm
      · next h =>
        have hq := congrArg (fun x => x.2.still) h
        simp only [append_still, recordSize_still] at hq
        simp only [watchLedger_still, unlease_still]
        split <;> simp only [respondTo_still, still_ldg, onEntry_still] <;> split <;> simp [← hq]

@[simp] theorem finishNow_still (c r) : (s.finishNow c r).still = s.still := by
  unfold State.finishNow; split <;> simp

/-! ### Detectors -/

@[simp] theorem countDet_still (det i) : (s.countDet det i).still = s.still := by
  unfold State.countDet; split <;> simp

@[simp] theorem consume_still (j a real) : (s.consume j a real).still = s.still := by
  unfold State.consume; split <;> simp

/-- The check of a detector is quiet. -/
@[simp] theorem check_still (det unit real ok) : (s.check det unit real ok).2.2.still = s.still := by
  unfold State.check
  split
  · simp only
    split <;> simp
  · split <;> simp

@[simp] theorem carry_still (d i) : (s.carry d i).still = s.still := by
  unfold State.carry; split <;> simp

@[simp] theorem normal_still (d) : (s.normal d).still = s.still := by simp [State.normal]

@[simp] theorem retireOpen_still : s.retireOpen.still = s.still := by
  unfold State.retireOpen; simp only; split <;> simp

@[simp] theorem retireFixed_still (k) : (s.retireFixed k).still = s.still := by
  unfold State.retireFixed; simp only; split <;> simp

@[simp] theorem retireSeg_still (x injected) : (s.retireSeg x injected).still = s.still := by
  unfold State.retireSeg
  simp only
  rw [watchLedger_still, raise_still]
  cases x <;> simp [State.onLatch, Ev.ldgSegRetired]

@[simp] theorem verifyAt_still (x) : (s.verifyAt x).still = s.still := by
  unfold State.verifyAt; split <;> simp

@[simp] theorem verifyLedger_still : s.verifyLedger.still = s.still := verifyAt_still s _

@[simp] theorem verifyWrites_still : s.verifyWrites.still = s.still := by
  unfold State.verifyWrites
  rw [each_still _ _ fun s k => verifyAt_still s _]
  rfl

/-- Reaching a final code is quiet. -/
@[simp] theorem finish_still (c r) : (s.finish c r).still = s.still := by
  unfold State.finish; simp only; split <;> simp

@[simp] theorem finishAll_still (cs r) : (s.finishAll cs r).still = s.still :=
  foldl_still s _ (fun s c => finish_still s c r) _

@[simp] theorem answer_still (h op epoch final jnl r) : (s.answer h op epoch final jnl r).still = s.still := by
  unfold State.answer; split <;> simp

/-- Refusing a packet is quiet. -/
@[simp] theorem reject_still (h op status body) : (s.reject h op status body).still = s.still := by simp [State.reject]

@[simp] theorem interim_still (c r) : (s.interim c r).still = s.still := by
  unfold State.interim
  split
  · split <;> simp
  · rfl

theorem finish_quiet (c r) : Quiet s (s.finish c r) := finish_still s c r
theorem check_quiet (det unit real ok) : Quiet s (s.check det unit real ok).2.2 := check_still s det unit real ok
theorem raise_quiet (o) : Quiet (s.onLatch o.ev.block o.inst fun w => setBit w (o.ev.pos + o.off)) (s.raise o) := raise_still s o

/-! ### The audit -/

/-- The state with the keeper's table, SUSPECT and the latched bits of PWR taken out too. -/
def State.calm (s : State) : State := { s.still with pwr := { s.pwr with req := 0, suspect := 0, events := 0 } }

theorem calm_of_still {s t : State} (h : t.still = s.still) : t.calm = s.calm := by
  have hp := Quiet.pwr (s := s) (t := t) h
  unfold State.calm
  rw [h, hp]

/-- The audit of a domain changes the keeper's table, SUSPECT and the latched bits of PWR, and is quiet beside that. -/
theorem auditDom_calm (i) : (s.auditDom i).calm = s.calm := by
  have h := calm_of_still (check_still s 0x201 (BitVec.ofNat 8 i.val) (testBit s.pwr.req i.val ≠ s.seqOn i) (fun _ => true))
  unfold State.auditDom
  simp only
  split
  · rename_i injected t ht
    rw [ht] at h
    have hc := calm_of_still (carry_still (t.mistrust i) i.val injected)
    have hr := calm_of_still (raise_still ((t.mistrust i).carry i.val injected) (t.mismatch i (testBit s.pwr.req i.val) injected))
    have hl : (State.onLatch ((t.mistrust i).carry i.val injected) .pwr 0 fun w => setBit w (1 + 0)).calm
        = ((t.mistrust i).carry i.val injected).calm := rfl
    have hm : (t.mistrust i).calm = t.calm := rfl
    exact ((hr.trans hl).trans (hc.trans hm)).trans h
  · rename_i ht
    rw [ht] at h
    exact h

/-- So is the audit before a command. -/
theorem auditCodes_calm (codes) : (s.auditCodes codes).calm = s.calm := by
  unfold State.auditCodes
  induction codes generalizing s with
  | nil => rfl
  | cons c cs ih =>
    simp only [List.foldl_cons]
    rw [ih]
    split
    · exact auditDom_calm s _
    · rfl

end Sys2Proof.Machine
end

