-- ==== Sys2Proof/Laws/Darem.lean ====
section
/-!
SUPPORT. The turn of an accepted command: the pipeline in one equation, and what stands when the command has its effect.
-/
namespace Sys2Proof.Machine

/-- A command that has its turn does not wait in the local command input. -/
theorem mustWait_turn {s : State} (h : Turn s) (hd : Header) : s.mustWait hd = false := by
  obtain ⟨hk, hr⟩ := h
  unfold State.mustWait
  split <;> simp [hk, hr]

/-- The turn of an accepted command is its effect in the state in which it has started, once the domains that no code names
are audited. -/
theorem darem_turn {s : State} (h : Turn s) (i : Instr) (hd : Header) (sp : OpSpec) (ps : List Byte) (run : Run) :
    darem i hd sp ps run s = .next (match run (sp.doms.foldl State.auditDom (s.atTurn hd)) with
      | (t, some r) => t.finish (refOf hd) r
      | (t, none) => t) := by
  have hw := mustWait_turn h hd
  obtain ⟨hk, hr⟩ := h
  simp only [darem, hw, hk, hr, State.start, State.atTurn]
  rfl

theorem darem_runs {s : State} (h : Turn s) (i : Instr) (hd : Header) (sp : OpSpec) (ps : List Byte) (run : Run)
    (t : State) (r : Reply) (hrun : run (sp.doms.foldl State.auditDom (s.atTurn hd)) = (t, some r)) :
    darem i hd sp ps run s = .next (t.finish (refOf hd) r) := by
  rw [darem_turn h, hrun]

theorem darem_waits {s : State} (h : Turn s) (i : Instr) (hd : Header) (sp : OpSpec) (ps : List Byte) (run : Run)
    (t : State) (hrun : run (sp.doms.foldl State.auditDom (s.atTurn hd)) = (t, none)) :
    darem i hd sp ps run s = .next t := by
  rw [darem_turn h, hrun]

/-- A state with its books, the keeper's table, SUSPECT, the latched bits of PWR and the mark of a start taken out. -/
def State.core (s : State) : State := { s.calm with resuming := false }

/-- The start of a command changes the books, the keeper's table, SUSPECT, the latched bits of PWR and the mark of a start. -/
theorem atTurn_core (s : State) (h : Header) : (s.atTurn h).core = s.core := by
  have hb : ∀ (u : State) (c), (u.begun c).calm = u.calm := by
    intro u c
    have ho : (u.onEntry c fun e => { e with started := true }).calm = u.calm := calm_of_still (onEntry_still u c _)
    unfold State.begun State.auditFor
    split
    · split
      · exact ho
      · exact (auditCodes_calm _ _).trans ho
    · exact ho
  unfold State.core State.atTurn
  rw [hb]
  rfl

section
variable (s : State) (h : Header)
@[simp] theorem atTurn_clk : (s.atTurn h).clk = s.clk := congrArg State.clk (a₁ := (s.atTurn h).core) (a₂ := s.core) (atTurn_core s h)
@[simp] theorem atTurn_node : (s.atTurn h).node = s.node := congrArg State.node (a₁ := (s.atTurn h).core) (a₂ := s.core) (atTurn_core s h)
@[simp] theorem atTurn_sash : (s.atTurn h).sash = s.sash := congrArg State.sash (a₁ := (s.atTurn h).core) (a₂ := s.core) (atTurn_core s h)
@[simp] theorem atTurn_abays : (s.atTurn h).abays = s.abays := congrArg State.abays (a₁ := (s.atTurn h).core) (a₂ := s.core) (atTurn_core s h)
@[simp] theorem atTurn_xbar : (s.atTurn h).xbar = s.xbar := congrArg State.xbar (a₁ := (s.atTurn h).core) (a₂ := s.core) (atTurn_core s h)
@[simp] theorem atTurn_adcs : (s.atTurn h).adcs = s.adcs := congrArg State.adcs (a₁ := (s.atTurn h).core) (a₂ := s.core) (atTurn_core s h)
@[simp] theorem atTurn_timers : (s.atTurn h).timers = s.timers := congrArg State.timers (a₁ := (s.atTurn h).core) (a₂ := s.core) (atTurn_core s h)
@[simp] theorem atTurn_tmrEvents : (s.atTurn h).tmrEvents = s.tmrEvents := congrArg State.tmrEvents (a₁ := (s.atTurn h).core) (a₂ := s.core) (atTurn_core s h)
@[simp] theorem atTurn_groups : (s.atTurn h).groups = s.groups := congrArg State.groups (a₁ := (s.atTurn h).core) (a₂ := s.core) (atTurn_core s h)
@[simp] theorem atTurn_vrefIn : (s.atTurn h).vrefIn = s.vrefIn := congrArg State.vrefIn (a₁ := (s.atTurn h).core) (a₂ := s.core) (atTurn_core s h)
@[simp] theorem atTurn_adcStarts : (s.atTurn h).adcStarts = s.adcStarts := congrArg State.adcStarts (a₁ := (s.atTurn h).core) (a₂ := s.core) (atTurn_core s h)
@[simp] theorem atTurn_wdacs : (s.atTurn h).wdacs = s.wdacs := congrArg State.wdacs (a₁ := (s.atTurn h).core) (a₂ := s.core) (atTurn_core s h)
@[simp] theorem atTurn_wdacWaits : (s.atTurn h).wdacWaits = s.wdacWaits := congrArg State.wdacWaits (a₁ := (s.atTurn h).core) (a₂ := s.core) (atTurn_core s h)
@[simp] theorem atTurn_cal : (s.atTurn h).cal = s.cal := congrArg State.cal (a₁ := (s.atTurn h).core) (a₂ := s.core) (atTurn_core s h)
@[simp] theorem atTurn_dbays : (s.atTurn h).dbays = s.dbays := congrArg State.dbays (a₁ := (s.atTurn h).core) (a₂ := s.core) (atTurn_core s h)
@[simp] theorem atTurn_lin : (s.atTurn h).lin = s.lin := congrArg State.lin (a₁ := (s.atTurn h).core) (a₂ := s.core) (atTurn_core s h)
@[simp] theorem atTurn_mem : (s.atTurn h).mem = s.mem := congrArg State.mem (a₁ := (s.atTurn h).core) (a₂ := s.core) (atTurn_core s h)
@[simp] theorem atTurn_io : (s.atTurn h).io = s.io := congrArg State.io (a₁ := (s.atTurn h).core) (a₂ := s.core) (atTurn_core s h)
@[simp] theorem atTurn_prb : (s.atTurn h).prb = s.prb := congrArg State.prb (a₁ := (s.atTurn h).core) (a₂ := s.core) (atTurn_core s h)
@[simp] theorem atTurn_cfg : (s.atTurn h).cfg = s.cfg := congrArg State.cfg (a₁ := (s.atTurn h).core) (a₂ := s.core) (atTurn_core s h)
@[simp] theorem atTurn_rep : (s.atTurn h).rep = s.rep := congrArg State.rep (a₁ := (s.atTurn h).core) (a₂ := s.core) (atTurn_core s h)
@[simp] theorem atTurn_ports : (s.atTurn h).ports = s.ports := congrArg State.ports (a₁ := (s.atTurn h).core) (a₂ := s.core) (atTurn_core s h)
@[simp] theorem atTurn_routes : (s.atTurn h).routes = s.routes := congrArg State.routes (a₁ := (s.atTurn h).core) (a₂ := s.core) (atTurn_core s h)
@[simp] theorem atTurn_arb : (s.atTurn h).arb = s.arb := congrArg State.arb (a₁ := (s.atTurn h).core) (a₂ := s.core) (atTurn_core s h)
@[simp] theorem atTurn_part : (s.atTurn h).part = s.part := congrArg State.part (a₁ := (s.atTurn h).core) (a₂ := s.core) (atTurn_core s h)
@[simp] theorem atTurn_fw : (s.atTurn h).fw = s.fw := congrArg State.fw (a₁ := (s.atTurn h).core) (a₂ := s.core) (atTurn_core s h)
@[simp] theorem atTurn_keeperIn : (s.atTurn h).keeperIn = s.keeperIn := congrArg State.keeperIn (a₁ := (s.atTurn h).core) (a₂ := s.core) (atTurn_core s h)
@[simp] theorem atTurn_taken : (s.atTurn h).taken = s.taken := congrArg State.taken (a₁ := (s.atTurn h).core) (a₂ := s.core) (atTurn_core s h)
@[simp] theorem atTurn_unstarted : (s.atTurn h).unstarted = s.unstarted := congrArg State.unstarted (a₁ := (s.atTurn h).core) (a₂ := s.core) (atTurn_core s h)
@[simp] theorem atTurn_snaps : (s.atTurn h).snaps = s.snaps := congrArg State.snaps (a₁ := (s.atTurn h).core) (a₂ := s.core) (atTurn_core s h)
@[simp] theorem atTurn_staged : (s.atTurn h).staged = s.staged := congrArg State.staged (a₁ := (s.atTurn h).core) (a₂ := s.core) (atTurn_core s h)
@[simp] theorem atTurn_ck : (s.atTurn h).ck = s.ck := congrArg State.ck (a₁ := (s.atTurn h).core) (a₂ := s.core) (atTurn_core s h)
@[simp] theorem atTurn_acc : (s.atTurn h).acc = s.acc := congrArg State.acc (a₁ := (s.atTurn h).core) (a₂ := s.core) (atTurn_core s h)
@[simp] theorem atTurn_doms : (s.atTurn h).pwr.doms = s.pwr.doms := congrArg (fun t : State => t.pwr.doms) (a₁ := (s.atTurn h).core) (a₂ := s.core) (atTurn_core s h)
@[simp] theorem atTurn_phase : (s.atTurn h).pwr.phase = s.pwr.phase := congrArg (fun t : State => t.pwr.phase) (a₁ := (s.atTurn h).core) (a₂ := s.core) (atTurn_core s h)
@[simp] theorem atTurn_kpr : (s.atTurn h).kpr = s.kpr := by simp [State.kpr]
@[simp] theorem atTurn_hw : (s.atTurn h).hw = s.hw := by simp [State.hw]
@[simp] theorem atTurn_dom (i) : (s.atTurn h).dom i = s.dom i := by simp [State.dom]
@[simp] theorem atTurn_isOn (i) : (s.atTurn h).isOn i = s.isOn i := by simp [State.isOn]
@[simp] theorem atTurn_ownOf (c) : (s.atTurn h).ownOf c = s.ownOf c := by simp [State.ownOf]
@[simp] theorem atTurn_owns (p c) : (s.atTurn h).owns p c = s.owns p c := by simp [State.owns]
end

end Sys2Proof.Machine
end

