-- ==== Sys2Proof/Laws/Stores.lean ====
section
/-!
SUPPORT. Sparse stores (Bits.lean): a key reads what was written to it last, other keys are left alone, and every write keeps
the canonical form: strictly rising keys and no entry equal to the default.
-/
namespace Sys2Proof.Machine

variable {α : Type}

/-- Every key of the store lies above a bound. -/
def above (i : Nat) (m : List (Nat × α)) : Prop := ∀ c ∈ m, i < c.1

theorem rising_cons (a : Nat) (x : α) (m : List (Nat × α)) : rising ((a, x) :: m) = true ↔ above a m ∧ rising m = true := by
  induction m generalizing a x with
  | nil => simp [rising, above]
  | cons c r ih =>
    obtain ⟨b, y⟩ := c
    constructor
    · intro h
      simp only [rising, Bool.and_eq_true, decide_eq_true_eq] at h
      obtain ⟨hab, hr⟩ := h
      refine ⟨?_, hr⟩
      intro c hc
      rcases List.mem_cons.1 hc with rfl | hc
      · exact hab
      · exact Nat.lt_trans hab (((ih b y).1 hr).1 c hc)
    · rintro ⟨h, hr⟩
      simp only [rising, Bool.and_eq_true, decide_eq_true_eq]
      exact ⟨h (b, y) (by simp), hr⟩

theorem look_insertAt (d : α) (m : List (Nat × α)) (i j : Nat) (x : α) :
    look d (insertAt i x m) j = if i = j then x else look d m j := by
  induction m with
  | nil => simp [insertAt, look]
  | cons c r ih =>
    obtain ⟨k, v⟩ := c
    unfold insertAt
    split
    · simp [look]
    · split
      · subst_vars; simp only [look]; split <;> rfl
      · rename_i hik
        simp only [look, ih]
        split
        · rename_i hkj; subst hkj; simp [hik]
        · rfl

theorem look_above (d : α) (m : List (Nat × α)) (i : Nat) (h : above i m) : look d m i = d := by
  induction m with
  | nil => rfl
  | cons c r ih =>
    obtain ⟨k, v⟩ := c
    have hk : i < k := h (k, v) (by simp)
    simp [look, Nat.ne_of_gt hk, ih fun c hc => h c (by simp [hc])]

theorem look_eraseAt (d : α) (m : List (Nat × α)) (i j : Nat) :
    look d (eraseAt i m) j = if i = j then d else look d m j := by
  unfold eraseAt
  induction m with
  | nil => simp [look]
  | cons c r ih =>
    obtain ⟨k, v⟩ := c
    rw [List.filter_cons]
    split
    · rename_i hk
      simp only [ne_eq, decide_eq_true_eq] at hk
      simp only [look, ih]
      split
      · rename_i hj; subst hj; rw [if_neg (Ne.symm hk)]
      · rfl
    · rename_i hk
      simp only [ne_eq, decide_eq_true_eq, Decidable.not_not] at hk
      subst hk
      rw [ih]
      split
      · rfl
      · rename_i hj; simp [look, hj]

/-- Read after write. -/
@[simp] theorem look_store [DecidableEq α] (d : α) (m : List (Nat × α)) (i j : Nat) (x : α) :
    look d (store d m i x) j = if i = j then x else look d m j := by
  unfold store
  split
  · rename_i hx; subst hx; exact look_eraseAt _ m i j
  · exact look_insertAt d m i j x

theorem above_insertAt (m : List (Nat × α)) (k i : Nat) (x : α) (h : above k m) (hi : k < i) : above k (insertAt i x m) := by
  induction m with
  | nil => intro c hc; simp [insertAt] at hc; subst hc; exact hi
  | cons c r ih =>
    obtain ⟨a, v⟩ := c
    have ha : k < a := h (a, v) (by simp)
    have hr : above k r := fun c hc => h c (by simp [hc])
    unfold insertAt
    split
    · intro c hc
      rcases List.mem_cons.1 hc with rfl | hc
      · exact hi
      · exact h c hc
    · split
      · intro c hc
        rcases List.mem_cons.1 hc with rfl | hc
        · exact hi
        · exact hr c hc
      · intro c hc
        rcases List.mem_cons.1 hc with rfl | hc
        · exact ha
        · exact ih hr c hc

theorem rising_insertAt (m : List (Nat × α)) (i : Nat) (x : α) (h : rising m = true) : rising (insertAt i x m) = true := by
  induction m with
  | nil => rfl
  | cons c r ih =>
    obtain ⟨a, v⟩ := c
    obtain ⟨ha, hr⟩ := (rising_cons a v r).1 h
    unfold insertAt
    split
    · rename_i hlt
      refine (rising_cons i x _).2 ⟨?_, h⟩
      intro c hc
      rcases List.mem_cons.1 hc with rfl | hc
      · exact hlt
      · exact Nat.lt_trans hlt (ha c hc)
    · split
      · subst_vars; exact (rising_cons _ _ _).2 ⟨ha, hr⟩
      · exact (rising_cons _ _ _).2 ⟨above_insertAt r a i x ha (by omega), ih hr⟩

theorem mem_insertAt (m : List (Nat × α)) (i : Nat) (x : α) (c : Nat × α) (h : c ∈ insertAt i x m) : c = (i, x) ∨ c ∈ m := by
  induction m with
  | nil => simp [insertAt] at h; exact .inl h
  | cons b r ih =>
    obtain ⟨a, v⟩ := b
    unfold insertAt at h
    split at h
    · rcases List.mem_cons.1 h with rfl | h
      · exact .inl rfl
      · exact .inr h
    · split at h
      · rcases List.mem_cons.1 h with rfl | h
        · exact .inl rfl
        · exact .inr (by simp [h])
      · rcases List.mem_cons.1 h with rfl | h
        · exact .inr (by simp)
        · rcases ih h with rfl | h
          · exact .inl rfl
          · exact .inr (by simp [h])

theorem rising_filter (m : List (Nat × α)) (f : Nat × α → Bool) (h : rising m = true) : rising (m.filter f) = true := by
  induction m with
  | nil => rfl
  | cons c r ih =>
    obtain ⟨a, v⟩ := c
    obtain ⟨ha, hr⟩ := (rising_cons a v r).1 h
    rw [List.filter_cons]
    split
    · exact (rising_cons _ _ _).2 ⟨fun c hc => ha c (List.mem_filter.1 hc).1, ih hr⟩
    · exact ih hr

theorem mem_eraseAt (m : List (Nat × α)) (i : Nat) (c : Nat × α) (h : c ∈ eraseAt i m) : c ∈ m := (List.mem_filter.1 h).1

theorem rising_eraseAt (m : List (Nat × α)) (i : Nat) (h : rising m = true) : rising (eraseAt i m) = true := rising_filter m _ h

/-- Every write keeps the canonical form. -/
theorem store_canonical [DecidableEq α] (d : α) (m : List (Nat × α)) (i : Nat) (x : α) (h : canonical d m = true) :
    canonical d (store d m i x) = true := by
  simp only [canonical, Bool.and_eq_true, List.all_eq_true, decide_eq_true_eq, ne_eq] at h ⊢
  unfold store
  split
  · exact ⟨rising_eraseAt m i h.1, fun c hc => h.2 c (mem_eraseAt m i c hc)⟩
  · rename_i hx
    refine ⟨rising_insertAt m i x h.1, fun c hc => ?_⟩
    rcases mem_insertAt m i x c hc with rfl | hc
    · exact hx
    · exact h.2 c hc

/-- Consecutive writes keep it. -/
theorem storeAll_canonical [DecidableEq α] (d : α) (xs : List α) (m : List (Nat × α)) (i : Nat) (h : canonical d m = true) :
    canonical d (storeAll d m i xs) = true := by
  induction xs generalizing m i with
  | nil => exact h
  | cons x xs ih => exact ih _ _ (store_canonical d m i x h)

/-- Dropping entries keeps it. -/
theorem filter_canonical [DecidableEq α] (d : α) (m : List (Nat × α)) (f : Nat × α → Bool) (h : canonical d m = true) :
    canonical d (m.filter f) = true := by
  simp only [canonical, Bool.and_eq_true, List.all_eq_true] at h ⊢
  exact ⟨rising_filter m f h.1, fun c hc => h.2 c (List.mem_filter.1 hc).1⟩

end Sys2Proof.Machine
end

