-- ==== Sys2Proof/Laws/Memory.lean ====
section
/-!
SUPPORT. Memory keeps its canonical form: the two operations that change a byte of the memory windows, and reset.
-/
namespace Sys2Proof.Machine

/-- A stored word keeps the canonical form. -/
theorem setWord_wf (s : State) (d : Fin 18) (m : Fin 4) (k : Nat) (w : Word) (h : Memory.wf s.mem = true) :
    Memory.wf (s.setWord d m k w).mem = true :=
  storeAll_canonical memDefault (le 4 w) s.mem (memAddr d m k) h

/-- A bay that loses its memories (R184) keeps the canonical form. -/
theorem loseMems_wf (s : State) (d : Fin 18) (h : Memory.wf s.mem = true) : Memory.wf (s.loseMems d).mem = true :=
  filter_canonical memDefault s.mem _ h

/-- Memory after reset lists nothing. -/
theorem reset_wf : Memory.wf State.reset.mem = true := rfl

end Sys2Proof.Machine
end

