-- ==== Sys2Proof/Laws/Regs.lean ====
section
/-!
SUPPORT. Addresses of registers and window words: every one is a multiple of 4.
-/
namespace Sys2Proof.Machine

theorem Reg.addr_aligned (r : Reg) : r.addr % 4 = 0 := by
  rcases r with r | r | r | r | r | r | r | r | r | r | r | r | r | r | r | ⟨p, r⟩ | ⟨p, r⟩ | e | ⟨a, r⟩ | ⟨n, r⟩ | r | r | ⟨n, r⟩ |
    ⟨d, r⟩ | ⟨d, r⟩ | r | r
  all_goals try cases r
  all_goals
    simp only [Reg.addr, kprOff, injAddr, clkOff, pwrOff, sashOff, ldgOff, partOff, keyOff, fwOff, canOff, prbOff, arbOff, orqOff,
      calOff, repOff, lnkOff, rcOff, abayOff, adcOff, xbarOff, convOff, wdacOff, cfgOff, memOff, linOff, ioOff]
  all_goals omega

theorem Target.window_aligned (d : Fin 18) (m : Fin 4) (k : BitVec 10) : (Target.window d m k).addr % 4 = 0 := by
  simp only [Target.addr]
  omega

end Sys2Proof.Machine
end

