-- ==== Sys2Proof/WellFormed.lean ====
section
/-!
DEFINITION. Well-formed commands: what a moment brings in from outside has the size that the spec gives it. A Darem command
has no check here, since the keeper itself checks a packet and answers a bad one (R301, R409).
-/
namespace Sys2Proof

/-- The size that an operand from outside must have, for the commands that bring one in. -/
def Instr.wellFormed : Instr → Bool
  -- LIN_STAGE and LIN_ACTIVE have 12-bit destinations, and memory blocks hold 4,096 entries: the operand types say so.
  | .pwrMeasureUpdate _ _ mon => mon.length == 32
  | .sashIdentityRead ack ident pages _ => !ack || (ident.length == 64 && pages.length == 8 && pages.all fun g => g.length == 64)
  | .sashIdRetry ack ident pages => !ack || (ident.length == 64 && pages.length == 8 && pages.all fun g => g.length == 64)
  | .biasRampStep current => current.length == 4
  | .trainingBlockReceived _ block _ _ => block.length == 48
  | .segmentDelivery _ segment _ => segment.length == 15
  | .flitArrival _ flit => flit.length == 48
  | .canFrameReceive frame _ => match frame with | some x => x.2.length ≤ 64 | none => true
  | .arbCommit beats _ _ => beats.length ≤ 128
  | _ => true

end Sys2Proof
end

