-- ==== Sys2Proof/Tests/Slice0.lean ====
section
/-!
SUPPORT. The model's own tests: for each statement with hypotheses, states that meet them, clause by clause; and a few small
tests with numbers of the specification.
-/
open Sys2Proof Sys2Proof.Machine

section
set_option Elab.async false
set_option linter.unusedVariables false

namespace W
def hw : State := { State.reset with pwr := { State.reset.pwr with phase := .running } }
def turn : State := { hw with resuming := true }
def hd : Header := { path := .link 0, dest := 0x0101, src := 0x0202, part := 0, pkind := 0, flags := 0, status := 0, cmdId := 7, epoch := 0, plen := 0, seg := 0, rsvd := 0, mac := [], poisoned := false }
def clk (f : Clk → Clk) : State := { hw with clk := f hw.clk }
def onA : State := hw.onDom 0 fun d => { d with state := .on }
def sync (s : State) : State := { s with pwr := { s.pwr with req := wordOfBits (((List.finRange 32).filter s.seqOn).map (·.val)) } }
end W

/-- States that meet the hypotheses of `ClockCompletes`, clause by clause. -/
theorem hypotheses_ClockCompletes :
    (∃ (s : State), s.hw = true ∧ s.clk.refPresent = true) ∧
    (∃ (s : State), s.hw = true ∧ s.clk.refPresent = false) ∧
    (∃ (s : State), s.hw = true ∧ s.clk.refPresent = true ∧ s.clk.ferr.toInt.natAbs ≤ 500) ∧
    (∃ (s : State), s.hw = true ∧ s.clk.qualified = true ∧ s.clk.lock = false) ∧
    (∃ (s : State) (ppm : Half), s.hw = true ∧ s.clk.refPresent = true ∧ ppm.toInt.natAbs ≤ 500) ∧
    (∃ (s : State), s.hw = true ∧ s.clk.syncSrc = 1 ∧ s.clk.syncArmed = true ∧ s.clk.syncSeen = false ∧ s.clk.syncPinWas = false ∧
      s.clk.freewheel = false) ∧
    (∃ (s : State) (p : Fin 4) (pin : Bool), s.hw = true ∧ s.clk.syncSrc = BitVec.ofNat 3 (2 + p.val) ∧ s.clk.syncArmed = true ∧
      s.clk.syncSeen = false ∧ s.ports[p].rxValid = true ∧ s.ports[p].rxSync = true ∧ s.ports[p].rxSyncWas = false ∧
      s.clk.freewheel = false) ∧
    (∃ (s : State), s.hw = true ∧ s.clk.syncDue = true ∧ s.clk.syncCk < s.ck ∧ s.clk.syncArmed = true ∧ s.clk.freewheel = false ∧
      s.clk.syncNow = [] ∧ s.clk.syncMode ≠ 2) ∧
    (∃ (s : State), s.hw = true ∧ s.clk.syncDue = true ∧ s.clk.syncCk < s.ck ∧ s.clk.syncArmed = true ∧ s.clk.freewheel = false ∧
      s.clk.syncNow = [] ∧ s.clk.syncMode = 2 ∧ aligned s.clk.et = aligned s.clk.syncValue ∧ s.armedOn 0x081 0 = none) ∧
    (∃ (s : State), s.hw = true ∧ s.clk.syncDue = true ∧ s.clk.syncCk < s.ck ∧ s.clk.syncArmed = true ∧ s.clk.freewheel = false ∧
      s.clk.syncNow = [] ∧ s.clk.syncMode = 2 ∧ aligned s.clk.et ≠ aligned s.clk.syncValue) ∧
    (∃ (s : State), s.hw = true ∧ s.clk.syncNow ≠ [] ∧ s.clk.syncDue = true ∧ s.clk.syncCk < s.ck ∧ s.clk.syncArmed = true ∧
      s.clk.freewheel = false) ∧
    (∃ (s : State), s.hw = true ∧ s.clk.syncNow ≠ [] ∧ s.clk.syncDue = false ∧ s.clk.freewheel = false) ∧
    (∃ (s : State) (pin : Bool), s.hw = true ∧ s.clk.gap = false ∧ ((s.clk.gapActive = 1 ∧ pin = true ∨ (∃ p : Fin 4,
      s.clk.gapActive = BitVec.ofNat 3 (2 + p.val) ∧ s.gapBit p = true) ∨ s.clk.gapActive = 6 ∧ s.clk.genInvalid = false ∧
      s.clk.genCount.toNat < s.clk.genLength.toNat))) ∧
    (∃ (s : State) (pin : Bool), s.hw = true ∧ s.clk.gap = true ∧ ((s.clk.gapActive = 0 ∨ s.clk.gapActive = 1 ∧
      pin = false ∨ (∃ p : Fin 4, s.clk.gapActive = BitVec.ofNat 3 (2 + p.val) ∧ s.gapBit p = false) ∨ s.clk.gapActive = 6 ∧
      (s.clk.genInvalid = true ∨ s.clk.genLength.toNat ≤ s.clk.genCount.toNat)))) ∧
    (∃ (s : State), s.hw = true ∧ s.clk.gapSrc = 0 ∧ s.clk.gapActive ≠ 0 ∧ s.clk.gap = false) ∧
    (∃ (s : State), s.hw = true ∧ s.clk.genPend = true) ∧
    (∃ (s : State) (v : Word), s.hw = true ∧ syncOk (bits v 0 3).toNat (bits v 4 2).toNat = true ∧ testBit v 8 = true) ∧
    (∃ (s : State) (v : Word), s.hw = true ∧ testBit v 0 = true) ∧
    (∃ (s : State) (h : Header), Turn s) ∧
    (∃ (s : State) (h : Header) (src : Byte) (mode : Byte) (value : Et), Turn s ∧ src.toNat ≤ 5 ∧ mode.toNat ≤ 2) ∧
    (∃ (s : State) (h : Header) (value : Et), Turn s ∧ s.clk.freewheel = false) ∧
    (∃ (s : State) (h : Header) (src : Byte) (period : Half) (length : Half), Turn s ∧ src.toNat ≤ 6 ∧
      (src = 6 → genValid period length = true)) := by
  refine ⟨⟨(W.clk fun x => { x with refPresent := true }), ?_⟩,
    ⟨W.hw, ?_⟩,
    ⟨(W.clk fun x => { x with refPresent := true }), ?_⟩,
    ⟨(W.clk fun x => { x with qualified := true }), ?_⟩,
    ⟨(W.clk fun x => { x with refPresent := true }), 500, ?_⟩,
    ⟨(W.clk fun x => { x with syncSrc := 1, syncArmed := true, freewheel := false }), ?_⟩,
    ⟨{ W.clk (fun x => { x with syncSrc := 3, syncArmed := true, freewheel := false }) with ports := W.hw.ports.set 1 { W.hw.ports[1] with rxValid := true, rxSync := true } }, 1, false, ?_⟩,
    ⟨{ W.clk (fun x => { x with syncSrc := 1, syncArmed := true, syncDue := true, freewheel := false, syncValue := 0x1234567 }) with ck := 9 }, ?_⟩,
    ⟨{ W.clk (fun x => { x with syncSrc := 1, syncArmed := true, syncDue := true, syncMode := 2, freewheel := false, syncValue := 0x7, et := 0, etSuspect := true }) with ck := 9 }, ?_⟩,
    ⟨{ W.clk (fun x => { x with syncSrc := 1, syncArmed := true, syncDue := true, syncMode := 2, freewheel := false, syncValue := 0x8, et := 0 }) with ck := 9 }, ?_⟩,
    ⟨{ W.clk (fun x => { x with syncSrc := 1, syncArmed := true, syncDue := true, syncMode := 2, syncNow := [⟨0, 7⟩], freewheel := false, syncValue := 0x8, et := 0 }) with ck := 9 }, ?_⟩,
    ⟨(W.clk fun x => { x with syncNow := [⟨0, 7⟩], freewheel := false, syncValue := 0x1234567 }), ?_⟩,
    ⟨(W.clk fun x => { x with gapActive := 6, genPeriod := 3125, genLength := 120 }), false, ?_⟩,
    ⟨{ W.clk (fun x => { x with gapActive := 5, gap := true }) with ck := 9 }, true, ?_⟩,
    ⟨(W.clk fun x => { x with gapActive := 1 }), ?_⟩,
    ⟨(W.clk fun x => { x with genPend := true }), ?_⟩,
    ⟨W.hw, 0x125, ?_⟩,
    ⟨W.hw, 1, ?_⟩,
    ⟨W.turn, W.hd, ?_⟩,
    ⟨W.turn, W.hd, 5, 2, 0x1234567, ?_⟩,
    ⟨{ W.turn with clk := { W.turn.clk with freewheel := false } }, W.hd, 0x1234567, ?_⟩,
    ⟨W.turn, W.hd, 6, 2, 1, ?_⟩⟩ <;> ((try simp only [Turn]) <;> decide +kernel)

namespace W03
open W
def pwr (f : Pwr → Pwr) : State := { hw with pwr := f hw.pwr }
def dom (i : Fin 32) (f : Dom → Dom) : State := hw.onDom i f
def node (f : Node → Node) : State := { hw with node := f hw.node }
end W03

/-- States that meet the hypotheses of `PowerMomentsComplete`, clause by clause. -/
theorem hypotheses_PowerMomentsComplete :
    (∃ (s : State), s.pwr.phase = .off ∧ s.pwr.presLow = true) ∧
    (∃ (s : State), s.pwr.phase = .off ∧ s.pwr.inputGood = true) ∧
    (∃ (s : State), s.pwr.phase = .off ∧ s.pwr.counting = true) ∧
    (∃ (s : State) (ok : Bool), s.pwr.phase = .closed) ∧
    (∃ (s : State), s.pwr.phase = .running ∧ (∀ i : Fin 256, s.armedOn 0x1C0 (BitVec.ofFin i) = none)) ∧
    (∃ (s : State), s.pwr.phase = .running ∧ s.part.changes = [] ∧ s.keys.jobs = []) ∧
    (∃ (s : State), s.pwr.phase = .holdUp) ∧
    (∃ (s : State) (a : Bool) (b : Bool), s.pwr.phase = .closed ∧ s.fw.trial = false) ∧
    (∃ (s : State) (ga : BitVec 6) (ca : Byte), s.hw = true ∧ s.node.sampling = true ∧ s.node.count < 7) ∧
    (∃ (s : State) (ga : BitVec 6) (ca : Byte), s.hw = true ∧ s.node.sampling = true ∧ s.node.count = 7 ∧ s.node.agree = true ∧
      s.node.first = strapAddr ga ca ∧ strapsOk ga ca = true) ∧
    (∃ (s : State) (ga : BitVec 6) (ca : Byte), s.hw = true ∧ s.node.sampling = false ∧ s.node.valid = true ∧ s.node.differ = 7 ∧
      strapAddr ga ca ≠ s.node.addr) ∧
    (∃ (s : State) (i : Fin 32), s.hw = true ∧ s.pwr.held = false ∧ s.rampingDom = none ∧
      (List.finRange 32).find? (fun i => (s.dom i).wantOn && (s.dom i).state == .off) = some i) ∧
    (∃ (s : State) (i : Fin 32), s.hw = true ∧ s.rampingDom = some i ∧ s.armedOn 0x043 (BitVec.ofNat 8 i.val) = none) ∧
    (∃ (s : State) (i : Fin 32), s.hw = true ∧ s.rampingDom = some i) ∧
    (∃ (s : State) (i : Fin 32), s.hw = true ∧ (s.dom i).state = .ramping ∧ (s.dom i).good = true) ∧
    (∃ (s : State) (i : Fin 32), s.hw = true ∧ (s.dom i).state = .on ∧ (s.dom i).wantOff = true) ∧
    (∃ (s : State) (i : Fin 32), s.hw = true ∧ (s.dom i).state = .draining ∧ (s.dom i).isolated = false ∧ s.domHolds i = false) ∧
    (∃ (s : State) (i : Fin 32), s.hw = true ∧ (s.dom i).state = .draining ∧ (s.dom i).isolated = true) ∧
    (∃ (s : State) (i : Fin 32), s.hw = true ∧ (s.dom i).state = .draining ∧ (s.dom i).switchOpen = true) ∧
    (∃ (s : State) (i : Fin 32) (k : Monitor), s.hw = true ∧ (s.dom i).switchOpen = false ∧ (¬(i = 31 ∧ k = .uv))) ∧
    (∃ (s : State), s.serves = true) ∧
    (∃ (s : State) (vin : Half) (iin : Half) (mon : Vector Word 32), s.serves = true) ∧
    (∃ (s : State) (v : Half), s.serves = true) ∧
    (∃ (s : State) (v : Half), s.hw = true) ∧
    (∃ (s : State) (v : Half), s.hw = true ∧ s.pwr.warn = false ∧ 1600 ≤ v.toInt) ∧
    (∃ (s : State) (v : Half), s.hw = true ∧ s.pwr.warn = true ∧ v.toInt < 1568 ∧ s.thermHeld 0x082 = false) ∧
    (∃ (s : State) (v : Half), s.hw = true ∧ s.pwr.nvwDefer = true ∧ v.toInt < 1648 ∧ s.thermHeld 0x083 = false) ∧
    (∃ (s : State) (v : Half), s.hw = true ∧ s.pwr.nvwDefer = false ∧ 1680 ≤ v.toInt) ∧
    (∃ (s : State) (v : Half), s.hw = true ∧ 1840 ≤ v.toInt) ∧
    (∃ (s : State) (v : Half), s.pwr.phase = .hotStop ∧ v.toInt < 1440 ∧ s.thermHeld 0x084 = false ∧ s.fw.trial = false) ∧
    (∃ (s : State), s.kpr = true ∧ s.pwr.nvwDefer = false) ∧
    (∃ (s : State), s.kpr = true ∧ s.fw.trial = false) ∧
    (∃ (s : State), s.kpr = true) ∧
    (∃ (s : State), s.pwr.phase = .booting ∧ s.fw.recovery = false) ∧
    (∃ (s : State), s.pwr.phase = .booting ∧ s.fw.recovery = true) := by
  refine ⟨⟨(W03.pwr fun x => { x with phase := .off, presLow := true }), ?_⟩,
    ⟨(W03.pwr fun x => { x with phase := .off, inputGood := true }), ?_⟩,
    ⟨(W03.pwr fun x => { x with phase := .off, counting := true }), ?_⟩,
    ⟨(W03.pwr fun x => { x with phase := .closed }), false, ?_⟩,
    ⟨W.hw, ?_⟩,
    ⟨W.hw, ?_⟩,
    ⟨(W03.pwr fun x => { x with phase := .holdUp }), ?_⟩,
    ⟨(W03.pwr fun x => { x with phase := .closed }), false, false, ?_⟩,
    ⟨W.hw, 5, 6, ?_⟩,
    ⟨(W03.node fun x => { x with count := 7, agree := true, first := 0x0605 }), 5, 6, ?_⟩,
    ⟨(W03.node fun x => { x with sampling := false, valid := true, differ := 7 }), 5, 6, ?_⟩,
    ⟨(W03.dom 9 fun d => { d with wantOn := true }), 9, ?_⟩,
    ⟨(W03.dom 9 fun d => { d with state := .ramping, good := false }), 9, ?_⟩,
    ⟨(W03.dom 9 fun d => { d with state := .ramping, good := false }), 9, ?_⟩,
    ⟨(W03.dom 9 fun d => { d with state := .ramping, good := true }), 9, ?_⟩,
    ⟨(W03.dom 9 fun d => { d with state := .on, wantOff := true }), 9, ?_⟩,
    ⟨(W03.dom 9 fun d => { d with state := .draining, isolated := false }), 9, ?_⟩,
    ⟨(W03.dom 9 fun d => { d with state := .draining, isolated := true }), 9, ?_⟩,
    ⟨(W03.dom 9 fun d => { d with state := .draining, switchOpen := true }), 9, ?_⟩,
    ⟨(W03.dom 9 fun d => { d with state := .on, switchOpen := false }), 9, .ov, ?_⟩,
    ⟨(W03.dom 9 fun d => { d with state := .on }), ?_⟩,
    ⟨W.hw, 5, 6, (Vector.replicate 32 0x30002), ?_⟩,
    ⟨W.hw, 5, ?_⟩,
    ⟨W.hw, 5, ?_⟩,
    ⟨W.hw, 1600, ?_⟩,
    ⟨(W03.pwr fun x => { x with warn := true }), 1567, ?_⟩,
    ⟨(W03.pwr fun x => { x with nvwDefer := true }), 1647, ?_⟩,
    ⟨W.hw, 1680, ?_⟩,
    ⟨W.hw, 1840, ?_⟩,
    ⟨(W03.pwr fun x => { x with phase := .hotStop }), 1439, ?_⟩,
    ⟨W.hw, ?_⟩,
    ⟨W.hw, ?_⟩,
    ⟨W.hw, ?_⟩,
    ⟨(W03.pwr fun x => { x with phase := .booting }), ?_⟩,
    ⟨{ W03.pwr (fun x => { x with phase := .booting }) with fw := { W.hw.fw with recovery := true } }, ?_⟩⟩ <;> decide +kernel

/-- States that meet the hypotheses of `PowerCommandsComplete`, clause by clause. -/
theorem hypotheses_PowerCommandsComplete :
    (∃ (s : State) (h : Header), Turn s) ∧
    (∃ (s : State) (h : Header) (on : Word) (off : Word), Turn s ∧
      ((domsOf (on ||| off)).foldl State.auditDom (s.atTurn h)).domainRefused on off = none) ∧
    (∃ (s : State) (h : Header) (mask : Word), Turn s) ∧
    (∃ (s : State) (h : Header) (unit : Byte) (d : Fin 18), Turn s ∧ unit.toNat = 9 + d.val ∧
      (s.atTurn h).isSuspect (domOfD d) = false ∧ s.dbays[d].cfg ≠ .loading ∧ s.inRepair (9 + d.val) = false) ∧
    (∃ (s : State) (h : Header) (unit : Byte), Turn s) ∧
    (∃ (s : State) (h : Header), Turn s ∧ s.pwr.held = true ∧ s.pwr.dieT.toInt < 1440) ∧
    (∃ (s : State) (h : Header) (mask : Word), Turn s ∧
      (domsOf mask).any ((domsOf mask).foldl State.auditDom (s.atTurn h)).isSuspect = false) ∧
    (∃ (s : State) (v : Word), s.hw = true ∧ testBit v 0 = true) := by
  refine ⟨⟨W.turn, W.hd, ?_⟩,
    ⟨W.turn, W.hd, 0x200, 0x1, ?_⟩,
    ⟨(W.turn.onPwr fun x => {x with suspect := 7 }), W.hd, 0x3, ?_⟩,
    ⟨W.turn, W.hd, 10, 1, ?_⟩,
    ⟨(W.turn.onDom 9 fun d => { d with state := .on }), W.hd, 10, ?_⟩,
    ⟨(W.turn.onPwr fun x => {x with held := true }), W.hd, ?_⟩,
    ⟨(W.turn.onDom 9 fun d => { d with state := .tripped }), W.hd, 0x200, ?_⟩,
    ⟨W.hw, 1, ?_⟩⟩ <;> ((try simp only [Turn]) <;> decide +kernel)

namespace W04
open W
def sash (f : Sash → Sash) : State := { hw with sash := f hw.sash }
def ident (type : Word) : List Byte := let b : List Byte := le 4 type ++ [1,0,0,0,0,0,0,4,0,2] ++ List.replicate 46 0; b ++ le 4 (crc32 b)
end W04

/-- States that meet the hypotheses of `SashCompletes`, clause by clause. -/
theorem hypotheses_SashCompletes :
    (∃ (s : State), s.hw = true ∧ s.sash.state = .absent ∧ s.sash.pinS = false) ∧
    (∃ (s : State), s.hw = true ∧ s.sash.state = .present ∧ s.sash.pinL = true ∧ s.sash.pinS = true) ∧
    (∃ (s : State), s.hw = true ∧ s.sash.state = .present ∧ s.sash.pinL = true ∧ s.sash.pinS = true) ∧
    (∃ (s : State), s.hw = true ∧ s.sash.state = .partialMate ∧ s.sash.pinL = true ∧ s.sash.pinS = true) ∧
    (∃ (s : State) (ident : List Byte) (pages : List (List Byte)), s.serves = true ∧ s.sash.state = .reading ∧
      s.armedOn 0x1C3 0 = none ∧ identOk ident = true ∧ s.sash.expect = 0 ∧ rd 32 ident 0 4 = 0x5A536444) ∧
    (∃ (s : State) (ident : List Byte) (pages : List (List Byte)), s.serves = true ∧ s.sash.state = .reading) ∧
    (∃ (s : State), s.serves = true ∧ s.sash.state = .absent) ∧
    (∃ (s : State) (ident : List Byte) (pages : List (List Byte)), s.serves = true ∧ s.sash.state = .idFault ∧
      s.sash.faultFromAbsent = false ∧ s.armedOn 0x1C3 0 = none ∧ identOk ident = true ∧ s.sash.expect = 0x5A536442 ∧
      rd 32 ident 0 4 = 0x5A536442) ∧
    (∃ (s : State) (current : List Half), s.hw = true ∧ s.isOn 31 = true) ∧
    (∃ (s : State) (q : Fin 8), s.serves = true ∧ s.biasOn = true ∧ s.pwr.nvwDefer = false ∧ s.sash.writing = none ∧
      s.sash.frozen = false ∧ s.sash.state = .present ∧ s.sash.failedAt = none ∧ s.sash.nextPage s.sash.page = some q) ∧
    (∃ (s : State) (p : Fin 8), s.serves = true ∧ s.sash.writing = some p ∧ s.armedOn 0x1C2 (BitVec.ofNat 8 p.val) = none ∧
      s.sash.pageWrites[p].toNat < 999999 ∧ s.sash.due = false) ∧
    (∃ (s : State) (q : Fin 8), s.serves = true ∧ s.sash.due = true ∧ s.pwr.nvwDefer = false ∧ s.sash.writing = none ∧
      s.sash.frozen = false ∧ s.sash.state = .present ∧ s.sash.failedAt = none ∧ s.sash.nextPage s.sash.page = some q) ∧
    (∃ (s : State) (v : Half), s.serves = true ∧ s.sash.state = .present) ∧
    (∃ (s : State) (h : Header), Turn s ∧ s.sash.mated = true) ∧
    (∃ (s : State) (h : Header) (v : Word), Turn s ∧ expectOk v = true) ∧
    (∃ (s : State) (h : Header) (g : Half) (rate : Byte), Turn s ∧ (s.atTurn h).isSuspect 31 = false ∧ s.isOn 31 = true ∧
      g.toNat ≤ s.sash.vmax.toNat ∧ g.toNat ≤ 4095 ∧ 1 ≤ rate.toNat ∧ rate.toNat ≤ 100) ∧
    (∃ (s : State) (h : Header), Turn s ∧ s.sash.state ≠ .absent) := by
  refine ⟨⟨(W.hw), ?_⟩,
    ⟨((W04.sash fun x => { x with state := .present, pinL := true, pinS := true }).onDom 31 fun d => { d with state := .on }), ?_⟩,
    ⟨((W04.sash fun x => { x with state := .present, pinL := true, pinS := true }).onDom 31 fun d => { d with state := .on }), ?_⟩,
    ⟨(W04.sash fun x => { x with state := .partialMate, pinL := true, pinS := true }), ?_⟩,
    ⟨(W04.sash fun x => { x with state := .reading }), (W04.ident typeD), [], ?_⟩,
    ⟨(W04.sash fun x => { x with state := .reading }), [], [], ?_⟩,
    ⟨(W.hw), ?_⟩,
    ⟨(W04.sash fun x => { x with state := .idFault, expect := typeB }), (W04.ident typeB), [], ?_⟩,
    ⟨((W04.sash fun x => { x with setpoint := Vector.replicate 4 100 }).onDom 31 fun d => { d with state := .on }), [1,2,3,4], ?_⟩,
    ⟨((W04.sash fun x => { x with state := .present, setpoint := Vector.replicate 4 100 }).onDom 31 fun d => { d with state := .on }), 0, ?_⟩,
    ⟨(W04.sash fun x => { x with state := .present, writing := some 3 }), 3, ?_⟩,
    ⟨(W04.sash fun x => { x with state := .present, due := true }), 0, ?_⟩,
    ⟨(W04.sash fun x => { x with state := .present }), 5, ?_⟩,
    ⟨{ W.turn with sash := { W.turn.sash with state := .present } }, W.hd, ?_⟩,
    ⟨{ W.turn with sash := { W.turn.sash with state := .present } }, W.hd, typeB, ?_⟩,
    ⟨({ W.turn with sash := { W.turn.sash with state := .present, ident := W04.ident typeB } }.onDom 31 fun d => { d with state := .on }), W.hd, 2, 100, ?_⟩,
    ⟨{ W.turn with sash := { W.turn.sash with state := .present } }, W.hd, ?_⟩⟩ <;> ((try simp only [Turn]) <;> decide +kernel)

/-- States that meet the hypotheses of `AnalogueCompletes`, clause by clause. -/
theorem hypotheses_AnalogueCompletes :
    (∃ (s : State) (a : Fin 9) (k : Fin 8), s.hw = true ∧ s.isOn (domOfA a) = true) ∧
    (∃ (s : State) (a : Fin 9) (k : Fin 8), s.hw = true) ∧
    (∃ (s : State) (a : Fin 9) (k : Fin 8) (o : Fin 8) (v : Int), s.hw = true ∧ s.isOn (domOfA a) = true ∧
      s.abays[a].slots[k].ovl = false ∧ s.xbar.primaryNow[o].toNat = a.val ∧
      1000000 * 32768 < (v * 2 ^ (bits s.abays[a].slots[k].cfgNow 0 3).toNat * (rd 16 (s.coef (0x20 + 8 * a.val + k.val)).body (2 * (bits s.abays[a].slots[k].cfgNow 0 3).toNat) 2).toNat).natAbs) ∧
    (∃ (s : State) (a : Fin 9) (volts : List Int), s.hw = true ∧ s.isOn (domOfA a) = true ∧
      1000000 * 2 ^ (bits s.abays[a].sumCfg 16 2).toNat < (s.sumNode volts (s.line volts) a).natAbs) ∧
    (∃ (s : State) (a : Fin 9) (b : Fin 9) (k : Fin 2) (j : Fin 2) (line : Fin 4) (cls : Cls) (held : Cls), s.hw = true ∧
      s.inRepair a.val = false ∧ a ≠ b ∧ s.xbar.lines[line] = some { bay := b, so := j, cls := held } ∧ held.rank < cls.rank ∧
      soSrc s.abays[a].so k ≠ 17 ∧ (∀ n : Fin 4, n ≠ line → s.xbar.lines[n] = none)) ∧
    (∃ (s : State) (a : Fin 9), s.hw = true) ∧
    (∃ (s : State) (p : Fin 32) (o : Fin 8) (v : Word), s.hw = true ∧ (xbarAccess p (.oct o) (s.unstage p)).who v = true ∧ (∀ i,
      Trusted s i) ∧ (bits v 0 4).toNat < 9 ∧ bits v 4 4 = 0xF ∧ s.octConflict o (bits v 0 4) (bits v 4 4) = false) ∧
    (∃ (s : State) (p : Fin 32) (a : Fin 9) (v : Word), s.hw = true ∧ s.owns p a.val = true ∧ Trusted s (domOfA a) ∧
      testBit v 0 = true) ∧
    (∃ (s : State), s.hw = true) ∧
    (∃ (s : State) (a : Fin 9) (k : Fin 8) (o : Fin 8) (bin : BitVec 6) (v : Int), s.hw = true ∧ s.delivers a k = true ∧
      s.xbar.primaryNow[o].toNat = a.val ∧ -1000000 ≤ v ∧ v ≤ 1000000 ∧ s.abays[a].slots[k].hi.out = false ∧
      bits s.abays[a].slots[k].hi.now 24 2 = 0 ∧ s.abays[a].settled ≤ s.ck ∧
      ((bits s.abays[a].slots[k].hi.now 0 12).toNat - 2048) * 2000 + s.cmpTrim a k true < 4 * v) ∧
    (∃ (s : State) (a : Fin 9) (k : Fin 8) (o : Fin 8) (bin : BitVec 6) (v : Int), s.hw = true ∧ s.delivers a k = true ∧
      s.xbar.primaryNow[o].toNat = a.val ∧ -1000000 ≤ v ∧ v ≤ 1000000 ∧ s.abays[a].slots[k].lo.out = true ∧
      bits s.abays[a].slots[k].lo.now 24 2 = 0 ∧ s.abays[a].settled ≤ s.ck ∧
      4 * v < ((bits s.abays[a].slots[k].lo.now 0 12).toNat - 2048) * 2000 + s.cmpTrim a k false - (bits s.abays[a].slots[k].lo.now 16 5).toNat * 5000) ∧
    (∃ (s : State) (a : Fin 9), s.hw = true ∧ s.isOn (domOfA a) = true) ∧
    (∃ (s : State) (p : Fin 32) (a : Fin 9) (v : Word), s.hw = true ∧ s.owns p a.val = true ∧ Trusted s (domOfA a) ∧
      testBit v 0 = true) ∧
    (∃ (s : State) (p : Fin 32) (a : Fin 9) (v : Word), s.hw = true ∧ s.owns p a.val = true ∧ Trusted s (domOfA a) ∧
      testBit v 0 = false) := by
  refine ⟨⟨W.onA, 0, 1, ?_⟩,
    ⟨W.onA, 0, 1, ?_⟩,
    ⟨{ W.onA with xbar := { W.onA.xbar with primaryNow := W.onA.xbar.primaryNow.set 1 0 } }, 0, 1, 1, 2000000, ?_⟩,
    ⟨({ W.onA with xbar := { W.onA.xbar with primaryNow := W.onA.xbar.primaryNow.set 1 0 } }.onAbay 0 fun b => { b with sumCfg := 0x10203 }), 0, [1500000, -600000], ?_⟩,
    ⟨({ W.onA with xbar := { W.onA.xbar with lines := W.onA.xbar.lines.set 2 (some ⟨3, 1, .user⟩) } }.onAbay 3 fun b => {b with so := 0xC000}), 0, 3, 0, 1, 2, .repair, .user, ?_⟩,
    ⟨W.onA, 0, ?_⟩,
    ⟨(W.sync W.onA), 0, 0, 0xF8, ?_⟩,
    ⟨(W.sync W.onA), 0, 0, 1, ?_⟩,
    ⟨{ W.onA with xbar := { W.onA.xbar with primary := W.onA.xbar.primary.set 1 8 } }, ?_⟩,
    ⟨(({ W.onA with xbar := { W.onA.xbar with primaryNow := W.onA.xbar.primaryNow.set 1 0 } }.onAbay 0 fun b => {b with slotEn := 0xFF}).onSlot 0 2 fun x => { x with hi := { x.hi with now := 0x00000800 } }), 0, 2, 1, 63, 1, ?_⟩,
    ⟨(({ W.onA with xbar := { W.onA.xbar with primaryNow := W.onA.xbar.primaryNow.set 1 0 } }.onAbay 0 fun b => {b with slotEn := 0xFF}).onSlot 0 2 fun x => { x with lo := { x.lo with out := true, now := 0x00010800 } }), 0, 2, 1, 63, (-1251), ?_⟩,
    ⟨W.onA, 0, ?_⟩,
    ⟨(W.sync W.onA), 0, 0, 1, ?_⟩,
    ⟨((W.sync W.onA).onAbay 0 fun b => { b with hold := true }), 0, 0, 0, ?_⟩⟩ <;> ((try simp only [Trusted]) <;> decide +kernel)

namespace W06
open W
def fired (s : State) : State := s.onTimer 0 fun x => { x with fired := true }
def adc (f : Adc → Adc) : State := sync (((hw.onDom 1 fun d => { d with state := .on }).onAdc 2 f))
def tmr (f : Timer → Timer) : State := hw.onTimer 3 f
def smp : Sample := { code := 5, entry := 2, urgent := false, shift := false, unsettled := false, late := false, clip := false, width := 0, et := 9 }
def t (s : State) : State := { s with resuming := true }
end W06

/-- States that meet the hypotheses of `ConverterMomentsComplete`, clause by clause. -/
theorem hypotheses_ConverterMomentsComplete :
    (∃ (s : State) (n : Fin 18), s.hw = true ∧ s.groupOf n = none ∧ s.adcStarts = [] ∧ s.adcState n = .idle ∧
      adcEn s.adcs[n].ctrl = true ∧ s.srcFires (adcSrc s.adcs[n].ctrl) (adcEdge s.adcs[n].ctrl) = true ∧ s.adcs[n].refRdy = true) ∧
    (∃ (s : State) (n : Fin 18), s.hw = true ∧ s.groupOf n = none ∧ s.adcStarts = [] ∧ s.adcState n = .running ∧
      adcEn s.adcs[n].ctrl = true ∧ s.srcFires (adcSrc s.adcs[n].ctrl) (adcEdge s.adcs[n].ctrl) = true) ∧
    (∃ (s : State) (n : Fin 18) (w : Analog), s.hw = true ∧ s.adcState n = .delay ∧ s.adcs[n].acc = 0 ∧ s.adcs[n].taken = 0 ∧
      entAvg s.adcs[n].entCfg[s.adcs[n].entry] = 0) ∧
    (∃ (s : State) (n : Fin 18) (w : Analog), s.hw = true ∧ s.adcState n = .running ∧ s.adcs[n].ended = false ∧
      s.adcs[n].taken + 1 < 2 ^ entAvg s.adcs[n].entCfg[s.adcs[n].entry]) ∧
    (∃ (s : State) (n : Fin 18) (w : Analog), s.hw = true ∧ s.adcState n = .running ∧ s.adcs[n].ended = true ∧
      s.adcs[n].atLast = true ∧ adcLoop s.adcs[n].ctrl = true ∧ s.adcs[n].taken + 1 < 2 ^ entAvg s.adcs[n].entCfg[(0 : Fin 16)]) ∧
    (∃ (s : State) (n : Fin 18) (r : Sample), s.hw = true ∧ s.adcs[n].pipe = [r] ∧ adcDest s.adcs[n].ctrl = 0 ∧
      s.adcs[n].queue.length < 63 ∧ testBit s.adcs[n].entCfg[r.entry] 24 = false ∧ r.urgent = false) ∧
    (∃ (s : State) (g : Fin 8), s.hw = true ∧ members s.groups[g].mask ≠ [] ∧ s.adcStarts = [] ∧
      s.srcFires (bits s.groups[g].ctrl 0 6).toNat (testBit s.groups[g].ctrl 6) = true ∧
      (members s.groups[g].mask).all s.memberReady = true) ∧
    (∃ (s : State) (g : Fin 8), s.hw = true ∧ members s.groups[g].mask ≠ [] ∧ s.adcStarts = [] ∧
      s.srcFires (bits s.groups[g].ctrl 0 6).toNat (testBit s.groups[g].ctrl 6) = true ∧
      (members s.groups[g].mask).all s.memberReady = false) ∧
    (∃ (s : State) (n : Fin 18) (w : Analog), s.hw = true ∧ testBit s.adcs[n].urg 0 = true ∧ testBit s.adcs[n].urg 1 = false ∧
      s.adcState n = .running ∧ s.adcs[n].pipe = [] ∧ s.srcFires (bits s.adcs[n].urg 2 6).toNat false = true) ∧
    (∃ (s : State) (n : Fin 18) (w : Analog), s.hw = true ∧ testBit s.adcs[n].urg 0 = true ∧ testBit s.adcs[n].urg 1 = true ∧
      s.adcState n = .running ∧ s.srcFires (bits s.adcs[n].urg 2 6).toNat false = true) ∧
    (∃ (s : State) (p : Fin 32) (n : Fin 18) (v : Word), s.hw = true ∧ s.owns p (0x40 + n.val) = true ∧ Trusted s (adcDom n) ∧
      (bits v 0 2).toNat ≤ 2 ∧ s.adcState n = .idle) ∧
    (∃ (s : State) (n : Fin 18), s.hw = true ∧ s.isOn (adcDom n) = true ∧ s.adcs[n].refSel = 0 ∧ s.adcs[n].state = .waitRef) ∧
    (∃ (s : State) (p : Fin 32) (n : Fin 18) (v : Word), s.hw = true ∧ s.owns p (0x40 + n.val) = true ∧ Trusted s (adcDom n) ∧
      s.adcs[n].queue ≠ [] ∧ rd 16 s.adcs[n].head 2 2 = bits v 0 16) ∧
    (∃ (s : State) (n : Fin 18), s.hw = true ∧ s.adcs[n].cls = .user ∧ adcEn s.adcs[n].ctrl = true ∧ s.adcs[n].displaced = false) ∧
    (∃ (s : State) (n : Fin 18), s.hw = true ∧ s.adcs[n].cls ≠ .user ∧ s.adcs[n].heldStart = false ∧ s.adcs[n].displaced = true) ∧
    (∃ (s : State) (x : Fin 16), s.hw = true ∧ s.timers[x].en = true ∧ s.timers[x].mode = false ∧ 4 ≤ s.timers[x].period.toNat ∧
      (s.clk.et - s.timers[x].offset).toNat % s.timers[x].period.toNat = 0) ∧
    (∃ (s : State) (x : Fin 16), s.hw = true ∧ s.timers[x].en = true ∧ s.timers[x].mode = true ∧ s.clk.et = s.timers[x].offset) ∧
    (∃ (s : State) (x : Fin 16), s.hw = true ∧ s.timers[x].cls = .user ∧ s.timers[x].en = true) ∧
    (∃ (s : State) (x : Fin 16) (en : Bool) (mode : Bool) (period : Word) (offset : Et), s.hw = true ∧ s.timers[x].cls = .repair ∧
      s.timers[x].saved = some (en, mode, period, offset) ∧ s.timers[x].displaced = true) ∧
    (∃ (s : State) (p : Fin 32) (n : Fin 18) (v : Word), s.hw = true ∧ s.owns p (0x40 + n.val) = true ∧ Trusted s (adcDom n) ∧
      testBit v 0 = true) := by
  refine ⟨⟨(W06.fired (W06.adc fun x => {x with ctrl := 7, refRdy := true, state := .idle})), 2, ?_⟩,
    ⟨(W06.fired (W06.adc fun x => {x with ctrl := 7, refRdy := true, state := .running})), 2, ?_⟩,
    ⟨(W06.adc fun x => {x with ctrl := 7, refRdy := true, state := .delay}), 2,
      { volts := List.replicate 148 999999, vref := 2500000, dev := 3 }, ?_⟩,
    ⟨(W06.adc fun x => {x with ctrl := 7, refRdy := true, state := .running, entCfg := Vector.replicate 16 0x80}), 2,
      { volts := List.replicate 148 999999, vref := 2500000, dev := 3 }, ?_⟩,
    ⟨(W06.adc fun x => {x with ctrl := 0x1000007, entry := 15, refRdy := true, state := .running, done := 1, entCfg := Vector.replicate 16 0x80}), 2, { volts := List.replicate 148 999999, vref := 2500000, dev := 3 }, ?_⟩,
    ⟨(W06.adc fun x => {x with ctrl := 7, state := .running, pipe := [W06.smp]}), 2, W06.smp, ?_⟩,
    ⟨{ (W06.fired (W06.adc fun x => {x with ctrl := 7, refRdy := true, state := .idle})) with groups := W.hw.groups.set 1 {mask := 4, ctrl := 1, miss := 3 } }, 1, ?_⟩,
    ⟨{ (W06.fired (W06.adc fun x => {x with ctrl := 7, refRdy := true, state := .running})) with groups := W.hw.groups.set 1 {mask := 6, ctrl := 1, miss := 3 } }, 1, ?_⟩,
    ⟨(W06.fired (W06.adc fun x => {x with ctrl := 7, state := .running, urg := 0x505})), 2,
      { volts := [7], vref := 2500000, dev := -3 }, ?_⟩,
    ⟨(W06.fired (W06.adc fun x => {x with ctrl := 7, state := .running, urg := 0x507})), 2,
      { volts := [7], vref := 2500000, dev := -3 }, ?_⟩,
    ⟨(W06.adc fun x => {x with ctrl := 7, state := .idle}), 0, 2, 6, ?_⟩,
    ⟨(W06.adc fun x => {x with ctrl := 7, state := .waitRef}), 2, ?_⟩,
    ⟨(W06.adc fun x => {x with queue := [resultBytes W06.smp 77 false]}), 0, 2, 77, ?_⟩,
    ⟨(W06.adc fun x => {x with ctrl := 7, state := .running}), 2, ?_⟩,
    ⟨(W06.adc fun x => {x with ctrl := 7, state := .lent, cls := .repair, displaced := true}), 2, ?_⟩,
    ⟨(W06.tmr fun x => {x with en := true, period := 4}), 3, ?_⟩,
    ⟨(W06.tmr fun x => {x with en := true, mode := true}), 3, ?_⟩,
    ⟨(W06.tmr fun x => {x with en := true, mode := true}), 3, ?_⟩,
    ⟨(W06.tmr fun x => {x with en := false, cls := .repair, displaced := true, saved := some (true, true, 5, 6)}), 3, true, true, 5,
      6, ?_⟩,
    ⟨(W06.adc fun x => {x with ctrl := 7, startMiss := 5}), 0, 2, 1, ?_⟩⟩ <;> ((try simp only [Trusted]) <;> decide +kernel)

/-- States that meet the hypotheses of `ConverterCommandsComplete`, clause by clause. -/
theorem hypotheses_ConverterCommandsComplete :
    (∃ (s : State) (h : Header) (n : Fin 18), Turn s ∧ (s.atTurn h).isSuspect (adcDom n) = false ∧ s.adcState n ≠ .disabled) ∧
    (∃ (s : State) (h : Header) (adc : Byte) (n : Fin 18), Turn s ∧ adc.toNat = n.val ∧ (s.atTurn h).isSuspect (adcDom n) = false ∧
      testBit s.adcs[n].urg 0 = true ∧ testBit s.adcs[n].urg 1 = false ∧ s.adcs[n].urgPend = false) ∧
    (∃ (s : State) (h : Header) (adc : Byte) (count : Byte) (n : Fin 18), Turn s ∧ adc.toNat = n.val ∧ 1 ≤ count.toNat ∧
      count.toNat ≤ 16 ∧ s.adcs[n].queue ≠ []) ∧
    (∃ (s : State) (h : Header) (adc : Byte) (count : Byte) (tag : Half) (n : Fin 18), Turn s ∧ adc.toNat = n.val ∧ 1 ≤ count.toNat ∧
      count.toNat ≤ 16 ∧ (s.atTurn h).isSuspect (adcDom n) = false ∧ s.adcs[n].queue ≠ [] ∧ rd 16 s.adcs[n].head 2 2 = tag) ∧
    (∃ (s : State) (h : Header) (adc : Byte) (count : Byte) (tag : Half) (n : Fin 18), Turn s ∧ adc.toNat = n.val ∧ 1 ≤ count.toNat ∧
      count.toNat ≤ 16 ∧ (s.atTurn h).isSuspect (adcDom n) = false ∧ s.adcs[n].queue ≠ [] ∧ rd 16 s.adcs[n].head 2 2 ≠ tag) ∧
    (∃ (s : State) (h : Header) (adc : Byte) (n : Fin 18), Turn s ∧ adc.toNat = n.val) ∧
    (∃ (s : State) (h : Header) (group : Byte) (g : Fin 8) (mask : Word) (src : Byte) (edge : Byte) (delay : Half), Turn s ∧
      group.toNat = g.val ∧ bits mask 18 14 = 0 ∧ src.toNat ≤ 33 ∧ edge.toNat ≤ 1 ∧ delay.toNat ≤ 4095 ∧
      (members (bits mask 0 18)).any (s.atTurn h).adcSuspect = false ∧ s.otherGroup g (bits mask 0 18) = false) ∧
    (∃ (s : State) (h : Header) (timer : Byte) (x : Fin 16) (period : Word) (offset : Et), Turn s ∧ timer.toNat = x.val ∧
      s.timers[x].en = false ∧ s.timers[x].cls = .user) := by
  refine ⟨⟨(W06.t (W06.adc fun x => {x with ctrl := 7, state := .idle})), W.hd, 2, ?_⟩,
    ⟨(W06.t (W06.adc fun x => {x with ctrl := 7, state := .idle, urg := 1})), W.hd, 2, 2, ?_⟩,
    ⟨(W06.t (W06.adc fun x => {x with queue := [resultBytes W06.smp 77 false]})), W.hd, 2, 16, 2, ?_⟩,
    ⟨(W06.t (W06.adc fun x => {x with queue := [resultBytes W06.smp 77 false]})), W.hd, 2, 16, 77, 2, ?_⟩,
    ⟨(W06.t (W06.adc fun x => {x with queue := [resultBytes W06.smp 77 false]})), W.hd, 2, 16, 78, 2, ?_⟩,
    ⟨(W06.t (W06.adc fun x => {x with queue := [resultBytes W06.smp 77 false]})), W.hd, 2, 2, ?_⟩,
    ⟨W.turn, W.hd, 7, 7, 0x3FFFF, 33, 1, 4095, ?_⟩,
    ⟨W.turn, W.hd, 15, 15, 3, 4, ?_⟩⟩ <;> ((try simp only [Turn]) <;> decide +kernel)

namespace W07
open W
def wd (f : Wdac → Wdac) : State := hw.onWdac 3 f
def twd (f : Wdac → Wdac) : State := turn.onWdac 3 f
def wjob : Job := { cmd := none, type := 2, index := 3, kind := 4, gap := false, apply := true, cls := .blocking, state := .noticed, steps := 0, point0 := none, point1 := none, pend := none, aborted := false, ending := false }
end W07

/-- States that meet the hypotheses of `WaveformCompletes`, clause by clause. -/
theorem hypotheses_WaveformCompletes :
    (∃ (s : State) (p : Fin 32) (n : Fin 8) (v : Word), s.hw = true ∧ s.owns p (0x60 + n.val) = true ∧ s.wdacs[n].state = .stopped ∧
      s.wdacs[n].cls = .user ∧ wdacOutEn s.wdacs[n].ctrl = false ∧ wdacStart v = 0) ∧
    (∃ (s : State) (n : Fin 8), s.hw = true ∧ s.wdacs[n].cls = .user ∧ wdacOutEn s.wdacs[n].ctrl = true ∧
      s.wdacs[n].displaced = false) ∧
    (∃ (s : State) (n : Fin 8), s.hw = true ∧ s.wdacs[n].cls = .blocking ∧ s.wdacs[n].displaced = true) ∧
    (∃ (s : State) (p : Fin 32) (n : Fin 8), s.hw = true ∧ s.owns p (0x60 + n.val) = true ∧ s.wdacs[n].state = .stopped ∧
      s.wdacs[n].short = false) ∧
    (∃ (s : State) (p : Fin 32) (n : Fin 8), s.hw = true ∧ s.owns p (0x60 + n.val) = true ∧ s.wdacs[n].state = .running) ∧
    (∃ (s : State) (p : Fin 32) (n : Fin 8), s.hw = true ∧ s.owns p (0x60 + n.val) = true ∧ s.wdacs[n].state = .stopped) ∧
    (∃ (s : State) (n : Fin 8), s.hw = true ∧ s.clk.atBoundary = true ∧ s.wdacs[n].state = .waitStart ∧ s.wdacs[n].cmdStart = true ∧
      s.wdacs[n].heldStart = false ∧ s.wdacWaits = []) ∧
    (∃ (s : State) (n : Fin 8) (v : Half) (q : List Half), s.hw = true ∧ s.wdacs[n].runs = true ∧ s.wdacs[n].claim = none ∧
      s.wdacs[n].stopPend = false ∧ wdacSrc s.wdacs[n].ctrl = 1 ∧ s.wdacs[n].queue = v :: q) ∧
    (∃ (s : State) (n : Fin 8), s.hw = true ∧ s.wdacs[n].runs = true ∧ s.wdacs[n].claim = none ∧ s.wdacs[n].stopPend = false ∧
      wdacSrc s.wdacs[n].ctrl = 1 ∧ s.wdacs[n].queue = [] ∧ s.wdacs[n].underrunSeen = false) ∧
    (∃ (s : State) (n : Fin 8), s.hw = true ∧ s.wdacs[n].runs = true ∧ s.wdacs[n].claim = none ∧ s.wdacs[n].stopPend = false ∧
      wdacSrc s.wdacs[n].ctrl = 3) ∧
    (∃ (s : State) (n : Fin 8), s.hw = true ∧ s.wdacs[n].runs = true ∧ s.wdacs[n].claim = none ∧ s.wdacs[n].stopPend = true ∧
      s.wdacWaits = []) ∧
    (∃ (s : State) (n : Fin 8) (j : Fin 16) (x : Job), s.hw = true ∧ s.wdacs[n].runs = true ∧ s.wdacs[n].claim = some j ∧
      s.wdacs[n].cls = .user ∧ s.cal.jobs[j] = some x ∧ x.unit = 0x70 + n.val ∧ x.gap = false ∧ x.cls = .blocking ∧
      x.state = .noticed) ∧
    (∃ (s : State) (n : Fin 8), s.hw = true ∧ wdacSrc s.wdacs[n].ctrl = 0 ∧ s.wdacs[n].cls = .user) ∧
    (∃ (s : State) (p : Fin 32) (n : Fin 8) (v : Word), s.hw = true ∧ s.owns p (0x60 + n.val) = true ∧
      (s.wdacs[n].runs = true → wdacSrc s.wdacs[n].ctrl ≠ 2)) ∧
    (∃ (s : State) (p : Fin 32) (n : Fin 8) (v : Word), s.hw = true ∧ s.owns p (0x60 + n.val) = true ∧
      s.wdacs[n].state = .stopped) ∧
    (∃ (s : State) (p : Fin 32) (n : Fin 8) (v : Word), s.hw = true ∧ s.owns p (0x60 + n.val) = true ∧ testBit v 0 = true) ∧
    (∃ (s : State) (h : Header) (k : Byte) (count : Byte) (n : Fin 8) (samples : List Half), Turn s ∧ k.toNat = n.val ∧
      s.wdacs[n].runs = false ∧ samples.length ≤ 1024 - s.wdacs[n].queue.length) ∧
    (∃ (s : State) (h : Header) (k : Byte) (count : Byte) (n : Fin 8) (addr : Half) (entries : List Half) (i : Nat), Turn s ∧
      k.toNat = n.val ∧ s.wdacs[n].runs = false ∧ addr.toNat + entries.length ≤ 4096 ∧ i < entries.length) ∧
    (∃ (s : State) (h : Header) (n : Fin 8), Turn s ∧ s.wdacs[n].state = .stopped ∧ s.wdacs[n].cmdStart = false ∧
      s.wdacs[n].short = false) ∧
    (∃ (s : State) (h : Header) (n : Fin 8), Turn s ∧ s.wdacs[n].state = .stopped) := by
  refine ⟨⟨W.hw, 0, 3, 0x70037, ?_⟩,
    ⟨(W07.wd fun x => {x with ctrl := 1}), 3, ?_⟩,
    ⟨(W07.wd fun x => {x with ctrl := 1, cls := .blocking, displaced := true, state := .lent}), 3, ?_⟩,
    ⟨W.hw, 0, 3, ?_⟩,
    ⟨(W07.wd fun x => {x with ctrl := 1, state := .running}), 0, 3, ?_⟩,
    ⟨(W07.wd fun x => {x with queue := [1,2]}), 0, 3, ?_⟩,
    ⟨({ W.hw with clk := { W.hw.clk with et := 0 } }.onWdac 3 fun x => {x with state := .waitStart, cmdStart := true, phase0 := 77}),
      3, ?_⟩,
    ⟨(W07.wd fun x => {x with state := .delay, ctrl := 0x10, queue := [5, 6]}), 3, 5, [6], ?_⟩,
    ⟨(W07.wd fun x => {x with state := .delay, ctrl := 0x10, queue := []}), 3, ?_⟩,
    ⟨(W07.wd fun x => {x with state := .running, ctrl := 0x32, phase := 0x12345678, ftw := 0xF0000000}), 3, ?_⟩,
    ⟨(W07.wd fun x => {x with state := .running, ctrl := 0x32, stopPend := true}), 3, ?_⟩,
    ⟨(let s := W07.wd fun x => {x with state := .running, ctrl := 0x33, claim := some 2}; { s with cal := { s.cal with jobs := s.cal.jobs.set 2 (some W07.wjob) } }), 3, 2, W07.wjob, ?_⟩,
    ⟨(W07.wd fun x => {x with static := 55}), 3, ?_⟩,
    ⟨(W07.wd fun x => {x with static := 55}), 0, 3, 0xFFFF, ?_⟩,
    ⟨(W07.wd fun x => {x with tblAddr := 4095}), 0, 3, 0xABCD, ?_⟩,
    ⟨(W07.wd fun x => {x with underrun := 9}), 0, 3, 1, ?_⟩,
    ⟨W.turn, W.hd, 3, 2, 3, [1,2], ?_⟩,
    ⟨W.turn, W.hd, 3, 2, 3, 4094, [1,2], 1, ?_⟩,
    ⟨W.turn, W.hd, 3, ?_⟩,
    ⟨(W07.twd fun x => {x with queue := [1,2]}), W.hd, 3, ?_⟩⟩ <;> ((try simp only [Turn]) <;> decide +kernel)

namespace W08
open W
def slotJob : Job := { cmd := none, type := 1, index := 5, kind := 6, gap := false, apply := true, cls := .blocking, state := .noticed, steps := 0, point0 := none, point1 := none, pend := none, aborted := false, ending := false }
def cal (f : Cal → Cal) : State := { hw with cal := f hw.cal }
def job (x : Job) : State := cal fun c => { c with jobs := c.jobs.set 3 (some x) }
def wblob : List Byte := blobOf 0x72 { valid := 3, dieT := 9, et := 8, body := neutralBody 0x72 }
end W08

/-- States that meet the hypotheses of `CalibrationCompletes`, clause by clause. -/
theorem hypotheses_CalibrationCompletes :
    (∃ (s : State) (j : Fin 16) (x : Job) (a : Fin 9) (k : Fin 8), s.hw = true ∧ s.cal.jobs[j] = some x ∧
      unitOf x.unit = some (.slot a k) ∧ x.gap = false ∧ x.state = .noticed ∧ s.mayRun x = true) ∧
    (∃ (s : State) (j : Fin 16) (x : Job) (a : Fin 9) (k : Fin 8) (r : CalResult), s.hw = true ∧ s.cal.jobs[j] = some x ∧
      unitOf x.unit = some (.slot a k) ∧ x.gap = false ∧ x.state = .held ∧ x.kind = 6 ∧ x.apply = true ∧ x.cmd = none ∧
      x.cls = .blocking ∧ x.aborted = false ∧ x.pend = none) ∧
    (∃ (s : State) (j : Fin 16) (x : Job) (a : Fin 9) (k : Fin 8), s.hw = true ∧ s.cal.jobs[j] = some x ∧
      unitOf x.unit = some (.slot a k) ∧ x.gap = true ∧ x.state = .queued ∧ x.kind ≠ 1 ∧ s.gapFits = true ∧ s.mayRun x = true) ∧
    (∃ (s : State) (j : Fin 16) (x : Job) (a : Fin 9) (k : Fin 8) (r : CalResult), s.hw = true ∧ s.cal.jobs[j] = some x ∧
      unitOf x.unit = some (.slot a k) ∧ x.gap = true ∧ x.state = .held ∧ x.aborted = false ∧ x.ending = false ∧ x.kind ≠ 1 ∧
      x.pend = none ∧ x.steps + 1 < gapSteps x.kind.toNat) ∧
    (∃ (s : State) (j : Fin 16) (x : Job) (c : CmdRef) (n : Fin 18), s.hw = true ∧ s.cal.jobs[j] = some x ∧ x.kind = 1 ∧
      x.point1 = none ∧ x.pend = none ∧ x.cmd = some c ∧ x.aborted = false ∧ x.state = .between ∧ unitOf x.unit = some (.adc n)) ∧
    (∃ (s : State) (u : Nat) (c : Coef), s.hw = true ∧ s.cal.pending = [(u, c)] ∧ (∀ j : Fin 16, s.cal.jobs[j] = none)) ∧
    (∃ (s : State) (p : Fin 32) (v : Word) (n : Fin 8), s.hw = true ∧ s.cal.windows[p].unit = some (.wdac n) ∧
      s.owns p (0x60 + n.val) = true) ∧
    (∃ (s : State) (h : Header) (type : Byte) (index : Byte) (kind : Byte) (apply : Byte) (u : CalUnit), Turn s ∧
      calUnit type.toNat index.toNat = some u ∧ u.suits kind.toNat = true ∧ apply.toNat ≤ 1 ∧ u.dom = none ∧ (∀ j : Fin 16,
      s.cal.jobs[j] = none)) ∧
    (∃ (s : State) (h : Header) (adc : Byte) (expected : Half) (n : Fin 18) (j : Fin 16) (x : Job), Turn s ∧ adc.toNat = n.val ∧
      -8192 ≤ expected.toInt ∧ expected.toInt ≤ 8191 ∧ (s.atTurn h).isSuspect (adcDom n) = false ∧ s.sysJob n.val = some (j, x) ∧
      x.ready = false ∧ x.pend = none) ∧
    (∃ (s : State) (h : Header) (type : Byte) (index : Byte) (u : CalUnit), Turn s ∧ calUnit type.toNat index.toNat = some u ∧
      (s.atTurn h).unitSuspect u = false ∧ (∀ (j : Fin 16) (x : Job), s.cal.jobs[j] = some x → x.cls ≠ .repair)) ∧
    (∃ (s : State) (h : Header) (type : Byte) (index : Byte) (u : CalUnit), Turn s ∧ calUnit type.toNat index.toNat = some u) ∧
    (∃ (s : State) (h : Header) (type : Byte) (index : Byte) (u : CalUnit), Turn s ∧ calUnit type.toNat index.toNat = some u ∧
      (s.atTurn h).unitSuspect u = false ∧ s.unitBusy u.code = false) := by
  refine ⟨⟨(W08.job W08.slotJob), 3, W08.slotJob, 0, 5, ?_⟩,
    ⟨(W08.job {W08.slotJob with state := .held}), 3, {W08.slotJob with state := .held}, 0, 5,
      { body := List.replicate 176 7, deviations := [] }, ?_⟩,
    ⟨{ (W08.job {W08.slotJob with state := .queued, gap := true}) with clk := { W.hw.clk with gap := true } }, 3,
      {W08.slotJob with state := .queued, gap := true}, 0, 5, ?_⟩,
    ⟨(W08.job {W08.slotJob with state := .held, gap := true}), 3, {W08.slotJob with state := .held, gap := true}, 0, 5,
      { body := List.replicate 176 7, deviations := [] }, ?_⟩,
    ⟨(W08.job {W08.slotJob with type := 0, index := 4, state := .between, gap := true, kind := 1, cmd := some ⟨0, 7⟩}), 3,
      {W08.slotJob with type := 0, index := 4, state := .between, gap := true, kind := 1, cmd := some ⟨0, 7⟩}, ⟨0, 7⟩, 4, ?_⟩,
    ⟨(W08.cal fun c => {c with pending := [(3, neutralCoef 9)] }), 3, (neutralCoef 9), ?_⟩,
    ⟨(W08.cal fun c => {c with windows := upd c.windows 0 fun w => {w with type := 2, index := 2 } }), 0, 0x12345678, 2, ?_⟩,
    ⟨W.turn, W.hd, 2, 3, 7, 1, (.wdac 3), ?_⟩,
    ⟨(let s := (W08.job {W08.slotJob with type := 0, index := 4, state := .queued, gap := true, kind := 1}); { s with resuming := true }), W.hd, 4, 9, 4, 3, {W08.slotJob with type := 0, index := 4, state := .queued, gap := true, kind := 1}, ?_⟩,
    ⟨(let s := (W08.job {W08.slotJob with state := .held}); { s with resuming := true }), W.hd, 1, 5, (.slot 0 5), ?_⟩,
    ⟨W.turn, W.hd, 1, 5, (.slot 0 5), ?_⟩,
    ⟨W.turn, W.hd, 1, 5, (.slot 0 5), ?_⟩⟩ <;> ((try simp only [Turn]) <;> decide +kernel)

/-- A blob for waveform DAC 2 without its CRC. -/
def W08.raw : List Byte := [2, 2, 1, 3] ++ (le 4 Config.serial ++ (le 2 (9 : Half) ++ le 6 (8 : Et) ++ neutralBody 0x72))

theorem W08.length_raw : W08.raw.length = 16 + bodyLen 0x72 := by
  have l : (neutralBody 0x72).length = bodyLen 0x72 := by decide +kernel
  simp only [W08.raw, List.length_append, length_le_bytes, l]
  decide +kernel

theorem W08.blob_passes (s : State) (h : s.unitBusy 0x72 = false) (f : Bool) :
    s.blobCheck 0x72 (W08.raw ++ le 4 (crc32 W08.raw)) f = none := by
  have n : (W08.raw ++ le 4 (crc32 W08.raw)).length = 20 + bodyLen 0x72 := by
    rw [List.length_append, length_le_bytes, W08.length_raw, Nat.add_right_comm]
  have m : 20 + bodyLen 0x72 - 4 = W08.raw.length := by rw [W08.length_raw]; omega
  have c : rd 32 (W08.raw ++ le 4 (crc32 W08.raw)) W08.raw.length 4 = crc32 W08.raw := by
    have r := rd_append_le 4 W08.raw [] (crc32 W08.raw) (by decide)
    rwa [List.append_nil] at r
  have i : rd 32 (W08.raw ++ le 4 (crc32 W08.raw)) 4 4 = Config.serial := by
    rw [rd_append_left _ _ _ _ (by rw [W08.length_raw]; omega)]
    have r := rd_append_le 4 [2, 2, 1, 3] (le 2 (9 : Half) ++ le 6 (8 : Et) ++ neutralBody 0x72) Config.serial (by decide)
    rwa [List.append_assoc] at r
  have a0 : (W08.raw ++ le 4 (crc32 W08.raw)).getD 0 0 = 2 := rfl
  have a1 : (W08.raw ++ le 4 (crc32 W08.raw)).getD 1 0 = 2 := rfl
  have a2 : (W08.raw ++ le 4 (crc32 W08.raw)).getD 2 0 = 1 := rfl
  have k : (W08.raw ++ le 4 (crc32 W08.raw)).take W08.raw.length = W08.raw := List.take_left
  have u : unitType 0x72 = 2 ∧ unitIndex 0x72 = 2 := by decide +kernel
  generalize W08.raw ++ le 4 (crc32 W08.raw) = b at *
  unfold State.blobCheck
  simp only [n, m, c, i, k, a0, a1, a2, u.1, u.2, h, ne_eq, not_true_eq_false, decide_false, Bool.or_self, Bool.false_and]
  rfl

def W08.written : State := W08.cal fun c => { c with
  windows := upd c.windows 0 fun w => { w with
    type := 2, index := 2
    staged := (List.range (20 + bodyLen 0x72)).map fun i => (i, (W08.raw ++ le 4 (crc32 W08.raw)).getD i 0) } }

/-- A blob with the module's serial number and a good CRC passes (clauses 8 and 13 of `CalibrationCompletes`). -/
theorem hypotheses_CalibrationCompletes_blob :
    (∃ (s : State) (p : Fin 32) (n : Fin 8), s.hw = true ∧ s.cal.windows[p].unit = some (.wdac n) ∧ s.owns p (0x60 + n.val) = true ∧
      s.blobCheck (0x70 + n.val) (s.cal.windows[p].blob (0x70 + n.val)) false = none) ∧
    (∃ (s : State) (h : Header) (blob : List Byte) (n : Fin 8), Turn s ∧ blobUnit blob = some (.wdac n) ∧
      s.blobCheck (0x70 + n.val) blob h.force = none) := by
  have e : W08.written.cal.windows[(0 : Fin 32)].blob 0x72 = W08.raw ++ le 4 (crc32 W08.raw) := by
    have g (b : List Byte) (x : Nat) (f : Nat → Byte) (l : List Nat) (hx : x ∈ l) : look 0 (l.map fun i => (i, f i)) x = f x := by
      induction l with
      | nil => cases hx
      | cons y l ih =>
        simp only [List.map_cons, look]
        split
        · next h => rw [h]
        · next h => exact ih (by simpa [Ne.symm h] using hx)
    have n : (W08.raw ++ le 4 (crc32 W08.raw)).length = 20 + bodyLen 0x72 := by
      rw [List.length_append, length_le_bytes, W08.length_raw, Nat.add_right_comm]
    show ((List.range (20 + bodyLen 0x72)).map fun i => look 0 _ i) = _
    apply List.ext_getElem
    · rw [List.length_map, List.length_range, n]
    · intro i h1 h2
      rw [List.getElem_map, List.getElem_range]
      show look 0 ((List.range (20 + bodyLen 0x72)).map fun i => (i, (W08.raw ++ le 4 (crc32 W08.raw)).getD i 0)) i = _
      rw [g [] i (fun i => (W08.raw ++ le 4 (crc32 W08.raw)).getD i 0) _ (by rw [List.mem_range, ← n]; exact h2)]
      exact (List.getElem_eq_getD 0).symm
  refine ⟨⟨W08.written, 0, 2, by decide +kernel, by decide +kernel, by decide +kernel, ?_⟩,
    ⟨W.turn, W.hd, W08.raw ++ le 4 (crc32 W08.raw), 2, ⟨by decide +kernel, by decide +kernel⟩, rfl, ?_⟩⟩
  · exact (congrArg (fun b => W08.written.blobCheck 0x72 b false) e).trans (W08.blob_passes _ (by decide +kernel) _)
  · exact W08.blob_passes _ (by decide +kernel) _

namespace W09
open W
def lin (f : Lin → Lin) : State := { hw with lin := f hw.lin }
def adue : State := hw.onAbay 2 fun b => { b with resetDue := true }
def ddue : State := hw.onDbay 5 fun b => { b with resetDue := true }
end W09

/-- States that meet the hypotheses of `FabricCompletes`, clause by clause. -/
theorem hypotheses_FabricCompletes :
    (∃ (s : State) (p : Fin 32) (x : BitVec 12) (v : Word) (src : BitVec 12), s.hw = true ∧ src = bits v 0 12 ∧
      (linDest x.toNat).isSome = true ∧ (linSource src.toNat).isSome = true ∧ s.mayStage p x.toNat src.toNat = true ∧
      (routeDoms x.toNat src.toNat).any ((routeDoms x.toNat src.toNat).foldl State.auditDom s).isSuspect = false ∧
      s.linInRepair x.toNat = false) ∧
    (∃ (s : State) (p : Fin 32), s.hw = true ∧
      (s.lin.staged.any fun x => x.writer = p && !x.committed && s.linInRepair x.dst.toNat) = false) ∧
    (∃ (s : State) (p : Fin 32), s.hw = true) ∧
    (∃ (s : State) (e : Staged), s.hw = true ∧ s.lin.staged = [e] ∧ e.committed = true) ∧
    (∃ (s : State) (h : Header) (n : Byte) (pairs : List (Half × Half)), Turn s ∧
      (pairs.any fun x => (linDest x.1.toNat).isNone || (linSource x.2.toNat).isNone) = false ∧
      (pairs.any fun x => (routeDoms x.1.toNat x.2.toNat).any (s.atTurn h).isSuspect) = false ∧
      (pairs.any fun x => s.linInRepair x.1.toNat) = false) ∧
    (∃ (s : State) (h : Header) (n : Byte) (dst : Half) (src : Half), Turn s ∧ (linDest dst.toNat).isSome = true ∧
      (linSource src.toNat).isSome = true ∧ (routeDoms dst.toNat src.toNat).any (s.atTurn h).isSuspect = false ∧
      s.linInRepair dst.toNat = false ∧ (s.lin.staged.any fun x => x.writer = h.part && !x.committed && s.linInRepair x.dst.toNat) = false) ∧
    (∃ (s : State) (h : Header) (dst : Half) (count : Byte), Turn s ∧ 1 ≤ count.toNat ∧ count.toNat ≤ 120 ∧
      ((List.range count.toNat).any fun k => (linDest (dst.toNat + k)).isNone) = false) ∧
    (∃ (s : State) (a : Fin 9), s.hw = true ∧ s.abays[a].resetDue = true) ∧
    (∃ (s : State) (d : Fin 18), s.hw = true ∧ s.dbays[d].resetDue = true) ∧
    (∃ (s : State) (a : Fin 9), s.hw = true) ∧
    (∃ (s : State) (d : Fin 18), s.hw = true) := by
  refine ⟨⟨W.hw, 0, 0x700, 0xC31, 0xC31, ?_⟩,
    ⟨(W09.lin fun l => { l with staged := [⟨0x700, 0xC31, 0, false, false⟩, ⟨0x701, 0xC31, 3, false, false⟩] }), 0, ?_⟩,
    ⟨(W09.lin fun l => { l with staged := [⟨0x700, 0xC31, 0, false, false⟩, ⟨0x701, 0xC31, 3, false, false⟩] }), 0, ?_⟩,
    ⟨(W09.lin fun l => { l with staged := [⟨0x700, 0xC31, 0, false, true⟩], active := [(0x3, 0x900)] }), ⟨0x700, 0xC31, 0, false,
      true⟩, ?_⟩,
    ⟨W.turn, W.hd, 2, [(0x700, 0xC31), (0x701, 0xC30)], ?_⟩,
    ⟨W.turn, W.hd, 1, 0x700, 0xC31, ?_⟩,
    ⟨W.turn, W.hd, 0x700, 16, ?_⟩,
    ⟨W09.adue, 2, ?_⟩,
    ⟨W09.ddue, 5, ?_⟩,
    ⟨W09.adue, 2, ?_⟩,
    ⟨W09.ddue, 5, ?_⟩⟩ <;> ((try simp only [Turn]) <;> decide +kernel)

namespace W10
open W
def dOn (s : State) : State := sync (s.onDom 14 fun d => { d with state := .on })
def mb (f : MemBlock → MemBlock) : State := ((dOn hw).onDbay 5 fun b => { b with cfg := .loaded, gsrLoad := false, gsrReset := false, gsrHold := false, gsrRepair := false }).onMem 5 1 f
def prb (f : Prb → Prb) : State := { hw with prb := f hw.prb }
def tprb (f : Prb → Prb) : State := { turn with prb := f hw.prb }
end W10

/-- States that meet the hypotheses of `MemoryMomentsComplete`, clause by clause. -/
theorem hypotheses_MemoryMomentsComplete :
    (∃ (s : State) (d : Fin 18) (m : Fin 4) (e : BitVec 12), ramRuns s d m ∧ memCalm s d m ∧ e.toNat < 1024 ∧
      s.dbays[d].mems[m].shape = 0 ∧ s.dbays[d].mems[m].errAt e.toNat = none ∧ s.writtenNow d m = false) ∧
    (∃ (s : State) (d : Fin 18) (m : Fin 4) (e : BitVec 12) (bad : List (Fin 39)), ramRuns s d m ∧ e.toNat < 1024 ∧
      s.dbays[d].mems[m].shape = 0 ∧ s.dbays[d].mems[m].errAt e.toNat = some (.double bad) ∧ s.writtenNow d m = false) ∧
    (∃ (s : State) (d : Fin 18) (m : Fin 4) (e : BitVec 12) (bit : Fin 39), ramRuns s d m ∧ memCalm s d m ∧ e.toNat < 1024 ∧
      s.dbays[d].mems[m].shape = 0 ∧ s.dbays[d].mems[m].errAt e.toNat = none ∧ s.writtenNow d m = false) ∧
    (∃ (s : State) (d : Fin 18) (m : Fin 4) (e : BitVec 12) (f : BitVec 12) (v : Word), ramRuns s d m ∧ memCalm s d m ∧
      s.imageB s.dbays[d].mems[m] = true ∧ e.toNat < 1024 ∧ s.dbays[d].mems[m].shape = 0 ∧ f = e ∧
      s.dbays[d].mems[m].errAt e.toNat = none ∧ s.writtenNow d m = false) ∧
    (∃ (s : State) (d : Fin 18) (m : Fin 4) (e : BitVec 12) (v : Word), ramRuns s d m ∧ memCalm s d m ∧ e.toNat < 1024 ∧
      s.dbays[d].mems[m].shape = 0 ∧ s.dbays[d].mems[m].errAt e.toNat = none ∧ s.writtenNow d m = false) ∧
    (∃ (s : State) (d : Fin 18) (m : Fin 4) (e : BitVec 12) (f : BitVec 12) (v : Word) (w : Word), ramRuns s d m ∧
      s.imageB s.dbays[d].mems[m] = true ∧ e.toNat < 4096 ∧ f.toNat < 4096 ∧ s.dbays[d].mems[m].shape = 2 ∧
      e.toNat / 4 = f.toNat / 4) ∧
    (∃ (s : State) (d : Fin 18) (m : Fin 4) (bit : Fin 39), ramRuns s d m ∧ memCalm s d m ∧ s.dbays[d].mems[m].scrub = true ∧
      s.dbays[d].mems[m].scrubPos < 1024 ∧ s.dbays[d].mems[m].errAt s.dbays[d].mems[m].scrubPos = some (.single bit)) ∧
    (∃ (s : State) (d : Fin 18) (m : Fin 4) (v : Word), s.hw = true ∧ s.memRuns d = true ∧ s.dbays[d].mems[m].mode = 1 ∧
      s.dbays[d].mems[m].shape = 0 ∧ s.dbays[d].mems[m].level < 1024) ∧
    (∃ (s : State) (d : Fin 18) (m : Fin 4) (v : Word), s.hw = true ∧ s.memRuns d = true ∧ s.dbays[d].mems[m].mode = 1 ∧
      entries s.dbays[d].mems[m].shape ≤ s.dbays[d].mems[m].level) ∧
    (∃ (s : State) (d : Fin 18) (m : Fin 4), s.hw = true ∧ s.memRuns d = true ∧ s.dbays[d].mems[m].mode = 1 ∧
      s.dbays[d].mems[m].shape = 0 ∧ 0 < s.dbays[d].mems[m].level ∧ s.dbays[d].mems[m].head < 1024 ∧ memCalm s d m ∧
      s.dbays[d].mems[m].errAt s.dbays[d].mems[m].head = none) ∧
    (∃ (s : State) (d : Fin 18) (m : Fin 4), s.hw = true ∧ s.memRuns d = true ∧ s.dbays[d].mems[m].mode = 1 ∧
      s.dbays[d].mems[m].level = 0) ∧
    (∃ (s : State) (d : Fin 18) (m : Fin 4) (start : BitVec 24) (len : Byte), s.hw = true ∧ s.memRuns d = true ∧
      s.dbays[d].mems[m].mode = 3 ∧ s.dbays[d].mems[m].waiting = none ∧ s.dbays[d].mems[m].running = none ∧
      s.dbays[d].mems[m].decimNow = 0 ∧ s.dbays[d].mems[m].shape = 0 ∧ s.dbays[d].mems[m].level = 1024 ∧
      len.toNat + 1 ≤ (bits s.clk.et 0 24 - start).toNat ∧ (bits s.clk.et 0 24 - start).toNat + len.toNat ≤ 1020) ∧
    (∃ (s : State) (d : Fin 18) (m : Fin 4) (start : BitVec 24) (len : Byte), s.hw = true ∧ s.memRuns d = true ∧
      s.dbays[d].mems[m].mode = 3 ∧ s.dbays[d].mems[m].waiting.isSome = true) ∧
    (∃ (s : State) (d : Fin 18) (m : Fin 4) (start : BitVec 24) (len : Byte), s.hw = true ∧ s.memRuns d = true ∧
      s.dbays[d].mems[m].mode = 3 ∧ s.dbays[d].mems[m].waiting = some (start, len) ∧ s.dbays[d].mems[m].running = none) ∧
    (∃ (s : State) (d : Fin 18) (m : Fin 4), s.hw = true) ∧
    (∃ (s : State) (p : Fin 32) (d : Fin 18) (m : Fin 4) (k : BitVec 10) (v : Word), s.hw = true ∧ s.owns p (0x10 + d.val) = true ∧
      Trusted s (domOfD d) ∧ s.windowOpen d m = true) ∧
    (∃ (s : State) (p : Fin 32) (d : Fin 18) (m : Fin 4) (k : BitVec 10), s.hw = true ∧ s.owns p (0x10 + d.val) = true ∧
      s.windowOpen d m = true ∧ memCalm s d m ∧ s.dbays[d].mems[m].errAt k.toNat = none) ∧
    (∃ (s : State) (p : Fin 32) (d : Fin 18) (v : Word), s.hw = true ∧ s.owns p (0x10 + d.val) = true ∧ Trusted s (domOfD d) ∧
      testBit v 0 = true) := by
  refine ⟨⟨((W10.mb id).setWord 5 1 9 0x1234), 5, 1, 9, ?_⟩,
    ⟨((W10.mb fun b => {b with errors := [(9, .double [1, 7])]}).setWord 5 1 9 0x1234), 5, 1, 9, [1, 7], ?_⟩,
    ⟨((W10.mb id).setWord 5 1 9 0x1234), 5, 1, 9, 3, ?_⟩,
    ⟨((W10.mb id).setWord 5 1 9 0x1234), 5, 1, 9, 9, 77, ?_⟩,
    ⟨((W10.mb id).setWord 5 1 9 0x1234), 5, 1, 9, 77, ?_⟩,
    ⟨((W10.mb fun b => {b with shape := 2}).setWord 5 1 9 0x1234), 5, 1, 37, 38, 0x11, 0x22, ?_⟩,
    ⟨((W10.mb fun b => {b with scrub := true, errors := [(0, .single 3)]}).setWord 5 1 0 0x1234), 5, 1, 3, ?_⟩,
    ⟨(W10.mb fun b => {b with mode := 1, level := 3, head := 1023}), 5, 1, 99, ?_⟩,
    ⟨(W10.mb fun b => {b with mode := 1, level := 1024, head := 1023}), 5, 1, 99, ?_⟩,
    ⟨((W10.mb fun b => {b with mode := 1, level := 24, head := 1023}).setWord 5 1 1023 6), 5, 1, ?_⟩,
    ⟨(W10.mb fun b => {b with mode := 1, level := 0, head := 1023}), 5, 1, ?_⟩,
    ⟨(let s := (W10.mb fun b => {b with mode := 3, level := 1024, decimNow := 0}); { s with clk := { s.clk with et := 0x1000000 } }),
      5, 1, 0xFFFFF0, 3, ?_⟩,
    ⟨(W10.mb fun b => {b with mode := 3, waiting := some (5, 6)}), 5, 1, 3, 4, ?_⟩,
    ⟨(W10.mb fun b => {b with mode := 3, waiting := some (5, 6)}), 5, 1, 5, 6, ?_⟩,
    ⟨(W10.mb fun b => {b with af := 9, decim := 2}), 5, 1, ?_⟩,
    ⟨(W10.mb fun b => {b with window := true}), 0, 5, 1, 7, 0xABCD, ?_⟩,
    ⟨((W10.mb fun b => {b with window := true}).setWord 5 1 7 6), 0, 5, 1, 7, ?_⟩,
    ⟨(W10.mb fun b => {b with corr := 8}), 0, 5, 1,
      ?_⟩⟩ <;> ((try simp only [Trusted]) <;> (try simp only [ramRuns]) <;> (try simp only [memCalm]) <;> decide +kernel)

/-- States that meet the hypotheses of `ProbesComplete`, clause by clause. -/
theorem hypotheses_ProbesComplete :
    (∃ (s : State) (i : Fin 24), s.hw = true) ∧
    (∃ (s : State) (d : Fin 18) (k : Fin 2), s.hw = true) ∧
    (∃ (s : State) (p : Fin 32) (v : Word), s.hw = true ∧ s.owns p 0xC1 = true ∧ testBit v 0 = true ∧ (bits v 1 2).toNat ≤ 2) ∧
    (∃ (s : State), s.hw = true ∧ s.prb.state = 1 ∧ s.prb.pre.toNat ≤ s.prb.data.length ∧ s.probeMatch = true) ∧
    (∃ (s : State), s.hw = true ∧ s.prb.state = 2 ∧ s.prb.data.length = 1023) ∧
    (∃ (s : State) (h : Header) (probe : Byte) (bay : Byte) (peep : Byte) (net : Byte) (en : Byte) (n : Fin 8) (d : Fin 18) (k : Fin 2), Turn s ∧ probe.toNat = n.val ∧ bay.toNat = d.val ∧ peep.toNat = k.val ∧ en.toNat ≤ 1 ∧ (s.atTurn h).isSuspect (domOfD d) = false) ∧
    (∃ (s : State) (h : Header) (trig : Byte) (pattern : Byte) (mask : Byte) (pre : Half) (et : Et), Turn s ∧ trig.toNat ≤ 2 ∧
      pre.toNat ≤ 1023) ∧
    (∃ (s : State) (h : Header) (start : Half) (count : Half), Turn s ∧ s.prb.state = 3 ∧ 1 ≤ count.toNat ∧ count.toNat ≤ 256 ∧
      start.toNat + count.toNat ≤ 1024) ∧
    (∃ (s : State) (h : Header) (en : Byte), Turn s ∧ s.auxOwned h.part en = true ∧ s.auxConflict en = false) := by
  refine ⟨⟨{ W.hw with io := W.hw.io.set 4 { W.hw.io[4] with ctrl := 1, ctrlNow := 0 } }, 4, ?_⟩,
    ⟨(W.hw.onDbay 5 fun b => { b with peep := b.peep.set 1 9 }), 5, 1, ?_⟩,
    ⟨W.hw, 0, 0x00050003, ?_⟩,
    ⟨(W10.prb fun x => { x with state := 1, trig := 1, pre := 2, mask := 0xF, pattern := 0, data := [1,2,3] }), ?_⟩,
    ⟨(W10.prb fun x => { x with state := 2, data := List.replicate 1023 7 }), ?_⟩,
    ⟨W.turn, W.hd, 3, 5, 1, 77, 1, 3, 5, 1, ?_⟩,
    ⟨W.turn, W.hd, 1, 5, 6, 9, 77, ?_⟩,
    ⟨(W10.tprb fun x => { x with state := 3, data := List.replicate 1024 9 }), W.hd, 1000, 24, ?_⟩,
    ⟨W.turn, W.hd, 5, ?_⟩⟩ <;> ((try simp only [Turn]) <;> decide +kernel)

namespace W11
open W
def dOn (s : State) : State := sync (s.onDom 14 fun d => { d with state := .on })
def cfg (f : Cfg → Cfg) : State := { dOn hw with cfg := f hw.cfg }
def tcfg (f : Cfg → Cfg) : State := { dOn turn with cfg := f hw.cfg }
def img (n : Nat) : List Byte :=
  let h := le 4 (0x5A424931 : Word) ++ le 2 (1 : Half) ++ le 2 (1020 : Half) ++ le 4 (0x5A546432 : Word) ++ List.replicate (0x3F8 - 12) 0
  let body := List.replicate n (7 : Byte)
  let h := h ++ le 4 (crc32 body)
  h ++ le 4 (crc32 h) ++ body
def img1 : List Byte := img 261120
def load : Load := { cmd := some ⟨0, 7⟩, part := 0, bay := 5, source := 3 }
def bload (f : DBay → DBay) (s : State) : State := s.onDbay 5 f
def lding : Loading := { load := load, area := none, image := [], frame := 3, retried := false }
def slot (s : State) : State := { s with cfg := { s.cfg with slots := s.cfg.slots.set 3 (some 9), areas := upd s.cfg.areas 9 fun a => { a with data := img 1000 } } }
end W11

/-- States that meet the hypotheses of `ConfigurationCompletes`, clause by clause. -/
theorem hypotheses_ConfigurationCompletes :
    (∃ (s : State), s.hw = true ∧ s.bufHeld = false) ∧
    (∃ (s : State) (r : Loading), s.hw = true ∧ s.cfg.running = some r ∧ r.frame < 1020 ∧
      s.armedOn 0x143 (BitVec.ofNat 8 r.load.bay.val) (fun w => w.toNat = r.frame) = none) ∧
    (∃ (s : State) (r : Loading), s.hw = true ∧ s.cfg.running = some r ∧ r.frame < 1020 ∧ r.retried = true) ∧
    (∃ (s : State) (r : Loading), s.hw = true ∧ s.cfg.running = some r ∧ 1020 ≤ r.frame) ∧
    (∃ (s : State) (c : CmdRef) (k : Fin 32) (a : Fin 34) (data : List Byte), s.serves = true ∧ s.cfg.job = some (.save c k a data) ∧
      s.pwr.nvwDefer = false ∧ s.armedOn 0x1C1 2 = none) ∧
    (∃ (s : State) (c : CmdRef) (k : Fin 32) (a : Fin 34) (data : List Byte), s.serves = true ∧ s.cfg.job = some (.save c k a data) ∧
      s.pwr.nvwDefer = false) ∧
    (∃ (s : State) (c : CmdRef) (k : Fin 32) (a : Fin 34) (data : List Byte), s.serves = true ∧ s.cfg.job = some (.save c k a data) ∧
      s.pwr.nvwDefer = true) ∧
    (∃ (s : State) (c : CmdRef) (k : Fin 32) (a : Fin 34), s.serves = true ∧ s.cfg.job = some (.erase c k a) ∧
      s.mayWrite .directory = true ∧ s.armedOn 0x1C1 2 = none) ∧
    (∃ (s : State) (a : Fin 34), s.serves = true ∧ s.freeAreas.contains a = true ∧ s.cfg.areas[a].erased = false ∧
      s.cfg.running = none ∧ s.mayWrite (.area a) = true) ∧
    (∃ (s : State) (d : Fin 18), s.hw = true ∧ s.cfg.scrubPos = 1020 * d.val + 7 ∧
      ((s.isOn (domOfD d) = false ∨ s.dbays[d].cfg = .loading ∨ s.dbays[d].cfg = .empty))) ∧
    (∃ (s : State) (d : Fin 18), s.hw = true ∧ s.cfg.scrubPos = 1020 * d.val + 7 ∧ s.isOn (domOfD d) = true ∧
      s.dbays[d].cfg = .loaded) ∧
    (∃ (s : State) (d : Fin 18), s.hw = true ∧ s.dbays[d].cfg = .faulted ∧ s.dbays[d].faultAction = false) ∧
    (∃ (s : State) (d : Fin 18), s.hw = true ∧ s.dbays[d].cfg = .faulted ∧ s.dbays[d].faultAction = true) ∧
    (∃ (s : State) (h : Header), Turn s ∧ s.cfg.holder = none) ∧
    (∃ (s : State) (h : Header) (offset : Word) (count : Half) (data : List Byte), Turn s ∧ s.cfg.holder = some h.part ∧
      s.cfg.valid = false ∧ offset.toNat = s.cfg.buf.length ∧ s.cfg.buf.length + data.length ≤ 262144) ∧
    (∃ (s : State) (h : Header), Turn s ∧ s.cfg.holder = some h.part ∧ s.cfg.buf.length < 262144 ∧ s.bufHeld = false) ∧
    (∃ (s : State) (h : Header) (slot : Byte) (k : Fin 32) (a : Fin 34), Turn s ∧ slot.toNat = k.val ∧ s.cfg.slots[k] = some a ∧
      s.cfg.job = none) ∧
    (∃ (s : State) (h : Header) (slot : Byte) (k : Fin 32) (a : Fin 34), Turn s ∧ slot.toNat = k.val ∧ s.cfg.slots[k] = some a) ∧
    (∃ (s : State) (h : Header) (bay : Byte) (d : Fin 18), Turn s ∧ bay.toNat = d.val) := by
  refine ⟨⟨(W11.cfg fun c => { c with holder := some 2, buf := [1] }), ?_⟩,
    ⟨(W11.cfg fun c => { c with running := some W11.lding }), W11.lding, ?_⟩,
    ⟨(W11.cfg fun c => { c with running := some { W11.lding with retried := true } }), { W11.lding with retried := true }, ?_⟩,
    ⟨(W11.cfg fun c => { c with running := some { W11.lding with frame := 1020 } }), { W11.lding with frame := 1020 }, ?_⟩,
    ⟨(W11.cfg fun c => { c with job := some (.save ⟨0, 7⟩ 3 8 [1,2]) }), ⟨0, 7⟩, 3, 8, [1,2], ?_⟩,
    ⟨(W11.cfg fun c => { c with job := some (.save ⟨0, 7⟩ 3 8 [1,2]) }), ⟨0, 7⟩, 3, 8, [1,2], ?_⟩,
    ⟨(let s := W11.cfg fun c => { c with job := some (.save ⟨0, 7⟩ 3 8 [1,2]) }; { s with pwr := { s.pwr with nvwDefer := true } }),
      ⟨0, 7⟩, 3, 8, [1,2], ?_⟩,
    ⟨(W11.slot (W11.cfg fun c => { c with job := some (.erase ⟨0, 7⟩ 3 9) })), ⟨0, 7⟩, 3, 9, ?_⟩,
    ⟨(W11.cfg fun c => { c with areas := upd c.areas 8 fun a => { a with erased := false } }), 8, ?_⟩,
    ⟨(W11.cfg fun c => { c with scrubPos := 1020 * 6 + 7 }), 6, ?_⟩,
    ⟨(W11.bload (fun b => { b with cfg := .loaded }) (W11.cfg fun c => { c with scrubPos := 1020 * 5 + 7 })), 5, ?_⟩,
    ⟨(W11.bload (fun b => { b with cfg := .faulted }) W.hw), 5, ?_⟩,
    ⟨(W11.bload (fun b => { b with cfg := .faulted, faultAction := true }) W.hw), 5, ?_⟩,
    ⟨(W11.tcfg id), W.hd, ?_⟩,
    ⟨(W11.tcfg fun c => { c with holder := some 0, buf := [4] }), W.hd, 1, 2, [5,6], ?_⟩,
    ⟨(W11.tcfg fun c => { c with holder := some 0, buf := [3] }), W.hd, ?_⟩,
    ⟨(W11.slot (W11.tcfg id)), W.hd, 3, 3, 9, ?_⟩,
    ⟨(W11.slot (W11.tcfg id)), W.hd, 3, 3, 9, ?_⟩,
    ⟨(W11.slot (W11.tcfg id)), W.hd, 5, 5, ?_⟩⟩ <;> ((try simp only [Turn]) <;> decide +kernel)

theorem W11.image_crcs (a b : List Byte) (h : a.length = 0x3F8) :
    let m := a ++ le 4 (crc32 b)
    let img := m ++ le 4 (crc32 m) ++ b
    rd 32 img 0x3F8 4 = crc32 (img.drop 0x400) ∧ rd 32 img 0x3FC 4 = crc32 (img.take 0x3FC) := by
  intro m img
  have l : m.length = 0x3FC := by simp [m, h]
  have d : img.drop 0x400 = b := List.drop_left' (by simp [l])
  have t : img.take 0x3FC = m := by rw [show img = m ++ (le 4 (crc32 m) ++ b) from List.append_assoc .., List.take_left' l]
  have r := rd_append_le 4 m b (crc32 m) (by decide)
  have q := rd_append_le 4 a (le 4 (crc32 m) ++ b) (crc32 b) (by decide)
  rw [← List.append_assoc] at q
  exact ⟨by rw [d, ← h]; exact q, by rw [t, ← l]; exact r⟩

/-- The first bytes of an image header: every block in RAM mode. -/
def W11.pre : List Byte :=
  le 4 (0x5A424931 : Word) ++ le 2 (1 : Half) ++ le 2 (1020 : Half) ++ le 4 (0x5A546432 : Word) ++ List.replicate 1004 0
def W11.hdr (n : Nat) : List Byte := W11.pre ++ le 4 (crc32 (List.replicate n 7))
def W11.good (n : Nat) : List Byte := W11.hdr n ++ le 4 (crc32 (W11.hdr n)) ++ List.replicate n 7

theorem W11.length_pre : W11.pre.length = 0x3F8 := by decide +kernel

theorem W11.rd_good (w n i k : Nat) (h : i + k ≤ 0x3F8) : rd w (W11.good n) i k = rd w W11.pre i k := by
  rw [W11.good, W11.hdr, List.append_assoc, List.append_assoc, rd_append_left _ _ _ _ (by rw [W11.length_pre]; exact h)]

theorem W11.header_good (n : Nat) : headerOk (W11.good n) = true := by
  have g : (rd 32 W11.pre 0 4 == 0x5A424931 && rd 16 W11.pre 4 2 == 1 && rd 16 W11.pre 6 2 == 1020 &&
      rd 32 W11.pre 8 4 == 0x5A546432 && rd 8 W11.pre 12 1 == 0 &&
      [0, 1, 2, 3].all fun m => (memInit W11.pre m).ok) = true := by decide +kernel
  have e : ([0, 1, 2, 3].all fun m => (memInit (W11.good n) m).ok) = [0, 1, 2, 3].all fun m => (memInit W11.pre m).ok := by
    simp only [List.all_cons, List.all_nil, memInit, memField]
    rw [W11.rd_good _ _ _ _ (by decide), W11.rd_good _ _ _ _ (by decide), W11.rd_good _ _ _ _ (by decide),
      W11.rd_good _ _ _ _ (by decide)]
  have c := (W11.image_crcs W11.pre (List.replicate n 7) W11.length_pre).2
  simp only [Bool.and_eq_true, beq_iff_eq] at g
  obtain ⟨⟨⟨⟨⟨a, b⟩, x⟩, d⟩, z⟩, f⟩ := g
  have y : decide ((0 : Byte).toNat ≤ Config.hwRev.toNat) = true := decide_eq_true (Nat.zero_le _)
  unfold headerOk
  rw [e, f, W11.rd_good 32 n 0 4 (by decide), W11.rd_good 16 n 4 2 (by decide), W11.rd_good 16 n 6 2 (by decide),
    W11.rd_good 32 n 8 4 (by decide), W11.rd_good 8 n 12 1 (by decide), a, b, x, d, z, y]
  simp only [Bool.and_true, beq_self_eq_true, beq_iff_eq]
  exact c

theorem W11.body_good (n : Nat) : bodyOk (W11.good n) = true := by
  simp only [bodyOk, beq_iff_eq]
  exact (W11.image_crcs W11.pre (List.replicate n 7) W11.length_pre).1

theorem W11.length_good (n : Nat) : (W11.good n).length = 0x400 + n := by
  simp only [W11.good, W11.hdr, List.length_append, length_le_bytes, W11.length_pre, List.length_replicate]

def W11.held (s : State) : State :=
  { s with cfg := { s.cfg with slots := s.cfg.slots.set 3 (some 9), areas := upd s.cfg.areas 9 fun a => { a with data := W11.good 0 } } }
def W11.full (v : Bool) (n : Nat) : State := W11.tcfg fun c => { c with holder := some 0, buf := W11.good n, valid := v }

theorem W11.load_accepted (s : State) (x : Load) (img : List Byte)
    (h : (!(x.cmd.isSome && !s.owns x.part (0x10 + x.bay.val)) && !s.isSuspect (domOfD x.bay) &&
      !(x.cmd.isSome && s.inRepair (domOfD x.bay).val) && s.isOn (domOfD x.bay) && x.source != 0xFF) = true)
    (e : s.sourceImage x.source = some img) (g : headerOk img = true) : s.loadRefused x = none := by
  simp only [Bool.and_eq_true, Bool.not_eq_true', bne_iff_ne, ne_eq] at h
  obtain ⟨⟨⟨⟨a, b⟩, c⟩, d⟩, f⟩ := h
  simp only [State.loadRefused, a, b, c, d, f, e, g]
  rfl

theorem W11.area_ready : (W11.full true 0).saveArea = .ok 0 := by
  unfold State.saveArea
  generalize Config.storeEndurance = e
  cases e <;> rfl

/-- A good image is accepted for a load, completes an upload, and is saved (clauses 2, 17, 19 and 20 of
`ConfigurationCompletes`). -/
theorem hypotheses_ConfigurationCompletes_image :
    (∃ (s : State) (x : Load) (rest : List Load) (c : CmdRef), s.hw = true ∧ s.cfg.running = none ∧ s.cfg.queue = x :: rest ∧
      x.cmd = some c ∧ s.loadRefused x = none) ∧
    (∃ (s : State) (h : Header), Turn s ∧ s.cfg.holder = some h.part ∧ s.cfg.buf.length = 262144 ∧ headerOk s.cfg.buf = true ∧
      bodyOk s.cfg.buf = true) ∧
    (∃ (s : State) (h : Header) (bay source : Byte) (d : Fin 18), Turn s ∧ bay.toNat = d.val ∧ (source.toNat ≤ 31 ∨ source = 0xFF) ∧
      (s.atTurn h).loadRefused { cmd := some (refOf h), part := h.part, bay := d, source := source } = none ∧
      s.cfg.queue.length < 18) ∧
    (∃ (s : State) (h : Header) (slot : Byte) (k : Fin 32) (a : Fin 34), Turn s ∧ slot.toNat = k.val ∧ s.cfg.valid = true ∧
      s.cfg.holder = some h.part ∧ headerOk s.cfg.buf = true ∧ s.cfg.job = none ∧ s.saveArea = .ok a) := by
  refine ⟨⟨W11.held (W11.cfg fun c => { c with queue := [W11.load] }), W11.load, [], ⟨0, 7⟩, by decide +kernel, rfl, rfl, rfl,
      W11.load_accepted _ _ (W11.good 0) (by decide +kernel) rfl (W11.header_good 0)⟩,
    ⟨W11.full false 261120, W.hd, ⟨by rfl, by rfl⟩, rfl, W11.length_good _, W11.header_good _, W11.body_good _⟩,
    ⟨W11.held (W11.tcfg id), W.hd, 5, 3, 5, ⟨by rfl, by rfl⟩, rfl, by decide,
      W11.load_accepted _ _ (W11.good 0) (by decide +kernel) rfl (W11.header_good 0), by decide +kernel⟩,
    ⟨W11.full true 0, W.hd, 31, 31, 0, ⟨by rfl, by rfl⟩, rfl, rfl, rfl, W11.header_good _, rfl, W11.area_ready⟩⟩

namespace W12
open W
def ra : RepairArgs := { type := 1, orig := 5, mode := 1, source := 3, calMask := 0, memCopy := 0, flags := 12, warmup := 9, cmpFrames := 4, missTol := 2, ftTol := 3, mask := 0xFF }
def rp : Repair := { ra.repair ⟨0, 7⟩ 14 25 with phase := .prepare }
def rep (x : Repair) (s : State) : State := { s with rep := { s.rep with slots := s.rep.slots.set 1 (some x) } }
def lentS (s : State) : State := { (s.setOwn 0x20 { owner := 4, draining := false, lent := true }) with rep := { s.rep with loans := setBit s.rep.loans 25 } }
def son (s : State) : State := sync ((s.onDom 14 fun d => { d with state := .on }).onDom 25 fun d => { d with state := .on })
def sl (s : State) : State := s.onDbay 16 fun b => { b with cfg := .loaded }
def gap (s : State) : State := { s with clk := { s.clk with gap := true } }
def rdy : Repair := { rp with phase := .ready, auto := true, cold := false, noGap := true }
def past : Repair := { rp with phase := .cutover, past := true }
end W12

/-- States that meet the hypotheses of `RepairMomentsComplete`, clause by clause. -/
theorem hypotheses_RepairMomentsComplete :
    (∃ (s : State) (r : Fin 3) (x : Repair), s.serves = true ∧ s.rep.slots[r] = some x ∧ x.phase = .recall ∧ s.halted x = false ∧
      (s.ownOf (bayCode x.spare)).owner ≠ 0 ∧ s.part.changes = [] ∧
      s.owns (s.ownOf (bayCode x.spare)).owner (bayCode x.spare) = true) ∧
    (∃ (s : State) (r : Fin 3) (x : Repair) (i : Fin 32) (o : Fin 18) (d : Fin 18), s.hw = true ∧ s.rep.slots[r] = some x ∧
      x.phase = .prepare ∧ s.halted x = false ∧ x.orig = 9 + o.val ∧ x.spare = 9 + d.val ∧ i = domOfD d ∧ s.isOn i = true ∧
      s.dbays[d].cfg = .loaded ∧ x.memCopy = 0) ∧
    (∃ (s : State) (r : Fin 3) (x : Repair) (o : Fin 18) (d : Fin 18) (m : Fin 4) (k : Nat), s.hw = true ∧ s.rep.slots[r] = some x ∧
      x.phase = .prepare ∧ s.halted x = false ∧ x.orig = 9 + o.val ∧ x.spare = 9 + d.val ∧ s.dbays[d].cfg = .loaded ∧
      s.clk.gap = true ∧ copyTarget x.memCopy x.copyStep = some (m, k) ∧ s.dbays[o].mems[m].errors = [] ∧ memCalm s o m) ∧
    (∃ (s : State) (r : Fin 3) (x : Repair), s.hw = true ∧ s.rep.slots[r] = some x ∧ x.phase = .warmup ∧ s.halted x = false) ∧
    (∃ (s : State) (r : Fin 3) (x : Repair), s.hw = true ∧ s.rep.slots[r] = some x ∧ x.phase = .compare ∧ s.halted x = false ∧
      x.missed ≤ x.missTol.toNat) ∧
    (∃ (s : State) (r : Fin 3) (x : Repair), s.hw = true ∧ s.rep.slots[r] = some x ∧ x.phase = .ready ∧ s.halted x = false ∧
      x.missTol.toNat < x.missed) ∧
    (∃ (s : State) (r : Fin 3) (x : Repair) (o : Fin 18) (d : Fin 18), s.hw = true ∧ s.rep.slots[r] = some x ∧ x.orig = 9 + o.val ∧
      x.spare = 9 + d.val ∧ s.cutDue x = true ∧ x.cold = false ∧ x.leadNow ≤ 64 ∧ canonical 0xFFF s.lin.active = true ∧
      s.part.changes = []) ∧
    (∃ (s : State) (r : Fin 3) (x : Repair), s.hw = true ∧ s.rep.slots[r] = some x ∧ s.cutDue x = true ∧ x.cold = false ∧
      64 < x.leadNow) ∧
    (∃ (s : State) (r : Fin 3) (x : Repair), s.hw = true ∧ s.rep.slots[r] = some x ∧ x.past = true) ∧
    (∃ (s : State) (r : Fin 3) (x : Repair) (i : Fin 32), s.serves = true ∧ s.rep.slots[r] = some x ∧ x.past = true ∧
      s.halted x = false ∧ x.held = [] ∧ x.lastBeat = false ∧ s.exchangeDrained x = true ∧ x.orig = i.val ∧ x.phase ≠ .retire ∧
      (s.dom i).state = .on) ∧
    (∃ (s : State) (r : Fin 3) (x : Repair) (i : Fin 32), s.serves = true ∧ s.rep.slots[r] = some x ∧ x.past = true ∧
      s.halted x = false ∧ x.held = [] ∧ x.lastBeat = false ∧ s.exchangeDrained x = true ∧ x.orig = i.val ∧ x.orig < 27 ∧
      x.spare < 27 ∧ (s.dom i).state = .off) := by
  refine ⟨⟨(W12.rep { W12.rp with phase := .recall } (W12.lentS W.hw)), 1, { W12.rp with phase := .recall }, ?_⟩,
    ⟨(W12.rep W12.rp (W12.sl (W12.son W.hw))), 1, W12.rp, 25, 5, 16, ?_⟩,
    ⟨((W12.rep { W12.rp with memCopy := 3, copyStep := 17 } (W12.gap (W12.sl (W12.son W.hw)))).setWord 5 1 70 0xABC), 1,
      { W12.rp with memCopy := 3, copyStep := 17 }, 5, 16, 1, 64, ?_⟩,
    ⟨(W12.rep { W12.rp with phase := .warmup } W.hw), 1, { W12.rp with phase := .warmup }, ?_⟩,
    ⟨(W12.rep { W12.rp with phase := .compare } W.hw), 1, { W12.rp with phase := .compare }, ?_⟩,
    ⟨(W12.rep { W12.rp with phase := .ready, missed := 3 } W.hw), 1, { W12.rp with phase := .ready, missed := 3 }, ?_⟩,
    ⟨(let s := W12.rep W12.rdy W.hw; { s with lin := { s.lin with active := [(0x700, 0x143), (0x701, 0xC31)] } }), 1, W12.rdy, 5, 16,
      ?_⟩,
    ⟨(W12.rep { W12.rdy with delivered := 70 } W.hw), 1, { W12.rdy with delivered := 70 }, ?_⟩,
    ⟨(W12.rep { W12.past with unwarm := true } W.hw), 1, { W12.past with unwarm := true }, ?_⟩,
    ⟨(W12.rep W12.past (W12.son W.hw)), 1, W12.past, 14, ?_⟩,
    ⟨(W12.rep W12.past W.hw), 1, W12.past, 14, ?_⟩⟩ <;> ((try simp only [memCalm]) <;> decide +kernel)

/-- States that meet the hypotheses of `RepairCommandsComplete`, clause by clause. -/
theorem hypotheses_RepairCommandsComplete :
    (∃ (s : State) (h : Header) (a : RepairArgs) (i : Nat) (r : Fin 3) (spare : Nat), Turn s ∧
      bayNo (a.type = 1) a.orig.toNat = some i ∧ a.inRange = true ∧
      ((List.finRange 3).find? fun r => s.rep.slots[r].isNone) = some r ∧ s.inRepair i = false ∧
      ((s.noGapSource = false ∨ testBit a.flags 2 = true ∧ (a.mode = 1 ∨ a.calMask = 0 ∧ a.memCopy = 0))) ∧ (∀ o,
      dBay i = some o → s.digitalRefused a h.part o = none) ∧ s.chooseSpare (a.type = 1) i = some (spare, false) ∧
      (s.atTurn h).baySuspect i = false ∧ (s.atTurn h).baySuspect spare = false) ∧
    (∃ (s : State) (h : Header) (rep : Byte) (force : Byte) (r : Fin 3) (x : Repair), Turn s ∧ rep.toNat = r.val ∧
      s.rep.slots[r] = some x ∧ x.past = false ∧ (s.atTurn h).halted x = false ∧ x.phase = .ready ∧ force.toNat ≤ 1) ∧
    (∃ (s : State) (h : Header) (rep : Byte) (r : Fin 3) (x : Repair), Turn s ∧ rep.toNat = r.val ∧ s.rep.slots[r] = some x ∧
      x.past = false ∧ (s.atTurn h).baySuspect x.spare = false) ∧
    (∃ (s : State) (h : Header) (type : Byte) (bay : Byte) (part : Byte) (p : Fin 32) (i : Nat), Turn s ∧ type.toNat ≤ 1 ∧
      bayNo (type = 1) bay.toNat = some i ∧ part.toNat = p.val ∧ p ≠ 0 ∧ s.part.changes = [] ∧ s.freeSpare i = true) ∧
    (∃ (s : State) (h : Header) (type : Byte) (bay : Byte) (i : Nat), Turn s ∧ type.toNat ≤ 1 ∧ bayNo (type = 1) bay.toNat = some i ∧
      s.inRepair i = false ∧ testBit s.rep.retired i = true ∧ s.returnable i = true) ∧
    (∃ (s : State) (h : Header) (rep : Byte) (r : Fin 3), Turn s ∧ rep.toNat = r.val) := by
  refine ⟨⟨(let s := W.turn; { s with cfg := { s.cfg with slots := s.cfg.slots.set 3 (some 9) } }), W.hd, W12.ra, 14, 0, 25, ?_⟩,
    ⟨(W12.rep W12.rdy W.turn), W.hd, 1, 0, 1, W12.rdy, ?_⟩,
    ⟨(W12.rep W12.rdy W.turn), W.hd, 1, 1, W12.rdy, ?_⟩,
    ⟨W.turn, W.hd, 1, 16, 3, 3, 25, ?_⟩,
    ⟨(let s := W.turn; { s with rep := { s.rep with retired := setBit s.rep.retired 12 } }), W.hd, 1, 3, 12, ?_⟩,
    ⟨(W12.rep W12.rdy W.turn), W.hd, 1, 1, ?_⟩⟩ <;> ((try simp only [Turn]) <;> decide +kernel)

namespace W13
open W
def lOn (s : State) : State := sync (s.onDom 28 fun d => { d with state := .on })
def port (f : Port → Port) (s : State) : State := s.onPort 1 f
def blk : List Byte := let m := [0xA5, 1, 4, 1] ++ le 2 (3 : Half) ++ [2, 5] ++ le 4 (1 : Word) ++ le 8 (9 : BitVec 49) ++ le 4 (7 : Word) ++ le 2 (1 : Half) ++ le 2 (2 : Half) ++ le 4 (100 : Word) ++ [10] ++ List.replicate 11 0
  m ++ le 4 (crc32 m)
def ck (s : State) : State := { s with clk := { s.clk with lock := true, freewheel := false } }
def seg : List Byte := let m := List.replicate 12 (9 : Byte) ++ [3]
  m ++ le 2 (crc16 m)
def P := fun (f : Port → Port) => ck (port f (lOn hw))
def TP := fun (f : Port → Port) => port f (lOn turn)
def sams : Port → Port := fun x => { x with state := .exchange, block := some blk, samples := List.replicate 16 2000, arrival := 1000 }
end W13

/-- States that meet the hypotheses of `LinkMomentsComplete`, clause by clause. -/
theorem hypotheses_LinkMomentsComplete :
    (∃ (s : State) (p : Fin 4) (v : Word), s.hw = true ∧ Trusted s (domOfL p) ∧ testBit v 0 = true ∧ s.ports[p].en = false ∧
      s.isOn (domOfL p) = true) ∧
    (∃ (s : State) (p : Fin 4) (v : Word), s.hw = true ∧ Trusted s (domOfL p) ∧ testBit v 0 = false ∧ s.ports[p].en = true) ∧
    (∃ (s : State) (p : Fin 4), s.hw = true) ∧
    (∃ (s : State) (p : Fin 4), s.hw = true ∧ s.ports[p].state = .settle) ∧
    (∃ (s : State) (p : Fin 4), s.hw = true ∧ s.ports[p].state = .seek) ∧
    (∃ (s : State) (p : Fin 4), s.hw = true ∧ s.ports[p].state = .deskew) ∧
    (∃ (s : State) (p : Fin 4) (b : List Byte) (trip : Word) (arrival : Word), s.hw = true ∧ s.ports[p].state = .exchange ∧
      blockOk b = true ∧ s.ports[p].samples.length < 16) ∧
    (∃ (s : State) (p : Fin 4) (b : List Byte) (trip : Word) (arrival : Word), s.hw = true ∧ s.ports[p].state = .exchange ∧
      blockOk b = false ∧ s.ports[p].badBlocks = 15) ∧
    (∃ (s : State) (p : Fin 4) (b : List Byte), s.hw = true ∧ s.ports[p].state = .exchange ∧ s.ports[p].block = some b ∧
      s.refusal b false = none ∧ s.ports[p].samples.length = 16 ∧ s.ports[p].level.ck ≤ 511) ∧
    (∃ (s : State) (p : Fin 4) (b : List Byte) (drift : Bool) (c : BitVec 3), s.hw = true ∧ s.ports[p].state = .exchange ∧
      s.ports[p].block = some b ∧ s.refusal b drift = some c) ∧
    (∃ (s : State) (p : Fin 4), s.hw = true ∧ s.ports[p].state = .refused ∧ s.ports[p].cause ≠ 4) ∧
    (∃ (s : State) (p : Fin 4), s.hw = true ∧ s.ports[p].state = .level) ∧
    (∃ (s : State) (p : Fin 4), s.hw = true ∧ s.ports[p].state = .up ∧ s.ports[p].lockLost = false) ∧
    (∃ (s : State) (p : Fin 4) (lost : Half), s.hw = true ∧ s.ports[p].state = .up ∧ s.ports[p].lockLost = true ∧
      s.ports[p].lockHold ≤ s.ck) ∧
    (∃ (s : State) (p : Fin 4) (lost : Half), s.hw = true ∧ s.ports[p].state = .up ∧ s.ports[p].lockLost = true ∧
      s.ports[p].lockHold ≤ s.ck) ∧
    (∃ (s : State) (p : Fin 4), s.hw = true ∧ s.ports[p].state = .up ∧ s.ports[p].lockLost = true) ∧
    (∃ (s : State) (p : Fin 4), s.hw = true ∧ s.ports[p].state = .up ∧ s.clk.atBoundary = true) ∧
    (∃ (s : State) (p : Fin 4), s.hw = true ∧ s.ports[p].trains = true ∧ s.clk.atBoundary = true) ∧
    (∃ (s : State) (p : Fin 4) (seg : List Byte), s.hw = true ∧ s.ports[p].live = true ∧ s.ports[p].latShift = false ∧
      rd 16 seg 13 2 = crc16 (slice seg 0 13) ∧ s.armedOn 0x181 (BitVec.ofNat 8 p.val) = none) ∧
    (∃ (s : State) (p : Fin 4) (seg : List Byte) (code : Half), s.hw = true ∧ s.ports[p].state = .up ∧
      rd 16 seg 13 2 ≠ crc16 (slice seg 0 13)) ∧
    (∃ (s : State) (p : Fin 4) (b : List Byte), s.hw = true ∧ s.ports[p].state = .exchange ∧ s.ports[p].block = some b ∧
      s.refusal b false = none ∧ s.ports[p].samples.length = 16 ∧ 511 < s.ports[p].level.ck) ∧
    (∃ (s : State) (p : Fin 4) (at' : Nat), s.hw = true ∧ s.ports[p].trains = true ∧ s.clk.atBoundary = true ∧
      s.ports[p].echoAt = some at') ∧
    (∃ (s : State) (p : Fin 4) (drift : Bool), s.hw = true ∧ s.ports[p].state = .exchange ∧ s.ports[p].block = none ∧
      (s.clk.lock = false ∨ drift = true)) := by
  refine ⟨⟨(W13.P fun x => { x with en := false, state := .disabled }), 1, 1, ?_⟩,
    ⟨(W13.P fun x => { x with state := .up }), 1, 0, ?_⟩,
    ⟨(W13.P fun x => { x with swing := 7 }), 1, ?_⟩,
    ⟨(W13.P fun x => { x with state := .settle }), 1, ?_⟩,
    ⟨(W13.P fun x => { x with state := .seek }), 1, ?_⟩,
    ⟨(W13.P fun x => { x with state := .deskew }), 1, ?_⟩,
    ⟨(W13.P fun x => { x with state := .exchange }), 1, W13.blk, 3000, 5000, ?_⟩,
    ⟨(W13.P fun x => { x with state := .exchange, badBlocks := 15 }), 1, [1,2], 3000, 5000, ?_⟩,
    ⟨(W13.P W13.sams), 1, W13.blk, ?_⟩,
    ⟨(W13.P W13.sams), 1, W13.blk, true, 2, ?_⟩,
    ⟨(W13.P fun x => { x with state := .refused, cause := 2 }), 1, ?_⟩,
    ⟨(W13.P fun x => { W13.sams x with state := .level }), 1, ?_⟩,
    ⟨(W13.P fun x => { x with state := .up }), 1, ?_⟩,
    ⟨(W13.P fun x => { x with state := .up, lockLost := true }), 1, 9, ?_⟩,
    ⟨(W13.P fun x => { x with state := .up, lockLost := true }), 1, 9, ?_⟩,
    ⟨(W13.P fun x => { x with state := .up, lockLost := true }), 1, ?_⟩,
    ⟨(W13.P fun x => { x with state := .up, txEn := true, txUser := 0x1234567890 }), 1, ?_⟩,
    ⟨(W13.P fun x => { x with state := .seek }), 1, ?_⟩,
    ⟨(W13.P fun x => { x with state := .up }), 1, W13.seg, ?_⟩,
    ⟨(W13.P fun x => { x with state := .up, lockLost := true }), 1, [4], 3, ?_⟩,
    ⟨(W13.P fun x => { W13.sams x with latTarget := 127 }), 1, W13.blk, ?_⟩,
    ⟨{ W13.P (fun x => { x with state := .seek, echoAt := some 100 }) with ck := 40 }, 1, 100, ?_⟩,
    ⟨(W13.P fun x => { x with state := .exchange }), 1, true, ?_⟩⟩ <;> ((try simp only [Trusted]) <;> decide +kernel)

/-- States that meet the hypotheses of `LinkCommandsComplete`, clause by clause. -/
theorem hypotheses_LinkCommandsComplete :
    (∃ (s : State) (h : Header), Turn s) ∧
    (∃ (s : State) (h : Header) (p : Fin 4), Turn s ∧ Trusted (s.atTurn h) (domOfL p) ∧ s.isOn (domOfL p) = true ∧
      s.ports[p].en = false) ∧
    (∃ (s : State) (h : Header) (p : Fin 4), Turn s ∧ Trusted (s.atTurn h) (domOfL p)) ∧
    (∃ (s : State) (h : Header) (p : Fin 4), Turn s ∧ Trusted (s.atTurn h) (domOfL p) ∧ s.ports[p].state = .up) ∧
    (∃ (s : State) (h : Header) (p : Fin 4), Turn s ∧ Trusted (s.atTurn h) (domOfL p) ∧ s.ports[p].latShift = true) := by
  refine ⟨⟨W.turn, W.hd, ?_⟩,
    ⟨(W13.TP fun x => { x with en := false, state := .disabled }), W.hd, 1, ?_⟩,
    ⟨(W13.TP fun x => { x with state := .up }), W.hd, 1, ?_⟩,
    ⟨(W13.TP fun x => { x with state := .up }), W.hd, 1, ?_⟩,
    ⟨(W13.TP fun x => { x with state := .up, latShift := true }), W.hd, 1,
      ?_⟩⟩ <;> ((try simp only [Turn]) <;> (try simp only [Trusted]) <;> decide +kernel)

namespace W14
open W
def lOn (s : State) : State := sync (s.onDom 28 fun d => { d with state := .on })
def P (f : Port → Port) : State := (lOn hw).onPort 1 fun x => f { x with state := .up }
def TP (f : Port → Port) : State := (lOn turn).onPort 1 f
def pkt : Packet := { kind := .record, bytes := List.replicate 50 9, poison := [], source := none }
def sf : SentFlit := { seq := 9, kind := .darem, first := true, last := true, poison := false, payload := [1,2], acked := false, due := true, left := 0, old := false, source := none }
def fl : Flit := { kind := 2, avc := .req, vc := .req, first := true, last := true, poison := false, seq := 0, ack := 0x3FF, ackv := false, snak := 0, session := 0, len := 3, payload := [7, 8, 9] }
def flit : List Byte := fl.bytes
def held (d : Half) : HeldFlit := { seq := 0, kind := .darem, first := true, last := true, poison := false, payload := le 2 d ++ [1,2,3] }
def fw : Forwarded := { port := 2, packet := pkt }
def full : Forwarded := { port := 2, packet := { pkt with bytes := List.replicate 20000 9 } }
def fh : Holder := { k := 29, request := { deadline := 100, raised := 0, bytes := 50, xlen := 4, dest := 0x0909, rsp := false, stamped := 0 }, port := 2, rsp := false, slots := 2, packet := some pkt, ck0 := 3, jumps := [] }
end W14

/-- States that meet the hypotheses of `ChannelCompletes`, clause by clause. -/
theorem hypotheses_ChannelCompletes :
    (∃ (s : State) (p : Fin 4) (x : Packet), s.hw = true ∧ s.ports[p].live = true ∧ s.ports[p].rsp.firstDue = none ∧
      s.ports[p].req.firstDue = none ∧ s.ports[p].canSend .rsp = false ∧ s.ports[p].canSend .req = true ∧
      s.ports[p].source .req = some x ∧ s.armedOn 0x184 0 = none ∧ s.armedOn 0x185 0 = none ∧
      s.ports[p].req.replay.find? (fun g => g.seq = s.ports[p].req.nextSeq && !g.acked) = none) ∧
    (∃ (s : State) (p : Fin 4), s.hw = true ∧ s.ports[p].live = true ∧ s.ports[p].rsp.firstDue = none ∧
      s.ports[p].req.firstDue = none ∧ s.ports[p].canSend .rsp = false ∧ s.ports[p].canSend .req = false) ∧
    (∃ (s : State) (p : Fin 4) (f : SentFlit), s.hw = true ∧ s.ports[p].live = true ∧ s.ports[p].rsp.firstDue = some f) ∧
    (∃ (s : State) (p : Fin 4) (b : List Byte), s.hw = true ∧ s.ports[p].live = true ∧ flitCrcOk b = false) ∧
    (∃ (s : State) (p : Fin 4) (b : List Byte), s.hw = true ∧ s.ports[p].live = true ∧ flitCrcOk b = true ∧
      s.armedOn 0x182 (BitVec.ofNat 8 p.val) = none ∧ (readFlit b).session ≠ s.ports[p].session) ∧
    (∃ (s : State) (p : Fin 4) (b : List Byte), s.hw = true ∧ s.ports[p].live = true ∧ flitCrcOk b = true ∧
      s.armedOn 0x182 (BitVec.ofNat 8 p.val) = none ∧ (readFlit b).session = s.ports[p].session ∧ (readFlit b).formed = true ∧
      (readFlit b).kind = 2 ∧ (readFlit b).vc = .req ∧ ((readFlit b).seq - s.ports[p].req.e - 1).toNat < 256 ∧
      (s.ports[p].req.reorder.any fun g => g.seq = (readFlit b).seq) = false) ∧
    (∃ (s : State) (p : Fin 4) (f : HeldFlit), s.hw = true ∧ s.ports[p].req.nextHeld = some f ∧ f.first = true ∧ f.last = true ∧
      f.kind = .darem ∧ rd 16 f.payload 0 2 = s.node.addr) ∧
    (∃ (s : State) (p : Fin 4) (q : Fin 4) (f : HeldFlit), s.hw = true ∧ s.ports[p].req.nextHeld = some f ∧ f.first = true ∧
      f.last = true ∧ rd 16 f.payload 0 2 ≠ s.node.addr ∧ rd 16 f.payload 0 2 ≠ 0xFFFF ∧ s.route (rd 16 f.payload 0 2) = some q ∧
      s.ports[p].req.fwdUsed + 15 ≤ 384) ∧
    (∃ (s : State) (p : Fin 4) (q : Fin 4) (f : HeldFlit), s.hw = true ∧ s.ports[p].req.nextHeld = some f ∧ f.first = true ∧
      rd 16 f.payload 0 2 ≠ s.node.addr ∧ rd 16 f.payload 0 2 ≠ 0xFFFF ∧ s.route (rd 16 f.payload 0 2) = some q ∧
      384 < s.ports[p].req.fwdUsed + 15) ∧
    (∃ (s : State) (p : Fin 4) (v : Vc), s.hw = true ∧ s.ports[p].live = true ∧
      ((s.ports[p].vc v).replay.any fun f => !f.acked) = true) ∧
    (∃ (s : State) (p : Fin 4) (h : Holder) (f : Forwarded) (rest : List Forwarded), s.hw = true ∧ s.ports[p].req.fwd = f :: rest ∧
      s.arb.holder = some h ∧ h.k.val = 28 + p.val ∧ h.rsp = false ∧ h.packet = some f.packet ∧
      s.armedOn 0x240 (BitVec.ofNat 8 h.k.val) = none) ∧
    (∃ (s : State) (p : Fin 4) (k : Fin 32) (f : Forwarded) (rest : List Forwarded), s.hw = true ∧ k.val = 28 + p.val ∧
      s.ports[p].rsp.fwd = [] ∧ s.ports[p].req.fwd = f :: rest ∧ s.holds k = false ∧ s.arb.reqs[k].waiting = none ∧
      rd 16 f.packet.bytes 0 2 ≠ s.node.addr ∧ (s.route (rd 16 f.packet.bytes 0 2)).isSome = true) ∧
    (∃ (s : State) (p : Fin 4) (v : Word), s.hw = true ∧ Trusted s (domOfL p) ∧ testBit v 0 = true) ∧
    (∃ (s : State) (h : Header) (entry : Half) (count : Byte) (vals : List Byte), Turn s ∧ entry.toNat + vals.length ≤ 320) ∧
    (∃ (s : State) (h : Header) (port : Byte) (p : Fin 4), Turn s ∧ port.toNat = p.val) := by
  refine ⟨⟨(W14.P fun x => { x with orqReq := [W14.pkt] }), 1, W14.pkt, ?_⟩,
    ⟨(W14.P id), 1, ?_⟩,
    ⟨(W14.P fun x => { x with rsp := { x.rsp with nextSeq := 10, replay := [W14.sf] } }), 1, W14.sf, ?_⟩,
    ⟨(W14.P id), 1, [5], ?_⟩,
    ⟨(W14.P fun x => { x with session := 3 }), 1, W14.flit, ?_⟩,
    ⟨(W14.P id), 1, W14.flit, ?_⟩,
    ⟨(W14.P fun x => { x with req := { x.req with reorder := [W14.held W.hw.node.addr] } }), 1, (W14.held W.hw.node.addr), ?_⟩,
    ⟨(let s := W14.P fun x => { x with req := { x.req with reorder := [W14.held 0x0505] } }; { s with routes := [(5, 6)], node := { s.node with addr := 0x0101 } }), 1, 2, (W14.held 0x0505), ?_⟩,
    ⟨(let s := W14.P fun x => { x with req := { x.req with reorder := [W14.held 0x0505], fwd := [W14.full] } }; { s with routes := [(5, 6)], node := { s.node with addr := 0x0101 } }), 1, 2, (W14.held 0x0505), ?_⟩,
    ⟨(W14.P fun x => { x with rsp := { x.rsp with nextSeq := 10, replay := [W14.sf] } }), 1, .rsp, ?_⟩,
    ⟨(let s := W14.P fun x => { x with req := { x.req with fwd := [W14.fw] } }; { s with arb := { s.arb with holder := some W14.fh } }), 1, W14.fh, W14.fw, [], ?_⟩,
    ⟨(let s := W14.P fun x => { x with req := { x.req with fwd := [W14.fw] } }; { s with routes := [(9, 6)], node := { s.node with addr := 0x0101 } }), 1, 29, W14.fw, [], ?_⟩,
    ⟨(W14.P id), 1, 1, ?_⟩,
    ⟨W.turn, W.hd, 100, 3, [5,6,7], ?_⟩,
    ⟨W.turn, W.hd, 3, 3, ?_⟩⟩ <;> ((try simp only [Turn]) <;> (try simp only [Trusted]) <;> decide +kernel)

namespace W15
open W
def dOn (s : State) : State := (sync (s.onDom 14 fun d => { d with state := .on })).onDbay 5 fun b => { b with cfg := .loaded, gsrLoad := false, gsrReset := false }
def ar (f : Arb → Arb) : State := { dOn hw with
  ck := 5, routes := [(5, 6)], node := { hw.node with addr := 0x0101 }, arb := f hw.arb }
def rq : Request := { deadline := 100, raised := 0, bytes := 40, xlen := 2, dest := 0x0505, rsp := false, stamped := 0 }
def wait (k : Fin 32) (a : Arb) : Arb := { a with reqs := upd a.reqs k fun r => { r with waiting := some rq } }
def hl : Holder := { k := 5, request := rq, port := 2, rsp := false, slots := 2, packet := none, ck0 := 3, jumps := [] }
end W15

/-- States that meet the hypotheses of `ArbiterCompletes`, clause by clause. -/
theorem hypotheses_ArbiterCompletes :
    (∃ (s : State) (k : Fin 32) (dl : Half) (blen : BitVec 4) (dest : Half) (p : Fin 4), s.hw = true ∧ k.val < 18 ∧
      s.shadowOf k true = none ∧ s.shadowOf k false = none ∧ s.reqMasked k = false ∧ s.arb.reqs[k].waiting = none ∧
      s.holds k = false ∧ dest ≠ s.node.addr ∧ s.route dest = some p) ∧
    (∃ (s : State) (k : Fin 32) (dl : Half) (blen : BitVec 4) (dest : Half), s.hw = true ∧ k.val < 18 ∧ s.shadowOf k true = none ∧
      s.shadowOf k false = none ∧ s.reqMasked k = false ∧ s.arb.reqs[k].waiting = none ∧ s.holds k = false ∧
      ((dest = s.node.addr ∨ s.route dest = none))) ∧
    (∃ (s : State) (k : Fin 32) (dl : Half) (blen : BitVec 4) (dest : Half), s.hw = true) ∧
    (∃ (s : State) (k : Fin 32) (dl : Half) (blen : BitVec 4) (dest : Half), s.hw = true ∧ s.shadowOf k true = none ∧
      s.holds k = true) ∧
    (∃ (s : State) (k : Fin 18) (n : Fin 32) (dl : Half) (q : Request), s.hw = true ∧ n.val = k.val ∧
      s.arb.reqs[n].waiting = some q) ∧
    (∃ (s : State) (k : Fin 32) (p : Fin 32) (q : Request), s.hw = true ∧ s.reqOwner k = p ∧ (∀ i ∈ reqDoms k, Trusted s i) ∧
      s.arb.reqs[k].waiting = some q) ∧
    (∃ (s : State) (k : Fin 32) (q : Request) (p : Fin 4), s.hw = true ∧ s.arb.holder = none ∧ k.val < 27 ∧
      s.sweepRequests.winner = some (k, q) ∧ s.sweepRequests.reqPort k q = some p) ∧
    (∃ (s : State) (h : Holder) (cause : Fin 4) (bubbles : Byte), s.hw = true ∧ s.arb.holder = some h ∧ h.packet = none ∧
      h.rsp = false ∧ s.tearCause h cause bubbles.toNat = true) ∧
    (∃ (s : State) (h : Holder) (cause : Fin 4) (bubbles : Byte) (lead : Byte), s.hw = true ∧ s.arb.holder = none ∧
      s.arb.cut = some h ∧ 2 ≤ cause.val ∧ h.request.deadline ≠ s.beatZero h lead.toNat ∧
      passed h.request.deadline (s.beatZero h lead.toNat) = true) ∧
    (∃ (s : State) (h : Holder) (src : Fin 32) (beats : List Byte) (bubbles : Byte) (lead : Byte), s.hw = true ∧
      s.arb.holder = some h ∧ h.packet = none ∧ h.rsp = false ∧ h.k.val < 18 ∧ s.shadowOf h.k false = none ∧
      src.val = s.arb.reqs[h.k].srcnum.toNat ∧ s.cutCause h.k = none ∧ bubbles.toNat ≤ s.arb.bubbleMax.toNat ∧
      lead.toNat ≤ bubbles.toNat ∧ s.armedOn 0x240 (BitVec.ofNat 8 h.k.val) = none) ∧
    (∃ (s : State) (h : Holder) (beats : List Byte) (bubbles : Byte) (lead : Byte), s.hw = true ∧ s.arb.holder = some h ∧
      h.packet = none ∧ h.rsp = false ∧ s.cutCause h.k = none ∧ s.arb.bubbleMax.toNat < bubbles.toNat) ∧
    (∃ (s : State) (v : Word), s.hw = true ∧ testBit v 0 = true) ∧
    (∃ (s : State) (v : Word), s.hw = true ∧ testBit v 0 = true) := by
  refine ⟨⟨(W15.ar id), 5, 30, 2, 0x0505, 2, ?_⟩,
    ⟨(W15.ar id), 5, 30, 2, 0x0605, ?_⟩,
    ⟨(W15.ar (W15.wait 5)), 5, 30, 2, 0x0605, ?_⟩,
    ⟨(W15.ar fun a => { a with holder := some W15.hl }), 5, 30, 2, 0x0605, ?_⟩,
    ⟨(W15.ar (W15.wait 5)), 5, 5, 30, W15.rq, ?_⟩,
    ⟨(W15.ar (W15.wait 29)), 29, 0, W15.rq, ?_⟩,
    ⟨(W15.ar (W15.wait 5)), 5, W15.rq, 2, ?_⟩,
    ⟨(W15.ar fun a => { a with holder := some W15.hl, bubbleMax := 3 }), W15.hl, 0, 9, ?_⟩,
    ⟨(W15.ar fun a => { a with cut := some { W15.hl with jumps := [(5, 0xFFFFFFFFFF00)] } }),
      { W15.hl with jumps := [(5, 0xFFFFFFFFFF00)] }, 2, 9, 1, ?_⟩,
    ⟨(W15.ar fun a => { a with holder := some { W15.hl with jumps := [(5, 0xFFFFFFFFFF00)] }, bubbleMax := 3 }),
      { W15.hl with jumps := [(5, 0xFFFFFFFFFF00)] }, 5, (List.replicate 24 7), 3, 2, ?_⟩,
    ⟨(W15.ar fun a => { a with holder := some W15.hl, bubbleMax := 3 }), W15.hl, (List.replicate 24 7), 4, 2, ?_⟩,
    ⟨(W15.ar id), 1, ?_⟩,
    ⟨(W15.ar id), 1, ?_⟩⟩ <;> ((try simp only [Trusted]) <;> decide +kernel)

namespace W16
open W
def ent (id : Word) (r : Option Reply) : Entry := { part := 0, id := id, op := 0, params := [], flags := 0, src := 0x0202, path := .link 0, epoch := 0, keyGen := 0, codes := [], durable := false, long := false, started := false, result := r, released := false, used := 0, seg := 6, size := 10 }
def ledg (es : List Entry) (s : State) : State := { s with ldg := { s.ldg with entries := es } }
def seg (s : State) : State := s.onSeg 9 fun g => { g with state := .erasing, used := 5 }
def wrote (s : State) : State := { s with ldg := { s.ldg with last := some (.command { part := 0, id := 7 }) } }
def rc (n : Word) : Rec := { lseq := n, et := 5, det := 0, part := 0, unit := 0, code := 0x2A, flags := 0, rep := 0, arg0 := 0 }
def rings (l : List Word) (s : State) : State := { s with log := { s.log with ring := l.map rc } }
def own7 (s : State) : State := (s.setOwn 0xC1 { owner := 7, draining := false, lent := false }).setOwn 0x93 { owner := 7, draining := false, lent := false }
def stg (a : Nat) (s : State) : State := { s with staged := [{ part := 7, addr := a, value := 9 }] }
def c7 : CmdRef := { part := 0, id := 7 }
def rr (s : State) : State := let s := W16.ledg [{ W16.ent 7 none with op := 0xC1, params := [0, 0], durable := true }] s; { s with ldg := { s.ldg with reruns := [c7] } }
def mb16 (f : MemBlock → MemBlock) : State := ((sync (hw.onDom 14 fun d => { d with state := .on })).onDbay 5 fun b => { b with cfg := .loaded, gsrLoad := false, gsrReset := false, gsrHold := false, gsrRepair := false }).onMem 5 1 f
end W16

/-- States that meet the hypotheses of `AccessCompletes`, clause by clause. -/
theorem hypotheses_AccessCompletes :
    (∃ (s : State) (p : Fin 32) (addr : Word) (v : Word) (r : Reg), s.hw = true ∧ targetAt addr.toNat = some (.reg r) ∧
      r.single = true ∧ (r.access p (s.unstage p)).writable = true ∧ (r.access p (s.unstage p)).who v = true ∧
      (∀ i ∈ (r.access p (s.unstage p)).doms v, Trusted s i) ∧ (r.access p (s.unstage p)).range v = true ∧
      (r.access p (s.unstage p)).rule none v = none) ∧
    (∃ (s : State) (p : Fin 32) (addr : Word) (v : Word) (r : Reg), s.hw = true ∧ targetAt addr.toNat = some (.reg r) ∧
      (r.access p (s.unstage p)).writable = false ∧ r.stages = false) ∧
    (∃ (s : State) (p : Fin 32) (addr : Word) (v : Word), s.hw = true ∧ targetAt addr.toNat = none) ∧
    (∃ (s : State) (p : Fin 32) (c : Clk), s.hw = true) ∧
    (∃ (s : State) (p : Fin 32) (addr : Word) (v : Word) (r : Reg), s.hw = true ∧ targetAt addr.toNat = some (.reg r) ∧
      r.stages = true ∧ (r.access p s).who v = true ∧ (∀ i ∈ (r.access p s).doms v, Trusted s i) ∧ r.addr = addr.toNat) ∧
    (∃ (s : State) (p : Fin 32) (v : Word) (w : Word), s.hw = true ∧ s.owns p 0xC1 = true ∧ s.stagedAt p 0xA030 = some w) ∧
    (∃ (s : State) (p : Fin 32) (t : Fin 16) (v : Word) (w : Word), s.hw = true ∧ s.owns p (0x90 + t.val) = true ∧
      s.timers[t].en = false ∧ s.stagedAt p (0x2F508 + 16 * t.val) = some w ∧ bits v 16 16 = 0) ∧
    (∃ (s : State) (v : Word) (again : Word), s.hw = true) ∧
    (∃ (s : State) (p : Fin 32) (addr : Word) (v : Word), s.hw = true) ∧
    (∃ (s : State) (v : Word), s.hw = true) ∧
    (∃ (s : State) (p : Fin 32) (d : Fin 18) (m : Fin 4) (k : BitVec 10) (addr : Word) (v : Word), s.hw = true ∧
      addr.toNat = memAddr d m k.toNat ∧ s.owns p (0x10 + d.val) = true ∧ Trusted s (domOfD d) ∧ s.windowOpen d m = true) ∧
    (∃ (s : State) (p : Fin 32) (addr : Word) (r : Reg), s.hw = true ∧ targetAt addr.toNat = some (.reg r) ∧ r.words ≠ []) ∧
    (∃ (s : State) (v : Word), s.hw = true) ∧
    (∃ (s : State) (p : Fin 32) (t : Fin 16) (v : Word), s.hw = true ∧ s.owns p (0x90 + t.val) = true) ∧
    (∃ (s : State) (p : Fin 32) (v : Word), s.hw = true ∧ s.owns p 0xC1 = true) ∧
    (∃ (s : State) (v : Word), s.hw = true) ∧
    (∃ (s : State) (p : Fin 32) (t : Fin 16) (v : Word), s.hw = true ∧ s.owns p (0x90 + t.val) = true ∧ s.timers[t].en = false) ∧
    (∃ (s : State) (p : Fin 32) (v : Word), s.hw = true ∧ s.owns p 0xC1 = true) := by
  refine ⟨⟨W.hw, 0, 0x1028, 77, (.clk .gapGen), ?_⟩,
    ⟨W.hw, 0, 0x1000, 1, (.clk .status), ?_⟩,
    ⟨W.hw, 3, 0x1100, 1, ?_⟩,
    ⟨(W.clk fun c => { c with et := 0x123456789AB }), 3, W.hw.clk, ?_⟩,
    ⟨(W16.stg 0x1018 (W16.own7 W.hw)), 7, 0xA030, 5, (.prb .capEtLo), ?_⟩,
    ⟨(W16.stg 0xA030 (W16.own7 W.hw)), 7, 5, 9, ?_⟩,
    ⟨(W16.stg 0x2F538 (W16.own7 W.hw)), 7, 3, 5, 9, ?_⟩,
    ⟨W.hw, 5, 4, ?_⟩,
    ⟨W.hw, 0, 0x1028, 77, ?_⟩,
    ⟨W.hw, 0x00030009, ?_⟩,
    ⟨(W16.mb16 fun b => { b with window := true }), 0, 5, 1, 7, (BitVec.ofNat 32 (memAddr 5 1 7)), 0xABCD, ?_⟩,
    ⟨W.hw, 3, 0x1010, (.clk .etLo), ?_⟩,
    ⟨W.hw, 9, ?_⟩,
    ⟨(W16.own7 W.hw), 7, 3, 9, ?_⟩,
    ⟨(W16.own7 W.hw), 7, 9, ?_⟩,
    ⟨(W16.stg 0x1018 W.hw), 9, ?_⟩,
    ⟨(W16.stg 0x2F538 (W16.own7 W.hw)), 7, 3, 9, ?_⟩,
    ⟨(W16.stg 0xA030 (W16.own7 W.hw)), 7, 9, ?_⟩⟩ <;> ((try simp only [Trusted]) <;> decide +kernel)

/-- States that meet the hypotheses of `HostCompletes`, clause by clause. -/
theorem hypotheses_HostCompletes :
    (∃ (s : State) (u : State) (c : CmdRef) (e : Entry) (r : Reply), s.serves = true ∧ s.pwr.nvwDefer = false ∧ s.ldg.reruns = [c] ∧
      s.entry c = some e ∧ (e.rerun.map fun run => run (({ s with ldg := { s.ldg with reruns := [] } }).begun c)) = some (u,
      some r)) ∧
    (∃ (s : State) (h : Header) (data : List Byte), Turn s) ∧
    (∃ (s : State) (h : Header) (addr : Word) (count : Byte) (rs : List Reg), Turn s ∧ 1 ≤ rs.length ∧ rs.length ≤ 119 ∧
      count.toNat = rs.length ∧ (∀ k : Fin rs.length, targetAt (addr.toNat + 4 * k.val) = some (.reg rs[k])) ∧ ((∀ r ∈ rs,
      r.words = [] ∧ r.low = none ∧ (r.access h.part (s.atTurn h)).mask = 0xFFFFFFFF))) ∧
    (∃ (s : State) (h : Header) (addr : Word) (v : Word) (r : Reg), Turn s ∧ targetAt addr.toNat = some (.reg r) ∧ r.single = true ∧
      (r.access h.part ((s.atTurn h).unstage h.part)).Takes v) ∧
    (∃ (s : State) (h : Header) (addr : Word) (v : Word) (w : Word) (r : Reg), Turn s ∧ targetAt addr.toNat = some (.reg r) ∧
      r.single = true ∧ (r.access h.part ((s.atTurn h).unstage h.part)).Takes v ∧ targetAt (addr.toNat + 4) = none) ∧
    (∃ (s : State) (u : State) (h : Header) (addr : Word) (mask : Word) (value : Word) (new : Word) (r : Reg), Turn s ∧
      targetAt addr.toNat = some (.reg r) ∧ r.single = true ∧ u = (wordDoms addr 1).foldl State.auditDom (s.atTurn h) ∧
      (r.access h.part u).mask = 0xFFFFFFFF ∧ new = ((r.access h.part u).val &&& ~~~mask) ||| (value &&& mask) ∧
      (r.access h.part (u.unstage h.part)).Takes new) ∧
    (∃ (s : State) (i : Fin 256), s.serves = true ∧ s.ldg.segs[i].state = .erasing ∧ s.mayWrite (.segment i) = true) ∧
    (∃ (s : State) (i : Fin 256), s.serves = true ∧ s.ldg.segs[i].state = .erasing ∧ s.mayWrite (.segment i) = true) ∧
    (∃ (s : State) (h : Header) (id : Word) (e : Entry) (r : Reply), Turn s ∧
      (s.atTurn h).entry { part := h.part, id := id } = some e ∧ e.result = some r) ∧
    (∃ (s : State) (h : Header) (count : Byte) (ids : List Word), Turn s) ∧
    (∃ (s : State) (h : Header) (count : Byte) (id : Word), Turn s) ∧
    (∃ (s : State) (h : Header), Turn s) ∧
    (∃ (s : State) (h : Header) (node : Half) (en : Byte), Turn s ∧ en.toNat ≤ 1) ∧
    (∃ (s : State) (h : Header) (count : Byte) (a : List Rec) (b : List Rec) (r : Rec), Turn s ∧ h.part = 0 ∧ 1 ≤ count.toNat ∧
      count.toNat ≤ 28 ∧ (s.atTurn h).kept = a ++ r :: b ∧ ((∀ x ∈ a, carriedLt r.lseq x.lseq = false ∧ x.lseq ≠ r.lseq))) ∧
    (∃ (s : State) (h : Header) (lseq : Word) (count : Byte) (r : Rec) (b : List Rec), Turn s ∧ h.part = 0 ∧ 1 ≤ count.toNat ∧
      count.toNat ≤ 28 ∧ (s.atTurn h).kept = r :: b ∧ carriedLt lseq r.lseq = true) ∧
    (∃ (s : State) (i : Fin 256) (c : CmdRef) (e : Entry), s.serves = true ∧ s.pwr.nvwDefer = false ∧ s.ldg.openSeg = i.val ∧
      s.ldg.segs[i].state = .live ∧ s.ldg.last = some (.command c) ∧ s.entry c = some e ∧ e.seg = i.val ∧
      s.armedOn 0x1C0 (BitVec.ofFin i) = none) := by
  refine ⟨⟨(W16.rr W.hw), (runResultRelease 0 0 [] (({ W16.rr W.hw with ldg := { (W16.rr W.hw).ldg with reruns := [] } }).begun W16.c7)).1, W16.c7, { W16.ent 7 none with op := 0xC1, params := [0, 0], durable := true }, (done [0]), ?_⟩,
    ⟨W.turn, W.hd, [1,2,3], ?_⟩,
    ⟨W.turn, W.hd, 0x4100, 3, [.ldg (.floor 0), .ldg (.floor 1), .ldg (.floor 2)], ?_⟩,
    ⟨W.turn, W.hd, 0x1028, 0x00030009, (.clk .gapGen), ?_⟩,
    ⟨W.turn, W.hd, 0x7010, 5, 6, (.fw .events), ?_⟩,
    ⟨W.turn, (((wordDoms 0x1028 1).foldl State.auditDom (W.turn.atTurn W.hd))), W.hd, 0x1028, 0xFFFF, 9, 9, (.clk .gapGen), ?_⟩,
    ⟨(W16.seg W.hw), 9, ?_⟩,
    ⟨(W16.seg W.hw), 9, ?_⟩,
    ⟨(W16.ledg [W16.ent 7 none, W16.ent 5 (some (done [9]))] W.turn), W.hd, 5, (W16.ent 5 (some (done [9]))), (done [9]), ?_⟩,
    ⟨(W16.ledg [W16.ent 7 none, W16.ent 5 (some (done [9]))] W.turn), W.hd, 2, [5, 7], ?_⟩,
    ⟨(W16.ledg [W16.ent 7 none, W16.ent 5 (some (done [9]))] W.turn), W.hd, 1, 7, ?_⟩,
    ⟨W.turn, W.hd, ?_⟩,
    ⟨W.turn, W.hd, 0x0505, 1, ?_⟩,
    ⟨(W16.rings [4, 5, 6, 7] W.turn), W.hd, 2, [W16.rc 4], [W16.rc 6, W16.rc 7], (W16.rc 5), ?_⟩,
    ⟨(W16.rings [4, 5, 6, 7] W.turn), W.hd, 1, 9, (W16.rc 4), [W16.rc 5, W16.rc 6, W16.rc 7], ?_⟩,
    ⟨(W16.wrote (W16.ledg [W16.ent 7 none] W.hw)), 6, W16.c7, (W16.ent 7 none),
      ?_⟩⟩ <;> ((try simp only [Turn]) <;> (try simp only [Access.Takes]) <;> decide +kernel)

namespace W17
open W
def ent (id : Word) (r : Option Reply) : Entry := { part := 0, id := id, op := 0, params := [], flags := 0, src := 0x0202, path := .link 0, epoch := 0, keyGen := 0, codes := [], durable := false, long := false, started := false, result := r, released := false, used := 0, seg := 6, size := 10 }
def ledg (es : List Entry) (s : State) : State := { s with ldg := { s.ldg with entries := es } }
def key : List Byte := List.replicate 32 5
def slot2 (s : State) : State := s.onKey 3 fun k => { k with present := true, gen := 2, gens := [{ gen := 1, key := key, leases := [⟨⟨3, 5⟩, 0⟩, ⟨⟨3, 9⟩, 4⟩] }, { gen := 2, key := key, leases := [⟨⟨3, 6⟩, 0⟩] }] }
def slot0 (s : State) : State := s.onKey 0 fun k => { k with present := true, gen := 2, gens := [{ gen := 2, key := key, leases := [] }] }
def jobs (l : List KeyJob) (s : State) : State := { s with keys := { s.keys with jobs := l } }
def chg (l : List Change) (s : State) : State := { s with part := { s.part with changes := l } }
def drn (l : List Drain) (s : State) : State := { s with part := { s.part with drains := l } }
def d4 : Drain := { cmd := some ⟨0, 7⟩, loser := 4, codes := [5, 0x30], epoch := 9, force := true, expiry := 0, aborted := 0 }
def e71 : Entry := { W17.ent 7 none with op := 0x71, params := [4, 0, 0, 2], started := true, long := true }
def e5 : Entry := { W17.ent 9 none with part := 4, op := 0x40, codes := [5], epoch := 3, started := true }
def own4 (s : State) : State := (s.setOwn 5 { owner := 0, draining := true, lent := false }).setOwn 0x30 { owner := 0, draining := true, lent := false }
def own5 (s : State) : State := (s.setOwn 5 { owner := 4, draining := false, lent := false }).setOwn 0x30 { owner := 4, draining := false, lent := false }
def hc : Header := { W.hd with path := .can 2 }
def wrapped : List Byte := List.replicate 32 9
end W17

/-- States that meet the hypotheses of `PartitionMomentsComplete`, clause by clause. -/
theorem hypotheses_PartitionMomentsComplete :
    (∃ (s : State) (p : Fin 32) (g : Half) (x : Gen) (m : Nat), s.serves = true ∧
      (s.keys.slots[p].gens.filter fun y => y.gen = g) = [x] ∧ (x.leases.map (·.taken)).min? = some m) ∧
    (∃ (s : State) (c : CmdRef) (p : Fin 32) (key : List Byte) (kcv : Word), s.serves = true ∧ s.keys.jobs = [.write c p key kcv] ∧
      s.keyGen p (nextGen s.keys.slots[p].gen) = none ∧ s.mayWrite .key = true ∧ s.keyRoom = true) ∧
    (∃ (s : State) (c : CmdRef) (p : Fin 32), s.serves = true ∧ s.keys.jobs = [.erase c p] ∧ s.mayWrite .key = true ∧
      s.keyRoom = true) ∧
    (∃ (s : State) (c : CmdRef) (p : Fin 32) (codes : List Nat), s.serves = true ∧ s.part.changes = [.grant c p codes] ∧
      s.mayWrite .table = true) ∧
    (∃ (s : State) (c : CmdRef) (p : Fin 32) (force : Bool) (limit : Nat) (codes : List Nat), s.serves = true ∧
      s.part.changes = [.revoke c p force limit codes] ∧ s.mayWrite .table = true) ∧
    (∃ (s : State) (c : CmdRef) (p : Fin 32) (i : Fin 27), s.serves = true ∧ s.part.changes = [.lend c p (bayCode i.val)] ∧
      s.mayWrite .table = true) ∧
    (∃ (s : State) (d : Drain), s.serves = true ∧ s.part.drains = [d] ∧ s.drainSet d = [] ∧ s.pwr.nvwDefer = false ∧ (∀ r : Fin 3,
      s.rep.slots[r] = none)) ∧
    (∃ (s : State) (d : Drain) (c : CmdRef) (e : Entry), s.serves = true ∧ s.pwr.nvwDefer = false ∧ s.part.drains = [d] ∧
      d.force = true ∧ d.cmd = some c ∧ d.aborted = 0 ∧ s.entry c = some e ∧ e.op = 0x71 ∧ e.result = none ∧
      (s.drainSet d).length < 65536 ∧ ((s.drainSet d).all fun e => e.ref ≠ c) = true ∧ (∀ r : Fin 3, s.rep.slots[r] = none)) := by
  refine ⟨⟨(W17.slot2 W.hw), 3, 1, { gen := 1, key := W17.key, leases := [⟨⟨3, 5⟩, 0⟩, ⟨⟨3, 9⟩, 4⟩] }, 0, ?_⟩,
    ⟨(W17.jobs [.write ⟨0, 7⟩ 3 W17.wrapped 9] (W17.slot2 W.hw)), ⟨0, 7⟩, 3, W17.wrapped, 9, ?_⟩,
    ⟨(W17.jobs [.erase ⟨0, 7⟩ 3] (W17.slot2 W.hw)), ⟨0, 7⟩, 3, ?_⟩,
    ⟨(W17.chg [.grant ⟨0, 7⟩ 3 [4, 0x30]] W.hw), ⟨0, 7⟩, 3, [4, 0x30], ?_⟩,
    ⟨(W17.chg [.revoke ⟨0, 7⟩ 4 true 9 [5, 0x30]] (W17.own5 W.hw)), ⟨0, 7⟩, 4, true, 9, [5, 0x30], ?_⟩,
    ⟨(W17.chg [.lend ⟨0, 7⟩ 4 0x20] W.hw), ⟨0, 7⟩, 4, 25, ?_⟩,
    ⟨(W17.drn [W17.d4] (W17.own4 W.hw)), W17.d4, ?_⟩,
    ⟨(W17.ledg [W17.e5, W17.e71] (W17.drn [W17.d4] (W17.own4 W.hw))), W17.d4, ⟨0, 7⟩, W17.e71, ?_⟩⟩ <;> decide +kernel

/-- States that meet the hypotheses of `PartitionCommandsComplete`, clause by clause. -/
theorem hypotheses_PartitionCommandsComplete :
    (∃ (s : State) (h : Header) (part : Byte) (count : Byte) (codes : List Half) (p : Fin 32), Turn s ∧ part.toNat = p.val ∧ p ≠ 0 ∧
      (∀ k ∈ codes, codeListed k.toNat = true) ∧ s.part.changes = [] ∧ (∀ k ∈ codes, s.grantable k.toNat = true)) ∧
    (∃ (s : State) (h : Header) (part : Byte) (count : Byte) (codes : List Half) (limit : Half) (p : Fin 32), Turn s ∧
      part.toNat = p.val ∧ p ≠ 0 ∧ (∀ k ∈ codes, codeListed k.toNat = true) ∧ s.part.changes = [] ∧ (∀ k ∈ codes,
      s.owns p k.toNat = true)) ∧
    (∃ (s : State) (h : Header) (part : Byte) (count : Byte) (codes : List Half) (p : Fin 32), Turn s ∧ part.toNat = p.val ∧ p ≠ 0 ∧
      (∀ k ∈ codes, codeListed k.toNat = true) ∧ s.part.changes = [] ∧ (codes.any fun k => !s.grantable k.toNat) = true) ∧
    (∃ (s : State) (h : Header) (first : Half) (count : Byte), Turn s ∧ 1 ≤ count.toNat ∧ count.toNat ≤ 200 ∧
      first.toNat + count.toNat ≤ 0x340) ∧
    (∃ (s : State) (h : Header) (key : List Byte) (ch : Fin 4), Turn s ∧ h.path = .can ch ∧ h.part = 0 ∧
      (s.atTurn h).keys.slots[0].present = false ∧ (s.atTurn h).keys.jobs = [] ∧ (s.atTurn h).keys.slots[0].gens.length < 4) ∧
    (∃ (s : State) (h : Header) (target : Byte) (p : Fin 32), Turn s ∧ target.toNat = p.val) ∧
    (∃ (s : State) (h : Header) (target : Byte) (p : Fin 32), Turn s ∧ target.toNat = p.val) ∧
    (∃ (s : State) (h : Header) (part : Byte) (lo : Half) (hi : Half) (p : Fin 32), Turn s ∧ part.toNat = p.val ∧ 4 ≤ lo.toNat ∧
      lo.toNat ≤ hi.toNat ∧ hi.toNat ≤ 256 ∧ (s.atTurn h).sumMin p lo.toNat ≤ 256) ∧
    (∃ (s : State) (h : Header) (part : Byte) (lo : Half) (hi : Half) (p : Fin 32), Turn s ∧ part.toNat = p.val ∧ 4 ≤ lo.toNat ∧
      lo.toNat ≤ hi.toNat ∧ hi.toNat ≤ 256 ∧ (s.atTurn h).sumMin p lo.toNat ≤ 256 ∧ (s.atTurn h).keys.slots[p].present = true) ∧
    (∃ (s : State) (h : Header) (part : Byte) (lo : Half) (hi : Half) (p : Fin 32), Turn s ∧ part.toNat = p.val ∧ 4 ≤ lo.toNat ∧
      lo.toNat ≤ hi.toNat ∧ hi.toNat ≤ 256 ∧ (s.atTurn h).sumMin p lo.toNat ≤ 256 ∧
      (s.atTurn h).keys.slots[p].present = false) := by
  refine ⟨⟨W.turn, W.hd, 4, 2, [5, 0x30], 4, ?_⟩,
    ⟨(W17.own5 W.turn), W.hd, 4, 2, [5, 0x30], 50, 4, ?_⟩,
    ⟨(W17.own5 W.turn), W.hd, 4, 2, [5, 0x30], 4, ?_⟩,
    ⟨W.turn, W.hd, 5, 20, ?_⟩,
    ⟨W.turn, W17.hc, W17.key, 2, ?_⟩,
    ⟨W.turn, W.hd, 3, 3, ?_⟩,
    ⟨W.turn, W.hd, 3, 3, ?_⟩,
    ⟨W.turn, W.hd, 3, 5, 50, 3, ?_⟩,
    ⟨(W17.slot2 W.turn), W.hd, 3, 5, 50, 3, ?_⟩,
    ⟨W.turn, W.hd, 3, 5, 50, 3, ?_⟩⟩ <;> ((try simp only [Turn]) <;> (try simp only [← List.all_eq_true]) <;> decide +kernel)

/-- The check value of a new key under the writer's own (clause 5 of `PartitionCommandsComplete`). -/
theorem hypotheses_PartitionCommandsComplete_wrapped :
    ∃ (s : State) (h : Header) (target : Byte) (wrapped : List Byte) (kcv : Word) (p : Fin 32) (g : Half) (k : List Byte),
      Turn s ∧ target.toNat = p.val ∧ (s.atTurn h).currentKey h.part = some (g, k) ∧
      keyKcv (xorBytes wrapped (hmac k (ascii "ZKW1" ++ [target] ++ le 4 h.cmdId))) = kcv ∧
      (s.atTurn h).keys.jobs = [] ∧ (s.atTurn h).keys.slots[p].gens.length < 4 :=
  ⟨W17.slot0 W.turn, W.hd, 31, W17.wrapped, _, 31, 2, W17.key, ⟨rfl, rfl⟩, rfl, by decide +kernel, rfl, by decide +kernel,
    by decide +kernel⟩

namespace W18
open W
def C (f : Can → Can) : State := { hw with can := f { hw.can with enNow := true, en := true }, node := { hw.node with valid := true, addr := 0x0105 } }
def cp : CanPart := { id := canId 2 5 1, index := 3, bytes := [1,2,3] }
def cq : CanPacket := { id := 7, raw := false, bytes := List.replicate 50 3 }
def hb : Header := { W.hd with dest := 0xFFFF }
end W18

/-- States that meet the hypotheses of `CanCompletes`, clause by clause. -/
theorem hypotheses_CanCompletes :
    (∃ (s : State) (id : BitVec 11) (hd : Byte) (bs : List Byte), s.canOn = true ∧ s.can.dup = false ∧ bits id 8 3 = 2 ∧
      ((bits id 2 6 = 0x3F ∨ s.ownGa id = true)) ∧ testBit hd 7 = true ∧ testBit hd 6 = true) ∧
    (∃ (s : State) (id : BitVec 11) (hd : Byte) (bs : List Byte) (x : CanPart), s.canOn = true ∧ s.can.dup = false ∧ bits id 8 3 = 2 ∧
      s.ownGa id = true ∧ testBit hd 7 = false ∧ testBit hd 6 = false ∧ s.can.rx = [x] ∧ x.id = id) ∧
    (∃ (s : State) (x : CanPart), s.kpr = true ∧ s.can.rx = [x]) ∧
    (∃ (s : State) (p : CanPacket), s.canOn = true ∧ s.can.dup = false ∧ s.can.alone = false ∧ s.can.txq = [p] ∧ s.can.waiting = [] ∧
      p.frames ≤ s.can.frame + 1) ∧
    (∃ (s : State), s.canOn = true ∧ s.canHead.isSome = true) ∧
    (∃ (s : State) (ack : Bool), s.canOn = true ∧ s.can.alone = true ∧ s.can.tec < 248) ∧
    (∃ (s : State) (n : Nat), s.canOn = true ∧ s.can.recErr ≤ 127 ∧ 127 < s.can.recErr + n) ∧
    (∃ (s : State), s.canOn = true ∧ ((s.canHead.isSome = true ∨ s.can.alone = true)) ∧ 248 ≤ s.can.tec) ∧
    (∃ (s : State), s.canOn = true ∧ s.canHead.isSome = true ∧ s.can.retryMax.toNat ≤ s.can.attempts ∧ (∀ p : Fin 32,
      s.log.subs[p].en = false)) ∧
    (∃ (s : State), s.canOn = true ∧ s.can.alone = true) ∧
    (∃ (s : State), s.canOn = true ∧ s.can.dup = true ∧ s.can.txq = []) ∧
    (∃ (s : State), s.kpr = true ∧ s.can.busOff = true) ∧
    (∃ (s : State), s.kpr = true) ∧
    (∃ (s : State) (v : Word), s.hw = true ∧ testBit v 0 = true) ∧
    (∃ (s : State) (h : Header), Turn s ∧ h.dest ≠ 0xFFFF) ∧
    (∃ (s : State) (h : Header) (p : Fin 4), s.kpr = true ∧ s.resuming = false ∧ s.fw.recovery = false ∧ h.path = .link p ∧
      s.mustWait h = false ∧ h.dest = 0xFFFF ∧ h.poisoned = false ∧ wellSized h [] = true ∧ h.flags = 0 ∧
      s.part.quota[h.part].auth = false ∧ s.node.valid = false) ∧
    (∃ (s : State) (p : Fin 4) (ps : List (List Byte)) (n : Nat), s.kpr = true ∧ s.can.delayed = [(.link p, ps, n)]) := by
  refine ⟨⟨(W18.C id), (canId 2 5 1), 0xC0, (List.replicate 30 0), ?_⟩,
    ⟨(W18.C fun c => { c with rx := [W18.cp] }), (canId 2 5 1), 0x04, [7,8], W18.cp, ?_⟩,
    ⟨(W18.C fun c => { c with rx := [W18.cp] }), W18.cp, ?_⟩,
    ⟨(W18.C fun c => { c with txq := [W18.cq] }), W18.cq, ?_⟩,
    ⟨(W18.C fun c => { c with txq := [W18.cq] }), ?_⟩,
    ⟨(W18.C fun c => { c with alone := true, tec := 247 }), false, ?_⟩,
    ⟨(W18.C fun c => { c with recErr := 120 }), 8, ?_⟩,
    ⟨(W18.C fun c => { c with txq := [W18.cq], tec := 250 }), ?_⟩,
    ⟨(W18.C fun c => { c with txq := [W18.cq], attempts := 64 }), ?_⟩,
    ⟨(W18.C fun c => { c with alone := true }), ?_⟩,
    ⟨(W18.C fun c => { c with dup := true }), ?_⟩,
    ⟨(W18.C fun c => { c with busOff := true }), ?_⟩,
    ⟨(W18.C id), ?_⟩,
    ⟨(W18.C id), 1, ?_⟩,
    ⟨W.turn, W.hd, ?_⟩,
    ⟨W.hw, W18.hb, 0, ?_⟩,
    ⟨(W18.C fun c => { c with delayed := [(.link 0, [[5]], 3)] }), 0, [[5]], 3, ?_⟩⟩ <;> ((try simp only [Turn]) <;> decide +kernel)

/-- A SYSTEM frame of another die: of two different DIE_IDs one is not this module's (clause 3 of `CanCompletes`). -/
theorem hypotheses_CanCompletes_die :
    ∃ (s : State) (id : BitVec 11) (bs : List Byte), s.canOn = true ∧ s.can.dup = false ∧ bits id 8 3 = 5 ∧ s.ownGa id = true ∧
      bs.length = 24 ∧ rd 49 bs 8 8 ≠ Config.dieId := by
  by_cases h : (1 : BitVec 49) = Config.dieId
  · refine ⟨W18.C id, canId 5 5 0, List.replicate 24 0, by decide +kernel, by decide +kernel, by decide +kernel, by decide +kernel,
    rfl, ?_⟩
    rw [← h]; decide +kernel
  · refine ⟨W18.C id, canId 5 5 0, List.replicate 8 0 ++ [1] ++ List.replicate 15 0, by decide +kernel, by decide +kernel,
    by decide +kernel,
      by decide +kernel, rfl, ?_⟩
    rw [show rd 49 (List.replicate 8 0 ++ [1] ++ List.replicate 15 0) 8 8 = (1 : BitVec 49) by decide +kernel]; exact h

namespace W19
open W
def fwh : List Byte := le 4 (0x5A4B4657 : Word) ++ le 2 (1 : Half) ++ le 2 (256 : Half) ++ le 4 (0x5A546432 : Word) ++ [0, 0, 0, 0] ++ le 4 (0 : Word) ++ le 4 (0 : Word) ++ le 4 (512 : Word) ++ List.replicate 228 0
def F (f : Fw → Fw) (s : State) : State := s.onFw f
def wr (x : FwSlot) : FwSlot := { x with state := .writing, header := fwh, body := [], factory := false }
def fac (x : FwSlot) : FwSlot := { x with factory := true, state := .verified }
def S1 (f : FwSlot → FwSlot) (s : State) : State := s.onFwSlot 1 f
end W19

/-- States that meet the hypotheses of `FirmwareCompletes`, clause by clause. -/
theorem hypotheses_FirmwareCompletes :
    (∃ (s : State) (c : CmdRef) (k : Fin 2) (h : List Byte), s.kpr = true ∧ s.fw.erasing = [(c, k, h)] ∧ s.pwr.nvwDefer = false ∧
      s.armedOn 0x1C1 (BitVec.ofNat 8 k.val) = none ∧ s.fw.slots[k].worn = false ∧ (∀ b : Fin 64,
      s.fw.slots[k].erases[b] < 99999)) ∧
    (∃ (s : State) (c : CmdRef) (k : Fin 2) (h : List Byte), s.kpr = true ∧ s.fw.erasing = [(c, k, h)] ∧ s.pwr.nvwDefer = false ∧
      s.fw.slots[k].worn = false) ∧
    (∃ (s : State) (c : CmdRef) (k : Fin 2), s.kpr = true ∧ s.fw.verifying = [(c, k)] ∧ s.pwr.nvwDefer = false ∧
      s.fw.slots[k].check s.fw.floor = none) ∧
    (∃ (s : State) (c : CmdRef) (k : Fin 2), s.kpr = true ∧ s.fw.verifying = [(c, k)] ∧ s.pwr.nvwDefer = false ∧
      s.fw.slots[k].check s.fw.floor ≠ none) ∧
    (∃ (s : State), s.kpr = true ∧ s.fw.trial = true ∧ s.pwr.nvwDefer = false ∧ s.fw.confirmLeft ≠ 0) ∧
    (∃ (s : State) (c : CmdRef) (k : Fin 2) (gap : Bool), s.kpr = true ∧ s.fw.switching = some (c, k, gap) ∧ s.pwr.nvwDefer = false ∧
      ((gap = false ∨ s.gapOpens = true)) ∧ s.fw.slots[k].boots s.fw.floor = true) ∧
    (∃ (s : State), s.kpr = true ∧ s.fw.trial = true ∧ s.fw.confirmLeft = 0 ∧ s.pwr.nvwDefer = false ∧
      s.fw.slots[otherSlot s.fw.active].boots s.fw.floor = true) ∧
    (∃ (s : State), s.pwr.phase = .booting ∧ s.fw.trial = true ∧ s.fw.slots[otherSlot s.fw.active].boots s.fw.floor = true) ∧
    (∃ (s : State) (h : Header), Turn s) ∧
    (∃ (s : State) (h : Header) (slot : Byte) (header : List Byte) (k : Fin 2), Turn s ∧ slot.toNat = k.val ∧ k ≠ s.fw.active ∧
      s.fw.trial = false ∧ s.fw.slots[k].worn = false) ∧
    (∃ (s : State) (h : Header) (slot : Byte) (header : List Byte) (k : Fin 2), Turn s ∧ slot.toNat = k.val ∧ k ≠ s.fw.active ∧
      s.fw.trial = false ∧ s.fw.slots[k].worn = false ∧ fwFormOk header = false) ∧
    (∃ (s : State) (h : Header) (slot : Byte) (offset : Word) (count : Half) (data : List Byte) (k : Fin 2), Turn s ∧
      slot.toNat = k.val ∧ s.fw.slots[k].state = .writing ∧ s.fw.erasing = [] ∧ offset.toNat = s.fw.slots[k].length ∧
      s.fw.slots[k].length + data.length ≤ fwLen s.fw.slots[k].header ∧ s.fw.slots[k].factory = false ∧ s.fw.slots[k].header ≠ [] ∧
      s.fw.slots[k].worn = false ∧ s.armedOn 0x1C1 slot = none) ∧
    (∃ (s : State) (h : Header) (slot : Byte) (k : Fin 2), Turn s ∧ slot.toNat = k.val) ∧
    (∃ (s : State) (h : Header) (slot : Byte) (mode : Byte) (k : Fin 2), Turn s ∧ slot.toNat = k.val ∧ mode.toNat ≤ 1 ∧
      s.fw.trial = false ∧ s.fw.switching = none ∧ k ≠ s.fw.active ∧ s.fw.slots[k].state = .verified ∧
      ((mode = 1 ∨ s.clk.gapSrc ≠ 0))) ∧
    (∃ (s : State) (h : Header), Turn s ∧ s.fw.trial = true) := by
  refine ⟨⟨(W19.F (fun x => { x with erasing := [(⟨0,7⟩, 1, W19.fwh)] }) W.hw), ⟨0,7⟩, 1, W19.fwh, ?_⟩,
    ⟨(W19.F (fun x => { x with erasing := [(⟨0,7⟩, 1, W19.fwh)] }) W.hw), ⟨0,7⟩, 1, W19.fwh, ?_⟩,
    ⟨(W19.S1 W19.fac (W19.F (fun x => { x with verifying := [(⟨0,7⟩, 1)] }) W.hw)), ⟨0,7⟩, 1, ?_⟩,
    ⟨(W19.S1 (fun x => { W19.wr x with header := [5] }) (W19.F (fun x => { x with verifying := [(⟨0,7⟩, 1)] }) W.hw)), ⟨0,7⟩, 1,
      ?_⟩,
    ⟨(W19.F (fun x => { x with trial := true, confirmLeft := 5 }) W.hw), ?_⟩,
    ⟨(W19.S1 W19.fac (W19.F (fun x => { x with switching := some (⟨0,7⟩, 1, false) }) W.hw)), ⟨0,7⟩, 1, false, ?_⟩,
    ⟨(W19.S1 W19.fac (W19.F (fun x => { x with trial := true }) W.hw)), ?_⟩,
    ⟨(W19.S1 W19.fac (W19.F (fun x => { x with trial := true }) State.reset)), ?_⟩,
    ⟨W.turn, W.hd, ?_⟩,
    ⟨W.turn, W.hd, 1, W19.fwh, 1, ?_⟩,
    ⟨W.turn, W.hd, 1, [5], 1, ?_⟩,
    ⟨(W19.S1 W19.wr W.turn), W.hd, 1, 256, 16, (List.replicate 16 7), 1, ?_⟩,
    ⟨W.turn, W.hd, 1, 1, ?_⟩,
    ⟨(W19.S1 W19.fac W.turn), W.hd, 1, 1, 1, ?_⟩,
    ⟨(W19.F (fun x => { x with trial := true }) W.turn), W.hd, ?_⟩⟩ <;> ((try simp only [Turn]) <;> decide +kernel)

namespace W20
open W
def arm : Armed := { det := 0x181, unit := 2, arg := 0, cmd := ⟨0, 5⟩, left := 1 }
def I (f : Inj → Inj) (s : State) : State := { s with inj := f s.inj }
end W20

/-- States that meet the hypotheses of `InjectionCompletes`, clause by clause. -/
theorem hypotheses_InjectionCompletes :
    (∃ (s : State) (j : Fin 16) (a : Armed), s.serves = true ∧ s.inj.armed[j] = some a) ∧
    (∃ (s : State), s.serves = true ∧ s.inj.enable = true) ∧
    (∃ (s : State), s.hw = true ∧ s.pwr.warn = true ∧ s.inj.held = [0x082] ∧ s.pwr.dieT.toInt < warnClear) ∧
    (∃ (s : State), s.hw = true ∧ s.pwr.nvwDefer = true ∧ s.inj.held = [0x083] ∧ s.pwr.dieT.toInt < barClear) ∧
    (∃ (s : State) (h : Header), Turn s) ∧
    (∃ (s : State) (h : Header) (duration : Half), Turn s ∧ 1 ≤ duration.toNat ∧ duration.toNat ≤ 3600) ∧
    (∃ (s : State) (h : Header) (duration : Half), Turn s ∧ s.inj.enable = true) ∧
    (∃ (s : State) (h : Header) (det : Half) (unit : Byte) (arg : Word) (timeout : Half) (j : Fin 16), Turn s ∧ s.inj.enable = true ∧
      detUnitOk det.toNat unit.toNat = true ∧ detArgOk det.toNat arg = true ∧ det ≠ 0x200 ∧ 1 ≤ timeout.toNat ∧
      timeout.toNat ≤ 60000 ∧ ((s.atTurn h).armedOn (det.setWidth 10) unit) = none ∧
      ((List.finRange 16).find? fun j => (s.atTurn h).inj.armed[j].isNone) = some j) ∧
    (∃ (s : State) (h : Header) (arg : Word) (timeout : Half), Turn s ∧ s.inj.enable = true ∧ 1 ≤ timeout.toNat ∧
      timeout.toNat ≤ 60000 ∧ (s.atTurn h).armedOn 0x200 0 = none ∧ s.inj.count < 16) := by
  refine ⟨⟨(W20.I (fun x => { x with enable := true, armed := x.armed.set 3 (some W20.arm) }) W.hw), 3, W20.arm, ?_⟩,
    ⟨(W20.I (fun x => { x with enable := true, armed := x.armed.set 3 (some W20.arm) }) W.hw), ?_⟩,
    ⟨(let s := W20.I (fun x => { x with held := [0x082] }) W.hw; { s with pwr := { s.pwr with warn := true } }), ?_⟩,
    ⟨(let s := W20.I (fun x => { x with held := [0x083] }) W.hw; { s with pwr := { s.pwr with nvwDefer := true } }), ?_⟩,
    ⟨W.turn, W.hd, ?_⟩,
    ⟨W.turn, W.hd, 9, ?_⟩,
    ⟨(W20.I (fun x => { x with enable := true }) W.turn), W.hd, 0, ?_⟩,
    ⟨(W20.I (fun x => { x with enable := true }) W.turn), W.hd, 0x181, 2, 0, 9, 0, ?_⟩,
    ⟨(W20.I (fun x => { x with enable := true }) W.turn), W.hd, 0, 9, ?_⟩⟩ <;> ((try simp only [Turn]) <;> decide +kernel)

/-- The bytes of a PING of partition 0 without data. -/
def W90.ping : List Byte := packetOf W.hd 0 []
def W90.entry : Entry :=
  { part := 0, id := 7, op := 0, params := [], flags := 0, src := 0x0202, path := .link 0, epoch := 0, keyGen := 0, codes := []
    durable := false, long := false, started := false, result := some (done []), released := false, used := 0, seg := 0,
      size := 64 }
def W90.waits : State := { W.hw with
  unstarted := [(⟨0, 7⟩, .ping W.hd [])], ldg := { W.hw.ldg with entries := [{ W90.entry with result := none }] } }
def W90.here : State := { W.hw with node := { W.hw.node with addr := 0x0101, valid := true } }

theorem hypotheses_EmptyQueueDoesOwnWork :
    (∃ (s : State) (path : Sys2Proof.Path) (bs : List Byte) (poisoned : Bool) (rest : List (Sys2Proof.Path × List Byte × Bool)) (i : Instr),
      s.pending = [] ∧ s.serves = true ∧ s.keeperIn = (path, bs, poisoned) :: rest ∧ 20 ≤ bs.length ∧
      parse (openPacket path poisoned bs).1 (openPacket path poisoned bs).2.1 (openPacket path poisoned bs).2.2 = .command i) ∧
    (∃ (s : State) (c : CmdRef) (i : Instr), s.pending = [] ∧ s.serves = true ∧ s.keeperIn = [] ∧ s.nextStart = some (c, i)) ∧
    (∃ s : State, s.pending = [] ∧ s.hw = true ∧ (s.kpr = false ∨ s.keeperIn = [] ∧ s.nextStart = none)) ∧
    (∃ s : State, s.pending = [] ∧ s.hw = false) := by
  refine ⟨⟨{ W.hw with keeperIn := [(.link 0, W90.ping, false)] }, .link 0, W90.ping, false, [], .ping W.hd [], ?_⟩,
    ⟨W90.waits, ⟨0, 7⟩, .ping W.hd [], ?_⟩, ⟨W.hw, ?_⟩, ⟨{ W.hw with pwr := { W.hw.pwr with phase := .off } },
      ?_⟩⟩ <;> decide +kernel

theorem hypotheses_EveryAddressNamesItsTarget :
    (∃ r : Reg, r.exists = true) ∧ (∃ (addr : Nat) (x : Target), targetAt addr = some x) :=
  ⟨⟨.lin (.stage 0x737), by decide +kernel⟩, 0x147FFC, .window 17 3 1023, by decide +kernel⟩

theorem hypotheses_UnmappedAccessChangesNothing :
    (∃ addr : Nat, (∀ r : Reg, r.exists = true → r.addr ≠ addr) ∧
      ∀ (d : Fin 18) (m : Fin 4) (k : BitVec 10), (Target.window d m k).addr ≠ addr) ∧
    (∃ (q : Fin 4) (o : Nat), q ≠ 0 ∧ 0x800 ≤ o ∧ o < 0x1000) := by
  refine ⟨⟨0x1002, fun r _ h => ?_, fun d m k h => ?_⟩, 3, 0xFFF, by decide, by decide, by decide⟩
  · have := r.addr_aligned; omega
  · have := Target.window_aligned d m k; omega

theorem hypotheses_WriteChecksRunInOrder :
    (∃ addr : Nat, targetAt addr = none) ∧
    (∃ (s : State) (p : Fin 32) (d : Fin 18) (m : Fin 4) (k : BitVec 10), targetAt 0x100000 = some (.window d m k) ∧
      s.owns p (0x10 + d.val) = false) ∧
    (∃ (s : State) (p : Fin 32) (v : Word) (r : Reg) (a : Access), targetAt r.addr = some (.reg r) ∧ a = r.access p (s.unstage p) ∧
      a.writable = false) ∧
    (∃ (s : State) (p : Fin 32) (v : Word) (r : Reg) (a : Access), targetAt r.addr = some (.reg r) ∧ a = r.access p (s.unstage p) ∧
      a.writable = true ∧ a.who v = false) ∧
    (∃ (s u : State) (p : Fin 32) (v : Word) (r : Reg) (a : Access), targetAt r.addr = some (.reg r) ∧
      a = r.access p (s.unstage p) ∧
      u = (a.doms v).foldl State.auditDom (s.unstage p) ∧ a.writable = true ∧ a.who v = true ∧ (a.doms v).any u.isSuspect = true) ∧
    (∃ (s u : State) (p : Fin 32) (v : Word) (r : Reg) (a : Access), targetAt r.addr = some (.reg r) ∧
      a = r.access p (s.unstage p) ∧
      u = (a.doms v).foldl State.auditDom (s.unstage p) ∧ a.writable = true ∧ a.who v = true ∧
      (a.doms v).any u.isSuspect = false ∧ a.range v = false) ∧
    (∃ (s u : State) (p : Fin 32) (v : Word) (r : Reg) (a : Access), targetAt r.addr = some (.reg r) ∧
      a = r.access p (s.unstage p) ∧
      u = (a.doms v).foldl State.auditDom (s.unstage p) ∧ a.writable = true ∧ a.who v = true ∧
      (a.doms v).any u.isSuspect = false ∧ a.range v = true) := by
  refine ⟨⟨0x1002, ?_⟩, ⟨W.hw, 1, 0, 0, 0, ?_⟩, ⟨W.hw, 31, 0, .clk .status, _, ?_, rfl, ?_⟩, ⟨W.hw, 31, 0, .clk .ctrl, _, ?_, rfl,
    ?_⟩,
    ⟨{ W.hw with pwr := { W.hw.pwr with suspect := 1 } }, _, 0, 0, .abay 0 (.cmpLo 0), _, ?_, rfl, rfl, ?_, ?_, ?_⟩,
    ⟨W.hw, _, 0, 7, .clk .gapCtrl, _, ?_, rfl, rfl, ?_, ?_, ?_, ?_⟩,
    ⟨W.hw, _, 0, 6, .clk .gapCtrl, _, ?_, rfl, rfl, ?_, ?_, ?_, ?_⟩⟩ <;> decide +kernel

theorem hypotheses_WideReadsAreConsistent :
    (∃ r : Reg, r.words ≠ []) ∧
    (∃ (s : State) (p : Fin 32) (r l : Reg) (k v : Nat), r.words = [] ∧ r.low = some (l, k) ∧ s.snapOf p l.addr = some v) ∧
    (∃ (s : State) (p : Fin 32) (r l : Reg) (k : Nat), r.words = [] ∧ r.low = some (l, k) ∧ s.snapOf p l.addr = none) ∧
    (∃ (i : Instr) (s t : State), exec i s = .next t ∧ s.kpr = true ∧ t.kpr = false ∧ t.pwr.phase ≠ .silent) ∧
    (∃ (i : Instr) (s t : State), exec i s = .next t ∧ s.pwr.phase = .silent ∧ t.kpr = false ∧ t.pwr.phase ≠ .silent) ∧
    (∃ (i : Instr) (s t : State), exec i s = .next t ∧ s.hw = true ∧ t.hw = false) := by
  refine ⟨⟨.clk .etLo, ?_⟩, ⟨{ W.hw with snaps := [{ part := 31, addr := 0x1010, value := 9 }] }, 31, .clk .etHi, .clk .etLo, 1, 9,
    ?_⟩,
    ⟨W.hw, 31, .clk .etHi, .clk .etLo, 1, ?_⟩, ⟨.keeperWatchdogExpiry false, W.hw, _, rfl, ?_, ?_, ?_⟩,
    ⟨.keeperWatchdogExpiry false, { W.hw with pwr := { W.hw.pwr with phase := .silent } }, _, rfl, ?_, ?_, ?_⟩,
    ⟨.powerInputLoss false, W.hw, _, rfl, ?_, ?_⟩⟩ <;> decide +kernel

theorem hypotheses_StagedWordsEndWithTheNextWrite :
    (∃ (s : State) (p : Fin 32) (x : Fin 16), s.owns p (0x90 + x.val) = true ∧ s.timers[x].en = false) ∧
    (∃ (s : State) (p : Fin 32), s.owns p 0xC1 = true) ∧
    (∃ (i : Instr) (s t : State), exec i s = .next t ∧ s.kpr = true ∧ t.kpr = false ∧ t.pwr.phase ≠ .silent) := by
  refine ⟨⟨State.reset, 0, 15, ?_⟩, ⟨State.reset, 0, ?_⟩, ⟨.keeperWatchdogExpiry false, W.hw, _, rfl, ?_, ?_,
    ?_⟩⟩ <;> decide +kernel

theorem hypotheses_AWaitingPacketSpellsItsCommand :
    ∃ (i : Instr) (h : Header) (p : Fin 4) (s : State), header? i = some h ∧ h.path = .link p ∧ spellable i h = true ∧
      s.kpr = false ∧ s.hw = true := by
  refine ⟨.ping W.hd [1, 2], W.hd, 0, { W.hw with pwr := { W.hw.pwr with phase := .booting } }, ?_⟩ <;> decide +kernel

theorem hypotheses_ARetryChangesNothing :
    ∃ (i : Instr) (h : Header) (s t : State) (e : Entry), header? i = some h ∧ s.kpr = true ∧ s.resuming = false ∧
      s.mustWait h = false ∧ h.dest ≠ 0xFFFF ∧ s.entry (refOf h) = some e ∧ exec i s = .next t := by
  refine ⟨.ping W.hd [], W.hd, { W90.here with ldg := { W90.here.ldg with entries := [W90.entry] } }, _, W90.entry,
    ?_, ?_, ?_, ?_, ?_, ?_, rfl⟩ <;> decide +kernel

theorem hypotheses_ARejectedCommandHasNoEffect :
    ∃ (i : Instr) (h : Header) (s t : State), header? i = some h ∧ s.kpr = true ∧ s.resuming = false ∧ h.idemp = false ∧
      h.dest ≠ 0xFFFF ∧ s.ldg.accepted ≠ 0xFFFF ∧ exec i s = .next t ∧ t.ldg.accepted = s.ldg.accepted := by
  refine ⟨.ping W.hd [], W.hd, { W90.here with pwr := { W90.here.pwr with nvwDefer := true } }, _, ?_, ?_, ?_, ?_, ?_, ?_, rfl,
    ?_⟩ <;> decide +kernel

theorem hypotheses_AnAcceptedCommandIsJournalled :
    (∃ (i : Instr) (h : Header), header? i = some h) ∧
    (∃ (h : Header) (sp : OpSpec) (ps : List Byte) (s : State) (p : Fin 4), h.path = .link p ∧ s.kpr = true ∧ s.resuming = false ∧
      s.fw.recovery = false ∧ s.mustWait h = false ∧ s.node.valid = true ∧ h.dest = s.node.addr ∧ h.dest ≠ 0xFFFF ∧
      h.poisoned = false ∧ wellSized h ps = true ∧ s.part.quota[h.part].auth = false ∧ h.auth = false ∧
      s.entry (refOf h) = none ∧ carriedLe h.cmdId s.ldg.floors[h.part] = false ∧ sp.layout = true ∧ s.staleEpoch h = false ∧
      sp.allowed = true ∧ (h.idemp && sp.idem) = false ∧ sp.always = false ∧ s.pwr.nvwDefer = false ∧ s.noSlot h.part = false ∧
      s.ledgerFull = false ∧ s.charged + chargeBytes ≤ s.room ∧ s.ldg.entries.length < 4096 ∧
      s.openUsed + chargeBytes ≤ 4096) := by
  refine ⟨⟨.ping W.hd [], W.hd, ?_⟩, ⟨W.hd, { op := 0x60, long := true }, [], W90.here, 0, ?_⟩⟩ <;> decide +kernel

theorem hypotheses_EpochAdvancesWithTheTable :
    (∃ (s : State) (x : Change) (rest : List Change), s.serves = true ∧ s.part.changes = x :: rest ∧ s.mayWrite .table = true) ∧
    (∃ (i : Instr) (s t : State), exec i s = .next t) ∧
    (∃ (s : State) (h : Header) (sp : OpSpec), sp.layout = true ∧ s.staleEpoch h = true) := by
  refine ⟨⟨{ W.hw with part := { W.hw.part with changes := [.grant ⟨0, 7⟩ 31 [0x33F]] } }, .grant ⟨0, 7⟩ 31 [0x33F], [], ?_⟩,
    ⟨.vrefExtInRange, W.hw, _, rfl⟩, ⟨W.hw, { W.hd with epoch := 0x80000001 }, { op := 0 }, ?_⟩⟩ <;> decide +kernel

theorem hypotheses_SerialNumbersCompare :
    (∃ (s : State) (a b : Fin 32 × Request), s.arb.reqs[a.1].cls = s.arb.reqs[b.1].cls ∧ a.2.deadline ≠ b.2.deadline) ∧
    (∃ (s : State) (h : Header) (ps : List Byte), wellSized h ps = true ∧ s.part.quota[h.part].auth = false ∧ h.auth = false ∧
      h.dest ≠ 0xFFFF ∧ s.entry (refOf h) = none ∧ (s.ldg.floors[h.part] - h.cmdId).toNat ≤ 2 ^ 31) := by
  let q : Request := { deadline := 0, raised := 0, bytes := 8, xlen := 0, dest := 0, rsp := false, stamped := 1 }
  refine ⟨⟨State.reset, (0, q), (1, { q with deadline := 0x800000000000 }), ?_⟩, ⟨W.hw, { W.hd with cmdId := 0x80000000 }, [],
    ?_⟩⟩ <;>
    decide +kernel

theorem hypotheses_OnlyLoadsMoveEt : ∃ (i : Instr) (s t : State), exec i s = .next t ∧ i ≠ .syncBoundaryAction ∧ i ≠ .syncNowLoad ∧
    (s.hw = false → s.clk.et = 0) ∧ t.hw = s.hw :=
  ⟨.vrefExtInRange, W.hw, _, rfl, by decide +kernel, by decide +kernel, by decide +kernel, by decide +kernel⟩

theorem hypotheses_WordsReadBack : ∃ (s : State) (d e : Fin 18) (m n : Fin 4) (j k : Nat), j < 1024 ∧ k < 1024 ∧ Memory.wf s.mem = true ∧
    (e, n, j) ≠ (d, m, k) := by
  refine ⟨W.hw.setWord 17 3 1023 5, 17, 17, 3, 3, 1022, 1023, ?_⟩ <;> decide +kernel

theorem hypotheses_ASyncInFreewheelIsIgnored : ∃ s : State, s.hw = true ∧ s.clk.syncDue = true ∧ s.clk.syncCk < s.ck ∧
    s.clk.syncArmed = true ∧ s.clk.freewheel = true ∧ s.clk.syncNow ≠ [] := by
  refine ⟨{ W.clk (fun x => { x with syncDue := true, syncArmed := true, freewheel := true, syncNow := [⟨0, 7⟩] }) with ck := 9 },
    ?_⟩ <;> decide +kernel

theorem hypotheses_AResultIsSentInSegments : ∃ body : List Byte, body.length ≤ 1024 ∧ 492 < body.length :=
  ⟨List.replicate 493 0, by decide +kernel⟩

theorem hypotheses_NeutralResultIsSample : ∃ ref : BitVec 2, ref.toNat ≤ 2 := ⟨2, by decide⟩

/-- A command answers a next state: the hypothesis of every frame. -/
theorem hypotheses_of_frames : ∃ (i : Instr) (s t : State) (a : Nat), exec i s = .next t ∧ storesAt s a i = false :=
  ⟨.fifoPush 0 0 1 false, W.hw, _, 0x100004, rfl, by decide +kernel⟩

theorem reset_canonical : Canonical State.reset := by constructor <;> decide +kernel
theorem reset_bounded : Bounded State.reset := by constructor <;> decide +kernel

theorem hypotheses_StepKeepsInvariants : ∃ s t : State, Canonical s ∧ Bounded s ∧ step s = .next t :=
  ⟨State.reset, _, reset_canonical, reset_bounded, rfl⟩

/-! ### Small tests, with the specification's own numbers -/

/-- The state after a command. -/
def W.after (i : Instr) (s : State) : State := match exec i s with | .next t => t | _ => s

/-- Each size that a moment must have is checked. -/
theorem test_ill_formed_commands_are_refused :
    [Instr.pwrMeasureUpdate 0 0 [], .sashIdentityRead true [] [] false, .sashIdRetry true [] [], .biasRampStep [0, 0, 0],
      .trainingBlockReceived 0 [] 0 0, .segmentDelivery 0 [] 0, .flitArrival 0 [], .canFrameReceive (some (0,
      List.replicate 65 0)) 0,
      .arbCommit (List.replicate 129 0) 0 0].any
      Instr.wellFormed = false := by decide +kernel

/-- No row of the table has bits, so no word spells a command. -/
theorem test_no_word_spells_a_command : decodeTableWord 32 0 = none ∧ State.reset.withFetchWord 32 0 = State.reset := ⟨rfl, rfl⟩

/-- The straps of Example 2-1. -/
theorem test_straps_of_crate_2_slot_17 : strapAddr 0x11 0x02 = 0x0211 := by decide

/-- The addresses of Example 23-1. -/
theorem test_addresses_of_the_map :
    targetAt 0x22504 = some (.reg (.adc 5 .urg)) ∧ targetAt 0x43104 = some (.reg (.mem 3 (.levels 0))) ∧
      targetAt 0x10D008 = some (.window 3 1 2) ∧ targetAt 0x12810 = none ∧ targetAt 0x1040 = none := by decide +kernel

/-- The levelling of Example 13-1: FLIGHT 37.5 CK, SKEW -0.75 CK, DEPTH 19.25 CK. -/
theorem test_levelling :
    let l := Port.level { W.hw.ports[(2 : Fin 4)] with samples := List.replicate 16 4800, arrival := 2352, latTarget := 10 }
    l.flight = 2400 ∧ l.skew = -48 ∧ l.depth = 1232 ∧ l.ck = 19 := by decide +kernel

/-- The response identifier of Example 18-1. -/
theorem test_response_identifier : canId 1 0x11 1 = 0x145 := by decide

/-- The peak code of Example 7-1. -/
theorem test_scaled_peak : roundDiv (32767 * 6554) 32768 = 6554 := by decide

/-- The ledger of Example 16-1: the second arrival of an accepted pair runs nothing and is a repeat. -/
theorem test_a_retry_is_counted :
    let s : State := { W90.here with ldg := { W90.here.ldg with entries := [W90.entry] } }
    (W.after (.ping W.hd []) s).ldg.repeats = 1 ∧ (W.after (.ping W.hd []) s).ldg.entries.length = 1 ∧
      (W.after (.ping W.hd []) s).keeperOut.length = s.keeperOut.length + 1 := by decide +kernel

/-- A command for another node has no effect. -/
theorem test_another_nodes_packet : W.after (.ping { W.hd with dest := 0x0102 } []) W90.here = W90.here := by decide +kernel

/-- A value that is loaded loses its low three bits (R20, R21). -/
theorem test_a_load_is_aligned :
    (W.after .syncBoundaryAction { W.clk (fun x => { x with
      syncDue := true, syncArmed := true, freewheel := false,
      syncValue := 0x1234567F }) with ck := 9 }).clk.et = 0x12345678 := by decide +kernel

/-- A FIFO that is full counts an overflow and keeps its words (R187). -/
theorem test_fifo_overflow :
    let s := W10.mb fun b => { b with mode := 1, level := 1024 }
    (W.after (.fifoPush 5 1 7 false) s).dbays[(5 : Fin 18)].mems[(1 : Fin 4)].overflow = 1 ∧
      (W.after (.fifoPush 5 1 7 false) s).mem = [] := by decide +kernel

/-- A trip opens the switch and counts once. -/
theorem test_a_trip :
    let t := W.after (.monitorTrip 0 .oc true) (W.onA.onDom 0 fun d => { d with switchOpen := false })
    (t.dom 0).state = .tripped ∧ (t.dom 0).tripKind = 3 ∧ (t.dom 0).tripCount = 1 ∧
      testBit t.pwr.events 0 = true := by decide +kernel

/-- An unlisted address of the windows reads 0, and a store keeps the canonical form. -/
theorem test_memory_form :
    (W.hw.memWord 0 0 0 = 0) ∧ (W.hw.setWord 0 0 0 0).mem = [] ∧ Memory.wf (W.hw.setWord 17 3 1023 0x01020304).mem = true ∧
      (W.hw.setWord 17 3 1023 0x01020304).memWord 17 3 1023 = 0x01020304 := by decide +kernel

end
end

section
/-!
LAWS. What the operations of the model leave alone: the phase of the module, the snapshots and the staged words of the
partitions (R5, R6), the model's clock and the queue. One lemma per operation, chapter by chapter.
-/
namespace Sys2Proof.Machine

/-- What only a restart, a register access and the block's own cycle may move: the phase of the module, the snapshots and the
staged words of the partitions, the model's clock and the queue. -/
def State.anchor (s : State) : Phase × List Snap × List Snap × Nat × List Instr :=
  (s.pwr.phase, s.snaps, s.staged, s.ck, s.pending)

@[simp] theorem anchor_mk (clk node pwr sash abays xbar adcs timers tmrEvents groups vrefIn adcStarts wdacs wdacWaits cal dbays
    lin mem io prb cfg rep ports routes arb ldg log part keys can fw inj keeperIn keeperOut unstarted resuming taken snaps staged
    ck freeCtr acc pending) :
    State.anchor ⟨clk, node, pwr, sash, abays, xbar, adcs, timers, tmrEvents, groups, vrefIn, adcStarts, wdacs, wdacWaits, cal,
      dbays, lin, mem, io, prb, cfg, rep, ports, routes, arb, ldg, log, part, keys, can, fw, inj, keeperIn, keeperOut, unstarted,
      resuming, taken, snaps, staged, ck, freeCtr, acc, pending⟩ = (pwr.phase, snaps, staged, ck, pending) := by
  unfold State.anchor
  rfl

variable (s : State)

@[simp] theorem anchor_fold : (s.pwr.phase, s.snaps, s.staged, s.ck, s.pending) = s.anchor := by
  unfold State.anchor
  rfl

@[simp] theorem anchor_ite (c : Prop) [Decidable c] (t : State) :
    (if c then s else t).anchor = if c then s.anchor else t.anchor :=
  apply_ite State.anchor c s t

theorem anchor_of_still {t : State} (h : t.still = s.still) : t.anchor = s.anchor := by
  have e (u : State) : u.anchor = u.still.anchor := rfl
  rw [e t, h, ← e]

theorem anchor_of_calm {t : State} (h : t.calm = s.calm) : t.anchor = s.anchor := by
  have e (u : State) : u.anchor = u.calm.anchor := rfl
  rw [e t, h, ← e]

/-- A fold keeps what each of its steps keeps of its result. -/
theorem foldl_keeps {α β γ : Type} (g : β → γ) (f : β → α → β) (h : ∀ b a, g (f b a) = g b) (xs : List α) (b : β) :
    g (xs.foldl f b) = g b := by
  induction xs generalizing b with
  | nil => rfl
  | cons x xs ih => simp only [List.foldl_cons, ih, h]

@[simp] theorem foldl_anchor {α : Type} (f : State → α → State) (h : ∀ s x, (f s x).anchor = s.anchor) (xs : List α) :
    (xs.foldl f s).anchor = s.anchor := foldl_keeps State.anchor f h xs s

@[simp] theorem each_anchor {α : Type} (f : State → α → State) (h : ∀ s x, (f s x).anchor = s.anchor) (xs : List α) :
    (s.each xs f).anchor = s.anchor := each_keeps s State.anchor f h xs

@[simp] theorem onLatch_anchor (b i f) : (s.onLatch b i f).anchor = s.anchor := by
  unfold State.onLatch
  (repeat' split) <;> rfl

/-! #### Operations on the state -/

@[simp] theorem drawFlash_anchor : s.drawFlash.2.anchor = s.anchor := by simp [State.drawFlash]
@[simp] theorem endWrite_anchor (w) : (s.endWrite w).anchor = s.anchor := by simp [State.endWrite]
@[simp] theorem eraseOldKeys_anchor : s.eraseOldKeys.anchor = s.anchor := anchor_of_still s (eraseOldKeys_still s)
@[simp] theorem lease_anchor (p g c) : (s.lease p g c).anchor = s.anchor := anchor_of_still s (lease_still s _ _ _)
@[simp] theorem sendOn_anchor (path packets) : (s.sendOn path packets).anchor = s.anchor :=
    anchor_of_still s (sendOn_still s _ _)
@[simp] theorem logRec_anchor (r args) : (s.logRec r args).2.anchor = s.anchor := anchor_of_still s (logRec_still s _ _)
@[simp] theorem raise_anchor (o) : (s.raise o).anchor = s.anchor :=
    (anchor_of_still _ (raise_still s o)).trans (onLatch_anchor s _ _ _)
@[simp] theorem onSeg_anchor (i f) : (s.onSeg i f).anchor = s.anchor := anchor_of_still s (onSeg_still s _ _)
@[simp] theorem supersede_anchor (i) : (s.supersede i).anchor = s.anchor := anchor_of_still s (supersede_still s _)
@[simp] theorem recordSize_anchor (n) : (s.recordSize n).2.anchor = s.anchor := anchor_of_still s (recordSize_still s _)
@[simp] theorem watchLedger_anchor : s.watchLedger.anchor = s.anchor := anchor_of_still s (watchLedger_still s)
@[simp] theorem evict_anchor (e) : (s.evict e).anchor = s.anchor := by simp [State.evict]
@[simp] theorem append_anchor (n) : (s.append n).2.anchor = s.anchor := anchor_of_still s (append_still s _)
@[simp] theorem respondTo_anchor (path src part op id epoch auth gen final jnl r) :
    (s.respondTo path src part op id epoch auth gen final jnl r).anchor = s.anchor :=
    anchor_of_still s (respondTo_still s _ _ _ _ _ _ _ _ _ _ _)
@[simp] theorem countDet_anchor (det injected) : (s.countDet det injected).anchor = s.anchor :=
    anchor_of_still s (countDet_still s _ _)
@[simp] theorem consume_anchor (j a real) : (s.consume j a real).anchor = s.anchor :=
    anchor_of_still s (consume_still s _ _ _)
@[simp] theorem check_anchor (det unit real ok) : (s.check det unit real ok).2.2.anchor = s.anchor :=
    anchor_of_still s (check_still s _ _ _ _)
@[simp] theorem carry_anchor (mark injected) : (s.carry mark injected).anchor = s.anchor :=
    anchor_of_still s (carry_still s _ _)
@[simp] theorem normal_anchor (mark) : (s.normal mark).anchor = s.anchor := anchor_of_still s (normal_still s _)
@[simp] theorem retireSeg_anchor (x injected) : (s.retireSeg x injected).anchor = s.anchor :=
    anchor_of_still s (retireSeg_still s _ _)
@[simp] theorem verifyLedger_anchor : s.verifyLedger.anchor = s.anchor := anchor_of_still s (verifyLedger_still s)
@[simp] theorem raiseCeiling_anchor (src) : (s.raiseCeiling src).anchor = s.anchor := by
  unfold State.raiseCeiling
  simp only
  split
  · rfl
  · split
    · next h => simpa using congrArg (fun x => x.2.anchor) h.symm
    · next h =>
      have ha := congrArg (fun x => x.2.anchor) h
      simp only [append_anchor, recordSize_anchor] at ha
      split <;> simp [← ha]
@[simp] theorem raiseCeilings_anchor : s.raiseCeilings.anchor = s.anchor := by simp [State.raiseCeilings]
@[simp] theorem skipRseq_anchor (k n) : (s.skipRseq k n).anchor = s.anchor := by simp [State.skipRseq]
@[simp] theorem finish_anchor (c r) : (s.finish c r).anchor = s.anchor := anchor_of_still s (finish_still s _ _)
@[simp] theorem settleServed_anchor : s.settleServed.anchor = s.anchor := by
  unfold State.settleServed
  refine (foldl_anchor _ _ (fun s x => ?_) _).trans (by simp)
  split <;> simp
@[simp] theorem auditDom_anchor (i) : (s.auditDom i).anchor = s.anchor := anchor_of_calm s (auditDom_calm s i)
@[simp] theorem auditCodes_anchor (codes) : (s.auditCodes codes).anchor = s.anchor :=
    anchor_of_calm s (auditCodes_calm s codes)
@[simp] theorem finishAll_anchor (cs r) : (s.finishAll cs r).anchor = s.anchor := anchor_of_still s (finishAll_still s _ _)

/-! #### The command pipeline and its books -/

@[simp] theorem answer_anchor (h op epoch final jnl r) : (s.answer h op epoch final jnl r).anchor = s.anchor :=
    anchor_of_still s (answer_still s _ _ _ _ _ _)
@[simp] theorem reject_anchor (h op status body) : (s.reject h op status body).anchor = s.anchor :=
    anchor_of_still s (reject_still s _ _ _ _)
@[simp] theorem interim_anchor (c r) : (s.interim c r).anchor = s.anchor := anchor_of_still s (interim_still s _ _)
@[simp] theorem badMac_anchor (p injected) : (s.badMac p injected).anchor = s.anchor := by simp [State.badMac]
@[simp] theorem retry_anchor (h op params e) : (s.retry h op params e).anchor = s.anchor := by
  unfold State.retry
  (repeat' split) <;> simp
@[simp] theorem auditFor_anchor (c) : (s.auditFor c).anchor = s.anchor := by
  unfold State.auditFor
  split <;> simp
@[simp] theorem begun_anchor (c) : (s.begun c).anchor = s.anchor := by simp [State.begun]

/-! #### Register accesses -/

@[simp] theorem abandonUnit_anchor (u) : (s.abandonUnit u).anchor = s.anchor := by
  unfold State.abandonUnit
  refine each_anchor s _ (fun s j => ?_) _
  (repeat' split) <;> simp

/-! #### The spine of every cycle -/

@[simp] theorem nextHolder_anchor : s.nextHolder.anchor = s.anchor := by simp [State.nextHolder]
@[simp] theorem lastBeatOf_anchor (k committed) : (s.lastBeatOf k committed).anchor = s.anchor := by simp [State.lastBeatOf]
@[simp] theorem dropTransfer_anchor (h) : (s.dropTransfer h).anchor = s.anchor := by simp [State.dropTransfer]
@[simp] theorem tear_anchor (h cause injected) : (s.tear h cause injected).anchor = s.anchor := by simp [State.tear]
@[simp] theorem tearNext_anchor (h cause) : (s.tearNext h cause).anchor = s.anchor := by simp [State.tearNext]
@[simp] theorem jumpEt_anchor (d) : (s.jumpEt d).anchor = s.anchor := by simp [State.jumpEt]
@[simp] theorem raiseAt_anchor (et o) : (s.raiseAt et o).anchor = s.anchor := by simp [State.raiseAt]
@[simp] theorem checkLate_anchor (h lead) : (s.checkLate h lead).anchor = s.anchor := by simp [State.checkLate]
@[simp] theorem cutOff_anchor (k cause) : (s.cutOff k cause).anchor = s.anchor := by
  simp only [State.cutOff]
  (repeat' split) <;> simp
@[simp] theorem dropMasked_anchor : s.dropMasked.anchor = s.anchor := by simp [State.dropMasked]

/-! #### Analogue -/

@[simp] theorem displaceSums_anchor (before) : (s.displaceSums before).anchor = s.anchor := by
  unfold State.displaceSums
  refine each_anchor s _ (fun s n => ?_) _
  (repeat' split) <;> simp
@[simp] theorem terminate_anchor : s.terminate.anchor = s.anchor := by simp [State.terminate]
@[simp] theorem maskBay_anchor (a) : (s.maskBay a).anchor = s.anchor := by simp [State.maskBay]
@[simp] theorem applyXbar_anchor : s.applyXbar.anchor = s.anchor := by simp [State.applyXbar]
@[simp] theorem claimAsb_anchor (a k line cls) : (s.claimAsb a k line cls).anchor = s.anchor := by
  unfold State.claimAsb
  split <;> simp
@[simp] theorem loadThresholds_anchor (a) : (s.loadThresholds a).anchor = s.anchor := by simp [State.loadThresholds]

/-! #### Converters -/

@[simp] theorem startMiss_anchor (n) : (s.startMiss n).anchor = s.anchor := by simp [State.startMiss]
@[simp] theorem adcBegin_anchor (n width) : (s.adcBegin n width).anchor = s.anchor := by
  unfold State.adcBegin
  (repeat' split) <;> simp
@[simp] theorem adcSample_anchor (n raw) : (s.adcSample n raw).anchor = s.anchor := by simp [State.adcSample]
@[simp] theorem stream_anchor (a rec) : (s.stream a rec).anchor = s.anchor := by simp [State.stream]
@[simp] theorem enqueue_anchor (n rec) : (s.enqueue n rec).anchor = s.anchor := by simp [State.enqueue]
@[simp] theorem dequeue_anchor (n k) : (s.dequeue n k).anchor = s.anchor := by simp [State.dequeue]
@[simp] theorem deliver_anchor (n) : (s.deliver n).anchor = s.anchor := by
  unfold State.deliver
  split <;> simp
@[simp] theorem lendAdc_anchor (n cls) : (s.lendAdc n cls).anchor = s.anchor := by simp [State.lendAdc]
@[simp] theorem takeAdc_anchor (n cls) : (s.takeAdc n cls).2.anchor = s.anchor := by
  simp only [State.takeAdc]
  (repeat' split) <;> simp
@[simp] theorem giveAdc_anchor (n) : (s.giveAdc n).anchor = s.anchor := by simp [State.giveAdc]
@[simp] theorem adcsOn_anchor (a) : (s.adcsOn a).anchor = s.anchor := by
  unfold State.adcsOn
  refine each_anchor s _ (fun s n => ?_) _
  split <;> simp
@[simp] theorem adcsOff_anchor (a) : (s.adcsOff a).anchor = s.anchor := by
  unfold State.adcsOff
  refine each_anchor s _ (fun s n => ?_) _
  split <;> simp
@[simp] theorem setAdcCtrl_anchor (n v) : (s.setAdcCtrl n v).anchor = s.anchor := by simp [State.setAdcCtrl]
@[simp] theorem servedStart_anchor (n) : (s.servedStart n).anchor = s.anchor := by simp [State.servedStart]
@[simp] theorem sampleEntry_anchor (n w) : (s.sampleEntry n w).anchor = s.anchor := by simp [State.sampleEntry]
@[simp] theorem urgentSample_anchor (n raw) : (s.urgentSample n raw).anchor = s.anchor := by simp [State.urgentSample]
@[simp] theorem urgentRequest_anchor (n) : (s.urgentRequest n).anchor = s.anchor := by simp [State.urgentRequest]
@[simp] theorem runAdcStart_anchor (c mask) : (runAdcStart c mask s).1.anchor = s.anchor := by
  simp only [runAdcStart]
  (repeat' split) <;> simp
@[simp] theorem runAdcUrgent_anchor (adc) : (runAdcUrgent adc s).1.anchor = s.anchor := by
  simp only [runAdcUrgent]
  (repeat' split) <;> simp
@[simp] theorem runAdcPeek_anchor (adc count) : (runAdcPeek adc count s).1.anchor = s.anchor := by
  unfold runAdcPeek
  (repeat' split) <;> simp
@[simp] theorem runAdcPop_anchor (adc count tag) : (runAdcPop adc count tag s).1.anchor = s.anchor := by
  simp only [runAdcPop]
  (repeat' split) <;> simp
@[simp] theorem runAdcStatus_anchor (adc) : (runAdcStatus adc s).1.anchor = s.anchor := by
  unfold runAdcStatus
  split <;> simp
@[simp] theorem runAdcGroup_anchor (group mask src edge delay) :
    (runAdcGroup group mask src edge delay s).1.anchor = s.anchor := by
  simp only [runAdcGroup]
  (repeat' split) <;> simp
@[simp] theorem runTmrSet_anchor (timer mode period offset en) :
    (runTmrSet timer mode period offset en s).1.anchor = s.anchor := by
  simp only [runTmrSet]
  (repeat' split) <;> simp

/-! #### Waveform -/

@[simp] theorem wdacMiss_anchor (n) : (s.wdacMiss n).anchor = s.anchor := by simp [State.wdacMiss]
@[simp] theorem wdacArrive_anchor (n cmd) : (s.wdacArrive n cmd).anchor = s.anchor := by
  simp only [State.wdacArrive]
  (repeat' split) <;> simp
@[simp] theorem servedWdac_anchor (n stop) : (s.servedWdac n stop).anchor = s.anchor := by simp [State.servedWdac]
@[simp] theorem takeWdac_anchor (n cls) : (s.takeWdac n cls).2.anchor = s.anchor := by
  simp only [State.takeWdac]
  (repeat' split) <;> simp
@[simp] theorem giveWdac_anchor (n) : (s.giveWdac n).anchor = s.anchor := by
  unfold State.giveWdac
  split <;> simp
@[simp] theorem awaitTick_anchor (n j) : (s.awaitTick n j).anchor = s.anchor := by simp [State.awaitTick]
@[simp] theorem claimed_anchor (n j) : (s.claimed n j).anchor = s.anchor := by
  simp only [State.claimed]
  (repeat' split) <;> simp
@[simp] theorem runWdacQueueWrite_anchor (n samples) : (runWdacQueueWrite n samples s).1.anchor = s.anchor := by
  simp only [runWdacQueueWrite]
  (repeat' split) <;> simp
@[simp] theorem runWdacTableLoad_anchor (n addr entries) : (runWdacTableLoad n addr entries s).1.anchor = s.anchor := by
  unfold runWdacTableLoad
  (repeat' split) <;> simp
@[simp] theorem waitWdacs_anchor (c mask stop) : (s.waitWdacs c mask stop).1.anchor = s.anchor := by
  unfold State.waitWdacs
  split <;> simp
@[simp] theorem runWdacControl_anchor (c mask action) : (runWdacControl c mask action s).1.anchor = s.anchor := by
  simp only [runWdacControl]
  (repeat' split) <;> simp

/-! #### Calibration -/

@[simp] theorem pendCoef_anchor (u c) : (s.pendCoef u c).anchor = s.anchor := by simp [State.pendCoef]
@[simp] theorem setCoef_anchor (u c) : (s.setCoef u c).anchor = s.anchor := by
  unfold State.setCoef
  split <;> simp
@[simp] theorem calEvent_anchor (e u args) : (s.calEvent e u args).anchor = s.anchor := by simp [State.calEvent]
@[simp] theorem claimUnit_anchor (u cls) : (s.claimUnit u cls).2.anchor = s.anchor := by
  unfold State.claimUnit
  split <;> simp
@[simp] theorem releaseUnit_anchor (u cls) : (s.releaseUnit u cls).anchor = s.anchor := by
  unfold State.releaseUnit
  split <;> simp
@[simp] theorem feedRepair_anchor (r) : (s.feedRepair r).anchor = s.anchor := by
  unfold State.feedRepair
  split
  · rfl
  · split
    · rfl
    · simp only [anchor_mk, anchor_fold]
      refine each_anchor s _ (fun s c => ?_) _
      (repeat' split) <;> simp
@[simp] theorem feedRepairs_anchor : s.feedRepairs.anchor = s.anchor := by simp [State.feedRepairs]
@[simp] theorem dropClaim_anchor (j x) : (s.dropClaim j x).anchor = s.anchor := by
  unfold State.dropClaim
  split <;> simp
@[simp] theorem endJob_anchor (j r tell) : (s.endJob j r tell).anchor = s.anchor := by
  unfold State.endJob
  (repeat' split) <;> simp
@[simp] theorem endJobs_anchor (f r tell) : (s.endJobs f r tell).anchor = s.anchor := by
  unfold State.endJobs
  refine each_anchor s _ (fun s j => ?_) _
  (repeat' split) <;> simp
@[simp] theorem tripJobs_anchor (i) : (s.tripJobs i).anchor = s.anchor := by simp [State.tripJobs]
@[simp] theorem calRestart_anchor : s.calRestart.anchor = s.anchor := by
  unfold State.calRestart
  refine each_anchor s _ (fun s j => ?_) _
  (repeat' split) <;> simp
@[simp] theorem selftest_anchor (u devs real) : (s.selftest u devs real).anchor = s.anchor := by simp [State.selftest]
@[simp] theorem jobBody_anchor (x new) : (s.jobBody x new).1.anchor = s.anchor := by
  simp only [State.jobBody]
  (repeat' split) <;> simp
@[simp] theorem completeJob_anchor (j r real) : (s.completeJob j r real).anchor = s.anchor := by
  simp only [State.completeJob]
  (repeat' split) <;> simp
@[simp] theorem releaseAborted_anchor : s.releaseAborted.anchor = s.anchor := by simp [State.releaseAborted]
@[simp] theorem calBoundary_anchor : s.calBoundary.anchor = s.anchor := by simp [State.calBoundary]
@[simp] theorem onWindow_anchor (p f) : (s.onWindow p f).anchor = s.anchor := by simp [State.onWindow]
@[simp] theorem claimFor_anchor (j x u) : (s.claimFor j x u).anchor = s.anchor := by
  simp only [State.claimFor]
  split <;> simp
@[simp] theorem repairClaims_anchor (u cls) : (s.repairClaims u cls).anchor = s.anchor := by simp [State.repairClaims]
@[simp] theorem claimLost_anchor (n) : (s.claimLost n).anchor = s.anchor := by
  unfold State.claimLost
  split <;> simp
@[simp] theorem measure_anchor : s.measure.2.anchor = s.anchor := by simp [State.measure]
@[simp] theorem takePoint_anchor (j x second expected) : (s.takePoint j x second expected).2.anchor = s.anchor := by
  simp [State.takePoint]
@[simp] theorem pointStep_anchor (j x) : (s.pointStep j x).anchor = s.anchor := by
  unfold State.pointStep
  split <;> simp
@[simp] theorem finishGap_anchor (j r real) : (s.finishGap j r real).anchor = s.anchor := by
  unfold State.finishGap
  split <;> simp
@[simp] theorem returnLent_anchor : s.returnLent.anchor = s.anchor := by simp [State.returnLent]
@[simp] theorem abandonSteps_anchor : s.abandonSteps.anchor = s.anchor := by
  unfold State.abandonSteps
  rw [returnLent_anchor]
  refine each_anchor s _ (fun s j => ?_) _
  (repeat' split) <;> simp

@[simp] theorem runCalRun_anchor (c u kind mode apply) : (runCalRun c u kind mode apply s).1.anchor = s.anchor := by
  unfold runCalRun State.addJob
  cases (List.finRange 16).find? fun j => s.cal.jobs[j].isNone <;> simp only [Option.map_none, Option.map_some] <;>
    (repeat' split) <;> simp
@[simp] theorem runCalSysPoint_anchor (c adc point expected) : (runCalSysPoint c adc point expected s).1.anchor = s.anchor := by
  simp only [runCalSysPoint]
  (repeat' split) <;> simp
@[simp] theorem runCalAbort_anchor (u) : (runCalAbort u s).1.anchor = s.anchor := by
  unfold runCalAbort
  split
  · rfl
  · split
    · rfl
    · simp only
      refine each_anchor s _ (fun s j => ?_) _
      (repeat' split) <;> simp
@[simp] theorem runCalCoefGet_anchor (u) : (runCalCoefGet u s).1.anchor = s.anchor := by
  unfold runCalCoefGet
  split <;> simp
@[simp] theorem runCalCoefSet_anchor (force blob) : (runCalCoefSet force blob s).1.anchor = s.anchor := by
  unfold runCalCoefSet
  (repeat' split) <;> simp
@[simp] theorem runCalCoefNeutral_anchor (u) : (runCalCoefNeutral u s).1.anchor = s.anchor := by
  unfold runCalCoefNeutral
  (repeat' split) <;> simp

/-! #### Fabric -/

@[simp] theorem stageRoute_anchor (p dst src) : (s.stageRoute p dst src).anchor = s.anchor := by simp [State.stageRoute]
@[simp] theorem commitRoutes_anchor (p) : (s.commitRoutes p).anchor = s.anchor := by simp [State.commitRoutes]
@[simp] theorem discardRoutes_anchor (p) : (s.discardRoutes p).anchor = s.anchor := by simp [State.discardRoutes]
@[simp] theorem applyRoutes_anchor : s.applyRoutes.anchor = s.anchor := by simp [State.applyRoutes]
@[simp] theorem dropStaged_anchor (p codes) : (s.dropStaged p codes).anchor = s.anchor := by simp [State.dropStaged]
@[simp] theorem sourceOff_anchor (i) : (s.sourceOff i).anchor = s.anchor := by
  simp only [State.sourceOff]
  split <;> simp
@[simp] theorem stageAll_anchor (p pairs) : (s.stageAll p pairs).anchor = s.anchor := by simp [State.stageAll]
@[simp] theorem runLinRouteSet_anchor (c commit pairs) : (runLinRouteSet c commit pairs s).1.anchor = s.anchor := by
  unfold runLinRouteSet
  (repeat' split) <;> simp
@[simp] theorem runLinRouteGet_anchor (dst count) : (runLinRouteGet dst count s).1.anchor = s.anchor := by
  simp only [runLinRouteGet]
  split <;> simp

/-! #### Memory -/

@[simp] theorem setWord_anchor (d m k w) : (s.setWord d m k w).anchor = s.anchor := by simp [State.setWord]
@[simp] theorem strike_anchor (d m k flips) : (s.strike d m k flips).anchor = s.anchor := by simp [State.strike]
@[simp] theorem checkWord_anchor (d m k raw e) : (s.checkWord d m k raw e).2.2.anchor = s.anchor := by
  simp only [State.checkWord]
  (repeat' split) <;> simp
@[simp] theorem memRead_anchor (d m k) : (s.memRead d m k).2.2.anchor = s.anchor := by simp [State.memRead]
@[simp] theorem entryRead_anchor (d m e) : (s.entryRead d m e).2.anchor = s.anchor := by simp [State.entryRead]
@[simp] theorem wordRead_anchor (d m portB k) : (s.wordRead d m portB k).2.2.anchor = s.anchor := by
  unfold State.wordRead
  split <;> simp
@[simp] theorem portRead_anchor (d m portB e) : (s.portRead d m portB e).2.anchor = s.anchor := by simp [State.portRead]
@[simp] theorem entryWrite_anchor (d m e v) : (s.entryWrite d m e v).anchor = s.anchor := by simp [State.entryWrite]
@[simp] theorem wordWrite_anchor (d m k v) : (s.wordWrite d m k v).anchor = s.anchor := by simp [State.wordWrite]
@[simp] theorem gsrMems_anchor (d) : (s.gsrMems d).anchor = s.anchor := by simp [State.gsrMems]
@[simp] theorem enterGsr_anchor (d) : (s.enterGsr d).anchor = s.anchor := by simp [State.enterGsr]
@[simp] theorem loseMems_anchor (d) : (s.loseMems d).anchor = s.anchor := by simp [State.loseMems]
@[simp] theorem evalLookback_anchor (d m start lenM1) : (s.evalLookback d m start lenM1).anchor = s.anchor := by
  simp [State.evalLookback]
@[simp] theorem fromImage_anchor : s.fromImage.2.anchor = s.anchor := by simp [State.fromImage]
@[simp] theorem delayStore_anchor (d m) : (s.delayStore d m).anchor = s.anchor := by simp [State.delayStore]
@[simp] theorem delayTick_anchor (d m) : (s.delayTick d m).anchor = s.anchor := by simp [State.delayTick]
@[simp] theorem windowTick_anchor (d m w) : (s.windowTick d m w).anchor = s.anchor := by simp [State.windowTick]
@[simp] theorem lookStore_anchor (d m) : (s.lookStore d m).anchor = s.anchor := by simp [State.lookStore]
@[simp] theorem lookTick_anchor (d m) : (s.lookTick d m).anchor = s.anchor := by
  simp only [State.lookTick]
  split <;> simp
@[simp] theorem memCycle_anchor (d) : (s.memCycle d).anchor = s.anchor := by simp [State.memCycle]
@[simp] theorem leaveGsr_anchor (d f) : (s.leaveGsr d f).anchor = s.anchor := by simp [State.leaveGsr]
@[simp] theorem portStore_anchor (d m portB k store) (h : ∀ s : State, (store s).anchor = s.anchor) :
    (s.portStore d m portB k store).anchor = s.anchor := by
  unfold State.portStore
  cases s.otherWrite d m portB k with
  | none => simp [h]
  | some w => cases portB <;> simp [h]

@[simp] theorem windowRead_anchor (p d m k) : (s.windowRead p d m k).2.2.anchor = s.anchor := by
  simp only [State.windowRead]
  (repeat' split) <;> simp
@[simp] theorem windowWrite_anchor (p d m k v) : (s.windowWrite p d m k v).2.anchor = s.anchor := by
  simp only [State.windowWrite]
  (repeat' split) <;> simp
@[simp] theorem probeTrigger_anchor : s.probeTrigger.anchor = s.anchor := by simp [State.probeTrigger]
@[simp] theorem probeComplete_anchor : s.probeComplete.anchor = s.anchor := by simp [State.probeComplete]
@[simp] theorem armProbe_anchor : s.armProbe.anchor = s.anchor := by simp [State.armProbe]
@[simp] theorem portWrite_anchor (d m portB w) : (s.portWrite d m portB w).anchor = s.anchor := by simp [State.portWrite]
@[simp] theorem pop_anchor (d m) : (s.pop d m).anchor = s.anchor := by simp [State.pop]
@[simp] theorem push_anchor (d m v) : (s.push d m v).anchor = s.anchor := by simp [State.push]
@[simp] theorem runPrbSelect_anchor (probe bay peep net en) : (runPrbSelect probe bay peep net en s).1.anchor = s.anchor := by
  unfold runPrbSelect
  (repeat' split) <;> simp
@[simp] theorem runPrbCaptureArm_anchor (trig pre pattern mask et) :
    (runPrbCaptureArm trig pre pattern mask et s).1.anchor = s.anchor := by
  unfold runPrbCaptureArm
  split <;> simp
@[simp] theorem runPrbCaptureRead_anchor (start count) : (runPrbCaptureRead start count s).1.anchor = s.anchor := by
  unfold runPrbCaptureRead
  (repeat' split) <;> simp
@[simp] theorem runPrbAuxSet_anchor (p en) : (runPrbAuxSet p en s).1.anchor = s.anchor := by
  unfold runPrbAuxSet
  (repeat' split) <;> simp

/-! #### The core of a repair -/

@[simp] theorem askOn_anchor (i) : (s.askOn i).anchor = s.anchor := by simp [State.askOn]
@[simp] theorem askOff_anchor (i) : (s.askOff i).anchor = s.anchor := by simp [State.askOff]
@[simp] theorem onRep_anchor (r f) : (s.onRep r f).anchor = s.anchor := by simp [State.onRep]
@[simp] theorem engineRoutes_anchor (pairs) : (s.engineRoutes pairs).anchor = s.anchor := by simp [State.engineRoutes]
@[simp] theorem clearInputs_anchor (d) : (s.clearInputs d).anchor = s.anchor := by simp [State.clearInputs]
@[simp] theorem clearOutputs_anchor (i) : (s.clearOutputs i).anchor = s.anchor := by simp [State.clearOutputs]
@[simp] theorem leaveOctet_anchor (a) : (s.leaveOctet a).anchor = s.anchor := by simp [State.leaveOctet]
@[simp] theorem repairGsr_anchor (d) : (s.repairGsr d).anchor = s.anchor := by simp [State.repairGsr]
@[simp] theorem queueSpare_anchor (r d x) : (s.queueSpare r d x).anchor = s.anchor := by simp [State.queueSpare]
@[simp] theorem queueSpares_anchor : s.queueSpares.anchor = s.anchor := by
  unfold State.queueSpares
  refine each_anchor s _ (fun s r => ?_) _
  (repeat' split) <;> simp
@[simp] theorem freeRepair_anchor (r x reply) : (s.freeRepair r x reply).anchor = s.anchor := by simp [State.freeRepair]
@[simp] theorem dropRepair_anchor (r reply) : (s.dropRepair r reply).anchor = s.anchor := by
  unfold State.dropRepair
  (repeat' split) <;> simp
@[simp] theorem spareLost_anchor (i trip) : (s.spareLost i trip).anchor = s.anchor := by
  unfold State.spareLost
  split <;> simp
@[simp] theorem originalLost_anchor (i) : (s.originalLost i).anchor = s.anchor := by simp [State.originalLost]
@[simp] theorem repEvent_anchor (e r x args limit more) : (s.repEvent e r x args limit more).anchor = s.anchor := by
  simp [State.repEvent]
@[simp] theorem countMissed_anchor (r x0) : (s.countMissed r x0).anchor = s.anchor := by
  unfold State.countMissed
  (repeat' split) <;> simp
@[simp] theorem compareRecord_anchor (r spare payload) : (s.compareRecord r spare payload).anchor = s.anchor := by
  unfold State.compareRecord
  split <;> simp
@[simp] theorem copyAnalogue_anchor (o a) : (s.copyAnalogue o a).anchor = s.anchor := by
  simp only [State.copyAnalogue]
  split <;> simp
@[simp] theorem spareOn_anchor (i) : (s.spareOn i).anchor = s.anchor := by
  unfold State.spareOn
  (repeat' split) <;> simp
@[simp] theorem prepare_anchor (r) : (s.prepare r).anchor = s.anchor := by
  simp only [State.prepare]
  (repeat' split) <;> simp
@[simp] theorem spareLoads_anchor (d) : (s.spareLoads d).anchor = s.anchor := by
  simp only [State.spareLoads]
  (repeat' split) <;> simp
@[simp] theorem abortCommand_anchor (c) : (s.abortCommand c).anchor = s.anchor := by
  unfold State.abortCommand
  simp only [finish_anchor, queueSpares_anchor, anchor_mk, anchor_fold, endJobs_anchor]
  refine each_anchor s _ (fun s r => ?_) _
  (repeat' split) <;> simp

/-! #### Configuration images and scan -/

@[simp] theorem freeBuf_anchor : s.freeBuf.anchor = s.anchor := by simp [State.freeBuf]
@[simp] theorem loadReply_anchor (x r) : (s.loadReply x r).anchor = s.anchor := by
  unfold State.loadReply
  split <;> simp
@[simp] theorem loseImage_anchor (d code) : (s.loseImage d code).anchor = s.anchor := by
  simp only [State.loseImage]
  split <;> simp
@[simp] theorem faultBay_anchor (d cause k) : (s.faultBay d cause k).anchor = s.anchor := by simp [State.faultBay]
@[simp] theorem scrub_anchor (d k found) : (s.scrub d k found).anchor = s.anchor := by
  unfold State.scrub
  split <;> simp
@[simp] theorem loaded_anchor (r) : (s.loaded r).anchor = s.anchor := by simp [State.loaded]
@[simp] theorem eraseSlot_anchor (c k) : (s.eraseSlot c k).anchor = s.anchor := by simp [State.eraseSlot]
@[simp] theorem dropStoreJob_anchor : s.dropStoreJob.anchor = s.anchor := by
  unfold State.dropStoreJob
  split <;> simp
@[simp] theorem runCfgBufOpen_anchor (p) : (runCfgBufOpen p s).1.anchor = s.anchor := by
  unfold runCfgBufOpen
  (repeat' split) <;> simp
@[simp] theorem runCfgBufWrite_anchor (p offset data) : (runCfgBufWrite p offset data s).1.anchor = s.anchor := by
  simp only [runCfgBufWrite]
  (repeat' split) <;> simp
@[simp] theorem runCfgBufClose_anchor (p release) : (runCfgBufClose p release s).1.anchor = s.anchor := by
  simp only [runCfgBufClose]
  (repeat' split) <;> simp
@[simp] theorem runCfgLoad_anchor (c bay source) : (runCfgLoad c bay source s).1.anchor = s.anchor := by
  simp only [runCfgLoad]
  (repeat' split) <;> simp
@[simp] theorem runCfgStoreSave_anchor (c slot) : (runCfgStoreSave c slot s).1.anchor = s.anchor := by
  unfold runCfgStoreSave
  (repeat' split) <;> simp
@[simp] theorem runCfgStoreErase_anchor (c slot) : (runCfgStoreErase c slot s).1.anchor = s.anchor := by
  unfold runCfgStoreErase
  (repeat' split) <;> simp
@[simp] theorem runCfgStoreInfo_anchor (slot) : (runCfgStoreInfo slot s).1.anchor = s.anchor := by
  unfold runCfgStoreInfo
  (repeat' split) <;> simp
@[simp] theorem runCfgStatusGet_anchor (bay) : (runCfgStatusGet bay s).1.anchor = s.anchor := by
  unfold runCfgStatusGet
  split <;> simp

/-! #### Partition -/

@[simp] theorem stepEpoch_anchor : s.stepEpoch.anchor = s.anchor := by simp [State.stepEpoch]
@[simp] theorem takeAway_anchor (cmd loser force limit codes) : (s.takeAway cmd loser force limit codes).anchor = s.anchor := by
  simp [State.takeAway]
@[simp] theorem tableProgram_anchor : s.tableProgram.anchor = s.anchor := by simp [State.tableProgram]
@[simp] theorem tableRecord_anchor : s.tableRecord.anchor = s.anchor := by simp [State.tableRecord]
@[simp] theorem keyRecord_anchor : s.keyRecord.anchor = s.anchor := by simp [State.keyRecord]
@[simp] theorem applyChange_anchor (x) : (s.applyChange x).anchor = s.anchor := by
  unfold State.applyChange
  (repeat' split) <;> simp
@[simp] theorem admitChanges_anchor (n) : (State.admitChanges n s).anchor = s.anchor := by
  induction n generalizing s with
  | zero => rfl
  | succ n ih =>
    unfold State.admitChanges
    (repeat' split) <;> simp [ih]
@[simp] theorem change_anchor (x) : (s.change x).anchor = s.anchor := by simp [State.change]
@[simp] theorem drained_anchor (d) : (s.drained d).anchor = s.anchor := by
  unfold State.drained
  simp only
  split
  all_goals
    simp only [finish_anchor, raise_anchor, dropStaged_anchor]
    refine (each_anchor _ _ (fun s c => ?_) _).trans (by simp)
    split <;> simp
@[simp] theorem commitTable_anchor : s.commitTable.anchor = s.anchor := by
  unfold State.commitTable
  split <;> simp
@[simp] theorem applyKey_anchor (x0) : (s.applyKey x0).anchor = s.anchor := by
  unfold State.applyKey
  split <;> simp
@[simp] theorem commitKey_anchor : s.commitKey.anchor = s.anchor := by
  unfold State.commitKey
  split <;> simp
@[simp] theorem runPartGrant_anchor (c part codes) : (runPartGrant c part codes s).1.anchor = s.anchor := by
  unfold runPartGrant
  (repeat' split) <;> simp
@[simp] theorem runPartRevoke_anchor (c force part limit codes) :
    (runPartRevoke c force part limit codes s).1.anchor = s.anchor := by
  unfold runPartRevoke
  (repeat' split) <;> simp
@[simp] theorem runPartTableGet_anchor (first count) : (runPartTableGet first count s).1.anchor = s.anchor := by
  unfold runPartTableGet
  split <;> simp
@[simp] theorem runKeyWrite_anchor (h target mode wrapped kcv) :
    (runKeyWrite h target mode wrapped kcv s).1.anchor = s.anchor := by
  simp only [runKeyWrite]
  (repeat' split) <;> simp
@[simp] theorem runKeyErase_anchor (c target) : (runKeyErase c target s).1.anchor = s.anchor := by
  unfold runKeyErase
  split <;> simp
@[simp] theorem runKeyStatusGet_anchor (target) : (runKeyStatusGet target s).1.anchor = s.anchor := by
  unfold runKeyStatusGet
  split <;> simp
@[simp] theorem runPartQuotaSet_anchor (part lo hi auth) : (runPartQuotaSet part lo hi auth s).1.anchor = s.anchor := by
  unfold runPartQuotaSet
  (repeat' split) <;> simp

/-! #### Sash -/

@[simp] theorem lifeWrite_anchor : s.lifeWrite.anchor = s.anchor := by simp [State.lifeWrite]
@[simp] theorem retirePage_anchor (p) : (s.retirePage p).anchor = s.anchor := by simp [State.retirePage]
@[simp] theorem biasEdge_anchor (before) : (s.biasEdge before).anchor = s.anchor := by simp [State.biasEdge]
@[simp] theorem biasShutdown_anchor : s.biasShutdown.anchor = s.anchor := by simp [State.biasShutdown]
@[simp] theorem sashAbsent_anchor : s.sashAbsent.anchor = s.anchor := by simp [State.sashAbsent]
@[simp] theorem sashFault_anchor (fromAbsent injected) : (s.sashFault fromAbsent injected).anchor = s.anchor := by
  simp [State.sashFault]
@[simp] theorem sashPresent_anchor : s.sashPresent.anchor = s.anchor := by simp [State.sashPresent]
@[simp] theorem sashJudge_anchor : s.sashJudge.anchor = s.anchor := by simp [State.sashJudge]
@[simp] theorem expect_anchor (t) : (s.expect t).anchor = s.anchor := by
  simp only [State.expect]
  (repeat' split) <;> simp
@[simp] theorem setBias_anchor (f) : (s.setBias f).anchor = s.anchor := by simp [State.setBias]
@[simp] theorem readIdentity_anchor (ident pages) : (s.readIdentity ident pages).anchor = s.anchor := by
  simp [State.readIdentity]
@[simp] theorem lifeFailed_anchor (p) : (s.lifeFailed p).anchor = s.anchor := by simp [State.lifeFailed]
@[simp] theorem lifeCommitted_anchor (p) : (s.lifeCommitted p).anchor = s.anchor := by simp [State.lifeCommitted]
@[simp] theorem runSashInfoGet_anchor : (runSashInfoGet s).1.anchor = s.anchor := by
  unfold runSashInfoGet
  split <;> simp
@[simp] theorem runSashExpectSet_anchor (t) : (runSashExpectSet t s).1.anchor = s.anchor := by
  unfold runSashExpectSet
  split <;> simp
@[simp] theorem runSashBiasSet_anchor (g0 g1 g2 g3 rate) : (runSashBiasSet g0 g1 g2 g3 rate s).1.anchor = s.anchor := by
  unfold runSashBiasSet
  (repeat' split) <;> simp
@[simp] theorem runSashLifeGet_anchor : (runSashLifeGet s).1.anchor = s.anchor := by
  simp only [runSashLifeGet]
  split <;> simp

/-! #### CAN -/

@[simp] theorem announce_anchor (reset) : (s.announce reset).anchor = s.anchor := by simp [State.announce]
@[simp] theorem bootAnnounce_anchor (reset) : (s.bootAnnounce reset).anchor = s.anchor := by simp [State.bootAnnounce]
@[simp] theorem onCan_anchor (f) : (s.onCan f).anchor = s.anchor := by simp [State.onCan]
@[simp] theorem canAcked_anchor : s.canAcked.anchor = s.anchor := by simp [State.canAcked]
@[simp] theorem canFailed_anchor (ackError) : (s.canFailed ackError).anchor = s.anchor := by simp [State.canFailed]
@[simp] theorem holdBrs_anchor : s.holdBrs.anchor = s.anchor := by simp [State.holdBrs]
@[simp] theorem canSends_anchor (p i) : (s.canSends p i).anchor = s.anchor := by simp [State.canSends]
@[simp] theorem canRefill_anchor : s.canRefill.anchor = s.anchor := by simp [State.canRefill]
@[simp] theorem segErr_anchor : s.segErr.anchor = s.anchor := by simp [State.segErr]
@[simp] theorem sawNode_anchor (node die) : (s.sawNode node die).anchor = s.anchor := by simp [State.sawNode]
@[simp] theorem sawBody_anchor (op bs i) : (s.sawBody op bs i).anchor = s.anchor := by simp [State.sawBody]
@[simp] theorem sawResponse_anchor (bs) : (s.sawResponse bs).anchor = s.anchor := by simp [State.sawResponse]
@[simp] theorem canPacket_anchor (id bs) : (s.canPacket id bs).anchor = s.anchor := by simp [State.canPacket]
@[simp] theorem canSegment_anchor (id hd bs) : (s.canSegment id hd bs).anchor = s.anchor := by
  simp only [State.canSegment]
  (repeat' split) <;> simp
@[simp] theorem canRecErrors_anchor (n) : (s.canRecErrors n).anchor = s.anchor := by simp [State.canRecErrors]
@[simp] theorem canHears_anchor (id data) : (s.canHears id data).anchor = s.anchor := by
  simp only [State.canHears]
  (repeat' split) <;> simp
@[simp] theorem setTerm_anchor : s.setTerm.anchor = s.anchor := by simp [State.setTerm]
@[simp] theorem drawDelay_anchor : s.drawDelay.2.anchor = s.anchor := by simp [State.drawDelay]
@[simp] theorem runDiscover_anchor (h) : (runDiscover h s).1.anchor = s.anchor := by
  simp only [runDiscover]
  (repeat' split) <;> simp
@[simp] theorem latchAddr_anchor (a) : (s.latchAddr a).anchor = s.anchor := by simp [State.latchAddr]
@[simp] theorem noAddr_anchor (raw) : (s.noAddr raw).anchor = s.anchor := by simp [State.noAddr]

/-! #### Channel -/

@[simp] theorem onVc_anchor (p v f) : (s.onVc p v f).anchor = s.anchor := by simp [State.onVc]
@[simp] theorem readRetention_anchor (found) : (s.readRetention found).2.anchor = s.anchor := by simp [State.readRetention]
@[simp] theorem engineReply_anchor (cmd status) : (s.engineReply cmd status).anchor = s.anchor := by simp [State.engineReply]
@[simp] theorem noRoute_anchor (p f) : (s.noRoute p f).anchor = s.anchor := by simp [State.noRoute]
@[simp] theorem packetDone_anchor (p v) : (s.packetDone p v).anchor = s.anchor := by
  simp only [State.packetDone]
  split <;> simp
@[simp] theorem deliverFlit_anchor (p v f) : (s.deliverFlit p v f).anchor = s.anchor := by simp [State.deliverFlit]
@[simp] theorem newSession_anchor (p) : (s.newSession p).anchor = s.anchor := by simp [State.newSession]
@[simp] theorem resumeSession_anchor (p) : (s.resumeSession p).anchor = s.anchor := by simp [State.resumeSession]
@[simp] theorem commitOrq_anchor (p v pk) : (s.commitOrq p v pk).anchor = s.anchor := by simp [State.commitOrq]
@[simp] theorem runLnkRouteSet_anchor (entry vals) : (runLnkRouteSet entry vals s).1.anchor = s.anchor := by
  unfold runLnkRouteSet
  split <;> simp
@[simp] theorem runLnkRcStatus_anchor (port) : (runLnkRcStatus port s).1.anchor = s.anchor := by
  unfold runLnkRcStatus
  split <;> simp

/-! #### Links -/

@[simp] theorem lnkEvent_anchor (p e args det injected) : (s.lnkEvent p e args det injected).anchor = s.anchor := by
  simp [State.lnkEvent]
@[simp] theorem settle_anchor (p) : (s.settle p).anchor = s.anchor := by simp [State.settle]
@[simp] theorem seek_anchor (p) : (s.seek p).anchor = s.anchor := by simp [State.seek]
@[simp] theorem endEnabling_anchor (p r) : (s.endEnabling p r).anchor = s.anchor := by simp [State.endEnabling]
@[simp] theorem disablePort_anchor (p r) : (s.disablePort p r).anchor = s.anchor := by simp [State.disablePort]
@[simp] theorem portOn_anchor (p) : (s.portOn p).anchor = s.anchor := by simp [State.portOn]
@[simp] theorem portOff_anchor (p) : (s.portOff p).anchor = s.anchor := by simp [State.portOff]
@[simp] theorem relock_anchor : s.relock.anchor = s.anchor := by simp [State.relock]
@[simp] theorem linkDown_anchor (p) : (s.linkDown p).anchor = s.anchor := by simp [State.linkDown]
@[simp] theorem refuse_anchor (p cause) : (s.refuse p cause).anchor = s.anchor := by simp [State.refuse]
@[simp] theorem acceptPartner_anchor (p b) : (s.acceptPartner p b).anchor = s.anchor := by simp [State.acceptPartner]
@[simp] theorem levelled_anchor (p) : (s.levelled p).anchor = s.anchor := by simp [State.levelled]
@[simp] theorem enterUp_anchor (p) : (s.enterUp p).anchor = s.anchor := by simp [State.enterUp]
@[simp] theorem setEn_anchor (p en) : (s.setEn p en).anchor = s.anchor := by simp [State.setEn]
@[simp] theorem drawMeasured_anchor : s.drawMeasured.2.anchor = s.anchor := by simp [State.drawMeasured]
@[simp] theorem tooDeep_anchor (p) : (s.tooDeep p).anchor = s.anchor := by simp [State.tooDeep]
@[simp] theorem holdOf_anchor (p) : (s.holdOf p).2.anchor = s.anchor := by
  unfold State.holdOf
  split <;> simp
@[simp] theorem departTraining_anchor (p) : (s.departTraining p).anchor = s.anchor := by simp [State.departTraining]
@[simp] theorem departSegment_anchor (p) : (s.departSegment p).anchor = s.anchor := by simp [State.departSegment]
@[simp] theorem runLnkPartnerGet_anchor : (runLnkPartnerGet s).1.anchor = s.anchor := by
  unfold runLnkPartnerGet
  exact foldl_keeps (fun x : List Byte × State => x.2.anchor) _ (fun x p => by simp) _ _
@[simp] theorem awaitPorts_anchor (c ps) : (s.awaitPorts c ps).1.anchor = s.anchor := by
  simp only [State.awaitPorts]
  split <;> simp
@[simp] theorem auditPorts_anchor (ps) : (s.auditPorts ps).anchor = s.anchor := by simp [State.auditPorts]
@[simp] theorem runLnkEnable_anchor (c en dis) : (runLnkEnable c en dis s).1.anchor = s.anchor := by
  simp only [runLnkEnable]
  (repeat' split) <;> simp
@[simp] theorem runLnkRetrain_anchor (c mask) : (runLnkRetrain c mask s).1.anchor = s.anchor := by
  simp only [runLnkRetrain]
  (repeat' split) <;> simp
@[simp] theorem runLnkLatAck_anchor (mask) : (runLnkLatAck mask s).1.anchor = s.anchor := by
  simp only [runLnkLatAck]
  (repeat' split) <;> simp

/-! #### Arbiter -/

@[simp] theorem refuseReq_anchor (k) : (s.refuseReq k).anchor = s.anchor := by simp [State.refuseReq]
@[simp] theorem stamp_anchor (k dl bytes xlen dest rsp) : (s.stamp k dl bytes xlen dest rsp).anchor = s.anchor := by
  simp [State.stamp]
@[simp] theorem restamp_anchor (k dl) : (s.restamp k dl).anchor = s.anchor := by
  unfold State.restamp
  split <;> simp
@[simp] theorem dropPacket_anchor (h pk) : (s.dropPacket h pk).anchor = s.anchor := by
  unfold State.dropPacket
  (repeat' split) <;> simp
@[simp] theorem grant_anchor (k q p) : (s.grant k q p).anchor = s.anchor := by simp [State.grant]
@[simp] theorem ownPayload_anchor (h beats) : (s.ownPayload h beats).2.anchor = s.anchor := by
  unfold State.ownPayload
  (repeat' split) <;> simp
@[simp] theorem payloadOf_anchor (h beats) : (s.payloadOf h beats).2.anchor = s.anchor := by
  unfold State.payloadOf
  (repeat' split) <;> simp
@[simp] theorem countOriginal_anchor (k payload) : (s.countOriginal k payload).anchor = s.anchor := by
  unfold State.countOriginal
  split
  · rfl
  · refine each_anchor s _ (fun s r => ?_) _
    (repeat' split) <;> simp
@[simp] theorem commitTransfer_anchor (h beats lead) : (s.commitTransfer h beats lead).anchor = s.anchor := by
  unfold State.commitTransfer
  split <;> simp
@[simp] theorem imageBytes_anchor (n) : (State.imageBytes n s).2.anchor = s.anchor := by
  induction n generalizing s with
  | zero => rfl
  | succ n ih => simp [State.imageBytes, ih]
@[simp] theorem spareRecord_anchor (k dest blen) : (s.spareRecord k dest blen).2.anchor = s.anchor := by
  unfold State.spareRecord
  split
  · split
    · simp
    · split <;> simp
  · rfl
@[simp] theorem holdRecord_anchor (r k dest blen) : (s.holdRecord r k dest blen).anchor = s.anchor := by
  unfold State.holdRecord
  split
  · next h => simpa using congrArg (fun x => x.2.anchor) h.symm
  · next h =>
    have ha := congrArg (fun x => x.2.anchor) h
    simp only [spareRecord_anchor] at ha
    (repeat' split) <;> simp [ha]
@[simp] theorem raiseReq_anchor (k dl blen dest) : (s.raiseReq k dl blen dest).anchor = s.anchor := by
  simp only [State.raiseReq]
  (repeat' split) <;> simp
@[simp] theorem presentDl_anchor (k dl) : (s.presentDl k dl).anchor = s.anchor := by simp [State.presentDl]
@[simp] theorem sweepRequests_anchor : s.sweepRequests.anchor = s.anchor := by
  unfold State.sweepRequests
  refine each_anchor s _ (fun s k => ?_) _
  (repeat' split) <;> simp
@[simp] theorem settleCut_anchor (lead) : (s.settleCut lead).anchor = s.anchor := by
  unfold State.settleCut
  split <;> simp
@[simp] theorem endTransfer_anchor (h beats bubbles lead) : (s.endTransfer h beats bubbles lead).anchor = s.anchor := by
  simp only [State.endTransfer]
  split <;> simp

/-! #### Repair -/

@[simp] theorem endBayJobs_anchor (i) : (s.endBayJobs i).anchor = s.anchor := by
  unfold State.endBayJobs
  split <;> simp
@[simp] theorem copyWord_anchor (r o d m k) : (s.copyWord r o d m k).anchor = s.anchor := by simp [State.copyWord]
@[simp] theorem abandonCopy_anchor (r) : (s.abandonCopy r).anchor = s.anchor := by
  unfold State.abandonCopy
  (repeat' split) <;> simp
@[simp] theorem abandonCopies_anchor : s.abandonCopies.anchor = s.anchor := by simp [State.abandonCopies]
@[simp] theorem switchRoutes_anchor (x) : (s.switchRoutes x).anchor = s.anchor := by simp [State.switchRoutes]
@[simp] theorem switchOctet_anchor (o a) : (s.switchOctet o a).anchor = s.anchor := by
  unfold State.switchOctet
  split <;> simp
@[simp] theorem switchClaims_anchor (o a) : (s.switchClaims o a).anchor = s.anchor := by simp [State.switchClaims]
@[simp] theorem switchAdc_anchor (o n) : (s.switchAdc o n).anchor = s.anchor := by simp [State.switchAdc]
@[simp] theorem coldLost_anchor (x) : (s.coldLost x).2.anchor = s.anchor := by
  unfold State.coldLost
  split <;> simp
@[simp] theorem cutOver_anchor (r x) : (s.cutOver r x).anchor = s.anchor := by
  unfold State.cutOver
  (repeat' split) <;> simp
@[simp] theorem recalled_anchor (r) : (s.recalled r).anchor = s.anchor := by
  unfold State.recalled
  (repeat' split) <;> simp
@[simp] theorem drainEnds_anchor (d) : (s.drainEnds d).anchor = s.anchor := by
  unfold State.drainEnds
  refine (each_anchor _ _ (fun s r => ?_) _).trans (drained_anchor s d)
  (repeat' split) <;> simp
@[simp] theorem settleDrains_anchor : s.settleDrains.anchor = s.anchor := by simp [State.settleDrains]
@[simp] theorem retire_anchor (r x) : (s.retire r x).anchor = s.anchor := by
  unfold State.retire
  (repeat' split) <;> simp
@[simp] theorem retireStep_anchor (r x) : (s.retireStep r x).anchor = s.anchor := by
  unfold State.retireStep
  (repeat' split) <;> simp
@[simp] theorem beginRepair_anchor (r x lent) : (s.beginRepair r x lent).anchor = s.anchor := by simp [State.beginRepair]
@[simp] theorem runRepairStart_anchor (c a) : (runRepairStart c a s).1.anchor = s.anchor := by
  unfold runRepairStart
  split <;> simp
@[simp] theorem runRepairCutover_anchor (rep force) : (runRepairCutover rep force s).1.anchor = s.anchor := by
  unfold runRepairCutover
  (repeat' split) <;> simp
@[simp] theorem runRepairAbort_anchor (rep) : (runRepairAbort rep s).1.anchor = s.anchor := by
  unfold runRepairAbort
  (repeat' split) <;> simp
@[simp] theorem runRepairLend_anchor (c type bay part) : (runRepairLend c type bay part s).1.anchor = s.anchor := by
  unfold runRepairLend
  (repeat' split) <;> simp
@[simp] theorem runRepairReturn_anchor (c type bay) : (runRepairReturn c type bay s).1.anchor = s.anchor := by
  simp only [runRepairReturn]
  (repeat' split) <;> simp
@[simp] theorem runRepairStatusGet_anchor (rep) : (runRepairStatusGet rep s).1.anchor = s.anchor := by
  unfold runRepairStatusGet
  split <;> simp

/-! #### Firmware -/

@[simp] theorem wearOut_anchor (k det injected) : (s.wearOut k det injected).anchor = s.anchor := by simp [State.wearOut]
@[simp] theorem corruptSlot_anchor (k now) : (s.corruptSlot k now).anchor = s.anchor := by simp [State.corruptSlot]
@[simp] theorem bootCheck_anchor (corruptA corruptB) : (s.bootCheck corruptA corruptB).anchor = s.anchor := by
  simp [State.bootCheck]
@[simp] theorem runFwInfoGet_anchor : (runFwInfoGet s).1.anchor = s.anchor := by simp [runFwInfoGet]
@[simp] theorem runFwWriteBegin_anchor (c slot header) : (runFwWriteBegin c slot header s).1.anchor = s.anchor := by
  unfold runFwWriteBegin
  (repeat' split) <;> simp
@[simp] theorem runFwWrite_anchor (slot offset data) : (runFwWrite slot offset data s).1.anchor = s.anchor := by
  simp only [runFwWrite]
  (repeat' split) <;> simp
@[simp] theorem runFwVerify_anchor (c slot) : (runFwVerify c slot s).1.anchor = s.anchor := by
  unfold runFwVerify
  split <;> simp
@[simp] theorem runFwSwitch_anchor (c slot mode) : (runFwSwitch c slot mode s).1.anchor = s.anchor := by
  unfold runFwSwitch
  (repeat' split) <;> simp
@[simp] theorem runFwConfirm_anchor : (runFwConfirm s).1.anchor = s.anchor := by
  unfold runFwConfirm
  split <;> simp

/-! #### Sequencer -/

@[simp] theorem abayOff_anchor (a) : (s.abayOff a).anchor = s.anchor := by simp [State.abayOff]
@[simp] theorem unitsOff_anchor (i trip) : (s.unitsOff i trip).anchor = s.anchor := by
  unfold State.unitsOff
  (repeat' split) <;> simp
@[simp] theorem leaveOn_anchor (i st trip) : (s.leaveOn i st trip).anchor = s.anchor := by simp [State.leaveOn]
@[simp] theorem abayOn_anchor (a) : (s.abayOn a).anchor = s.anchor := by simp [State.abayOn]
@[simp] theorem becomeOn_anchor (i) : (s.becomeOn i).anchor = s.anchor := by
  unfold State.becomeOn
  (repeat' split) <;> simp
@[simp] theorem trip_anchor (i kind det injected) : (s.trip i kind det injected).anchor = s.anchor := by
  simp only [State.trip]
  split <;> simp
@[simp] theorem holdTherm_anchor (det injected) : (s.holdTherm det injected).anchor = s.anchor := by simp [State.holdTherm]
@[simp] theorem endWarn_anchor : s.endWarn.anchor = s.anchor := by simp [State.endWarn]
@[simp] theorem flushWaiting_anchor : s.flushWaiting.anchor = s.anchor := by simp [State.flushWaiting]
@[simp] theorem endBar_anchor : s.endBar.anchor = s.anchor := by simp [State.endBar]

/-! #### Restart -/

@[simp] theorem closeInjection_anchor : s.closeInjection.anchor = s.anchor := by simp [State.closeInjection]
@[simp] theorem rollBack_anchor (cause) : (s.rollBack cause).anchor = s.anchor := by simp [State.rollBack]
@[simp] theorem warmOff_anchor (i) : (s.warmOff i).anchor = s.anchor := by simp [State.warmOff]
@[simp] theorem warmInterrupt_anchor : s.warmInterrupt.anchor = s.anchor := by
  unfold State.warmInterrupt
  simp only [finishAll_anchor, anchor_mk, anchor_fold, endJobs_anchor]
  refine each_anchor s _ (fun s r => ?_) _
  (repeat' split) <;> simp
@[simp] theorem warmPrepare_anchor : s.warmPrepare.anchor = s.anchor := by
  unfold State.warmPrepare
  refine each_anchor s _ (fun s r => ?_) _
  (repeat' split) <;> simp

/-! #### Power -/

@[simp] theorem runPwrStatusGet_anchor : (runPwrStatusGet s).1.anchor = s.anchor := by simp [runPwrStatusGet]
@[simp] theorem serveDomains_anchor (x) : (s.serveDomains x).anchor = s.anchor := by simp [State.serveDomains]
@[simp] theorem runPwrDomainSet_anchor (h on off) : (runPwrDomainSet h on off s).1.anchor = s.anchor := by
  simp only [runPwrDomainSet]
  split <;> simp
@[simp] theorem ackDom_anchor (i) : (s.ackDom i).anchor = s.anchor := by simp [State.ackDom]
@[simp] theorem runPwrSuspectAck_anchor (mask) : (runPwrSuspectAck mask s).1.anchor = s.anchor := by simp [runPwrSuspectAck]
@[simp] theorem resetBay_anchor (i) : (s.resetBay i).anchor = s.anchor := by
  unfold State.resetBay
  split <;> simp

@[simp] theorem startLinks_anchor : s.startLinks.anchor = s.anchor := by simp [State.startLinks]
@[simp] theorem runPwrRestart_anchor : (runPwrRestart s).1.anchor = s.anchor := by
  unfold runPwrRestart
  (repeat' split) <;> simp
@[simp] theorem clearTrip_anchor (i) : (s.clearTrip i).anchor = s.anchor := by simp [State.clearTrip]
@[simp] theorem runPwrTripClear_anchor (mask) : (runPwrTripClear mask s).1.anchor = s.anchor := by
  simp only [runPwrTripClear]
  split <;> simp

/-! #### Clock -/

@[simp] theorem refLoss_anchor (present injected) : (s.refLoss present injected).anchor = s.anchor := by simp [State.refLoss]
@[simp] theorem missSync_anchor : s.missSync.anchor = s.anchor := by simp [State.missSync]
@[simp] theorem syncOccurs_anchor : s.syncOccurs.anchor = s.anchor := by
  simp only [State.syncOccurs]
  split <;> simp
@[simp] theorem nextSamples_anchor : s.nextSamples.anchor = s.anchor := by simp [State.nextSamples]
@[simp] theorem frameSamples_anchor : s.frameSamples.anchor = s.anchor := by simp [State.frameSamples]
@[simp] theorem loadEt_anchor : s.loadEt.anchor = s.anchor := by simp [State.loadEt]
@[simp] theorem checkEt_anchor : s.checkEt.anchor = s.anchor := by simp [State.checkEt]
@[simp] theorem boundarySync_anchor : s.boundarySync.anchor = s.anchor := by simp [State.boundarySync]
@[simp] theorem endGap_anchor : s.endGap.anchor = s.anchor := by simp [State.endGap]
@[simp] theorem followGap_anchor (level) : (s.followGap level).anchor = s.anchor := by simp [State.followGap]
@[simp] theorem runTimeGet_anchor : (runTimeGet s).1.anchor = s.anchor := by simp [runTimeGet]
@[simp] theorem runSyncArm_anchor (src mode value) : (runSyncArm src mode value s).1.anchor = s.anchor := by
  unfold runSyncArm
  split <;> simp
@[simp] theorem runSyncNow_anchor (c value) : (runSyncNow c value s).1.anchor = s.anchor := by
  unfold runSyncNow
  split <;> simp
@[simp] theorem runGapSet_anchor (src period length) : (runGapSet src period length s).1.anchor = s.anchor := by
  unfold runGapSet
  split <;> simp

/-! #### Fault injection -/

@[simp] theorem runIdGet_anchor : (runIdGet s).1.anchor = s.anchor := by simp [runIdGet, answerOnly]
@[simp] theorem runInjectEnable_anchor (en duration) : (runInjectEnable en duration s).1.anchor = s.anchor := by
  unfold runInjectEnable
  (repeat' split) <;> simp

/-! #### Host commands -/

@[simp] theorem runPing_anchor (data) : (runPing data s).1.anchor = s.anchor := by simp [runPing, answerOnly]
@[simp] theorem stampedOwn_anchor (c) : (s.stampedOwn c).anchor = s.anchor := by
  unfold State.stampedOwn
  split <;> simp
@[simp] theorem touchEntry_anchor (c) : (s.touchEntry c).anchor = s.anchor := by simp [State.touchEntry]
@[simp] theorem runResultGet_anchor (p id) : (runResultGet p id s).1.anchor = s.anchor := by
  unfold runResultGet
  (repeat' split) <;> simp
@[simp] theorem releaseUpTo_anchor (p id) : (s.releaseUpTo p id).anchor = s.anchor := by simp [State.releaseUpTo]
@[simp] theorem releaseNamed_anchor (p ids) : (s.releaseNamed p ids).anchor = s.anchor := by simp [State.releaseNamed]
@[simp] theorem runResultRelease_anchor (p upto ids) : (runResultRelease p upto ids s).1.anchor = s.anchor := by
  unfold runResultRelease
  split <;> simp
@[simp] theorem runLdgStatusGet_anchor (p) : (runLdgStatusGet p s).1.anchor = s.anchor := by
  simp [runLdgStatusGet, answerOnly]
@[simp] theorem runEvtSubscribe_anchor (p node en) : (runEvtSubscribe p node en s).1.anchor = s.anchor := by
  unfold runEvtSubscribe
  split <;> simp
@[simp] theorem runEvtLogRead_anchor (p lseq count) : (runEvtLogRead p lseq count s).1.anchor = s.anchor := by
  simp only [runEvtLogRead]
  (repeat' split) <;> simp

/-! #### Recovery -/

@[simp] theorem mute_anchor (c) : (s.mute c).anchor = s.anchor := by simp [State.mute]
@[simp] theorem recover_anchor (due e) : (s.recover due e).2.anchor = s.anchor := by
  simp only [State.recover]
  (repeat' split) <;> simp
@[simp] theorem tally_anchor (d) : (s.tally d).anchor = s.anchor := by simp [State.tally]
@[simp] theorem recoverEntry_anchor (due e) : (s.recoverEntry due e).anchor = s.anchor := by simp [State.recoverEntry]
@[simp] theorem resumeEntry_anchor (due e) : (s.resumeEntry due e).anchor = s.anchor := by
  simp only [State.resumeEntry]
  split <;> simp
@[simp] theorem restartSources_anchor : s.restartSources.anchor = s.anchor := by simp [State.restartSources]
@[simp] theorem newTally_anchor : s.newTally.anchor = s.anchor := by simp [State.newTally]
@[simp] theorem recoverAll_anchor : s.recoverAll.anchor = s.anchor := by simp [State.recoverAll]
@[simp] theorem endScan_anchor : s.endScan.anchor = s.anchor := by simp [State.endScan]
@[simp] theorem recoverLedger_anchor : s.recoverLedger.anchor = s.anchor := by simp [State.recoverLedger]
@[simp] theorem resumeLedger_anchor : s.resumeLedger.anchor = s.anchor := by simp [State.resumeLedger]
@[simp] theorem ratesLogged_anchor (logged) : (s.ratesLogged logged).anchor = s.anchor := by simp [State.ratesLogged]
@[simp] theorem takeQueue_anchor : s.takeQueue.anchor = s.anchor := by
  unfold State.takeQueue
  simp only [anchor_mk, anchor_fold, ratesLogged_anchor]
  exact (foldl_keeps (fun x : State × List (HwEvent × Word) => x.1.anchor) _ (fun x e => by simp) _ _).trans (by simp)
@[simp] theorem reportReset_anchor (boot) : (s.reportReset boot).anchor = s.anchor := by simp [State.reportReset]
@[simp] theorem reportFirmware_anchor : s.reportFirmware.anchor = s.anchor := by
  simp only [State.reportFirmware]
  (repeat' split) <;> simp
@[simp] theorem rebuildTable_anchor : s.rebuildTable.anchor = s.anchor := by simp [State.rebuildTable]
@[simp] theorem reportLapse_anchor : s.reportLapse.anchor = s.anchor := by simp [State.reportLapse]

end Sys2Proof.Machine
end

section
/-!
LAWS. What the access of a register leaves alone: one lemma per register block.
-/
namespace Sys2Proof.Machine

variable (s : State)

@[simp] theorem roReg_act (val mask lo v t) : (roReg val mask).act lo v t = t := rfl
@[simp] theorem w1cReg_act (who val mask b inst doms lo v t) :
    (w1cReg who val mask b inst doms).act lo v t = t.onLatch b inst fun w => w &&& ~~~(v &&& mask) := rfl
@[simp] theorem clearReg_act (who f doms lo v t) : (clearReg who f doms).act lo v t = if testBit v 0 then f t else t := rfl
@[simp] theorem rwReg_act (val mask who set range doms lo v t) :
    (rwReg val mask who set range doms).act lo v t = set (v &&& mask) t := rfl

/-- A write of the register moves nothing of the anchor. -/
def Access.Keeps (a : Access) : Prop := ∀ lo v t, (a.act lo v t).anchor = t.anchor

theorem abayAccess_keeps (p a r) : (abayAccess p a r s).Keeps := by
  intro lo v t
  cases r
  case so =>
    simp only [abayAccess]
    split <;> simp
  all_goals simp [abayAccess, cmpAccess]
theorem xbarAccess_keeps (p r) : (xbarAccess p r s).Keeps := by
  intro lo v t
  cases r <;> simp [xbarAccess]
theorem adcAccess_keeps (p n r) : (adcAccess p n r s).Keeps := by
  intro lo v t
  cases r <;> simp [adcAccess]
theorem convAccess_keeps (p r) : (convAccess p r s).Keeps := by
  intro lo v t
  cases r <;> simp [convAccess]
theorem wdacAccess_keeps (p n r) : (wdacAccess p n r s).Keeps := by
  intro lo v t
  cases r <;> simp [wdacAccess]
theorem calAccess_keeps (p r) : (calAccess p r s).Keeps := by
  intro lo v t
  cases r
  case coefApply =>
    simp only [calAccess]
    split <;> simp
  all_goals simp [calAccess]
theorem linAccess_keeps (p r) : (linAccess p r s).Keeps := by
  intro lo v t
  cases r <;> simp [linAccess]
theorem ioAccess_keeps (p r) : (ioAccess p r s).Keeps := by
  intro lo v t
  cases r <;> simp [ioAccess]
theorem prbAccess_keeps (p r) : (prbAccess p r s).Keeps := by
  intro lo v t
  cases r <;> simp [prbAccess]
theorem memAccess_keeps (p d r) : (memAccess p d r s).Keeps := by
  intro lo v t
  cases r <;> simp [memAccess]
theorem cfgAccess_keeps (p d r) : (cfgAccess p d r s).Keeps := by
  intro lo v t
  cases r <;> simp [cfgAccess]
theorem partAccess_keeps (p r) : (partAccess p r s).Keeps := by
  intro lo v t
  cases r <;> simp [partAccess]
theorem keyAccess_keeps (p r) : (keyAccess p r s).Keeps := by
  intro lo v t
  cases r <;> simp [keyAccess]
theorem sashAccess_keeps (p r) : (sashAccess p r s).Keeps := by
  intro lo v t
  cases r <;> simp [sashAccess]
theorem canAccess_keeps (p r) : (canAccess p r s).Keeps := by
  intro lo v t
  cases r <;> simp [canAccess]
theorem rcAccess_keeps (p port r) : (rcAccess p port r s).Keeps := by
  intro lo v t
  cases r <;> simp [rcAccess]
theorem routeAccess_keeps (p e) : (routeAccess p e s).Keeps := by
  intro lo v t
  simp [routeAccess]
theorem lnkAccess_keeps (p port r) : (lnkAccess p port r s).Keeps := by
  intro lo v t
  cases r <;> simp [lnkAccess]
theorem arbAccess_keeps (p r) : (arbAccess p r s).Keeps := by
  intro lo v t
  cases r <;> simp [arbAccess]
theorem orqAccess_keeps (p r) : (orqAccess p r s).Keeps := by
  intro lo v t
  cases r <;> simp [orqAccess]
theorem repAccess_keeps (p r) : (repAccess p r s).Keeps := by
  intro lo v t
  cases r <;> simp [repAccess]
theorem fwAccess_keeps (p r) : (fwAccess p r s).Keeps := by
  intro lo v t
  cases r <;> simp [fwAccess]
theorem pwrAccess_keeps (p r) : (pwrAccess p r s).Keeps := by
  intro lo v t
  cases r <;> simp [pwrAccess]
theorem clkAccess_keeps (p r) : (clkAccess p r s).Keeps := by
  intro lo v t
  cases r <;> simp [clkAccess]
theorem injAccess_keeps (p r) : (injAccess p r s).Keeps := by
  intro lo v t
  cases r <;> simp [injAccess]
theorem kprAccess_keeps (p r) : (kprAccess p r s).Keeps := by
  intro lo v t
  cases r <;> simp [kprAccess]
theorem ldgAccess_keeps (p r) : (ldgAccess p r s).Keeps := by
  intro lo v t
  cases r <;> simp [ldgAccess]

/-- No register's write moves anything of the anchor. -/
theorem Reg.access_keeps (p : Fin 32) (r : Reg) : (r.access p s).Keeps := by
  cases r with
  | kpr r => exact kprAccess_keeps s p r
  | inj r => exact injAccess_keeps s p r
  | clk r => exact clkAccess_keeps s p r
  | pwr r => exact pwrAccess_keeps s p r
  | sash r => exact sashAccess_keeps s p r
  | ldg r => exact ldgAccess_keeps s p r
  | part r => exact partAccess_keeps s p r
  | key r => exact keyAccess_keeps s p r
  | fw r => exact fwAccess_keeps s p r
  | can r => exact canAccess_keeps s p r
  | prb r => exact prbAccess_keeps s p r
  | arb r => exact arbAccess_keeps s p r
  | orq r => exact orqAccess_keeps s p r
  | cal r => exact calAccess_keeps s p r
  | rep r => exact repAccess_keeps s p r
  | lnk q r => exact lnkAccess_keeps s p q r
  | rc q r => exact rcAccess_keeps s p q r
  | route e => exact routeAccess_keeps s p e
  | abay a r => exact abayAccess_keeps s p a r
  | adc n r => exact adcAccess_keeps s p n r
  | xbar r => exact xbarAccess_keeps s p r
  | conv r => exact convAccess_keeps s p r
  | wdac n r => exact wdacAccess_keeps s p n r
  | cfg d r => exact cfgAccess_keeps s p d r
  | mem d r => exact memAccess_keeps s p d r
  | lin r => exact linAccess_keeps s p r
  | io r => exact ioAccess_keeps s p r

@[simp] theorem readWord_anchor (a) : (s.readWord a).2.anchor = s.anchor := by
  unfold State.readWord
  split <;> simp

/-- The checks of a write and its effect move nothing of the anchor. -/
theorem writeWord_anchor {a : Access} (ha : a.Keeps) (lo v) : (s.writeWord a lo v).2.anchor = s.anchor := by
  unfold State.writeWord
  simp only
  (repeat' split) <;> simp [ha _ _ _]

end Sys2Proof.Machine
end

section
/-!
LAWS. Reads and writes of registers (R5, R6), and what the command pipeline keeps.
-/
namespace Sys2Proof.Machine

variable (s : State)

/-! #### Reads -/

@[simp] theorem wideValue_anchor (p rs) : (s.wideValue p rs).2.anchor = s.anchor := by
  induction rs generalizing s with
  | nil => rfl
  | cons r rs ih => simp [State.wideValue, ih]

/-- The read of a field's lowest word takes the snapshot of the whole field. -/
theorem readReg_low (p) {r : Reg} (h : r.words ≠ []) :
    s.readReg p r = (BitVec.ofNat 32 (s.wideValue p r.words).1,
      (s.wideValue p r.words).2.takeSnap p r.addr (s.wideValue p r.words).1) := by
  simp [State.readReg, h]

/-- The read of any other word takes none. -/
theorem readReg_anchor (p) {r : Reg} (h : r.words = []) : (s.readReg p r).2.anchor = s.anchor := by
  simp only [State.readReg, h, List.isEmpty_nil, if_true]
  (repeat' split) <;> simp

/-- What a read access moves: nothing of the anchor, but where it is the lowest word of a wide field. -/
theorem readAddr_cases (p addr) : (s.readAddr p addr).2.2.anchor = s.anchor ∨
    ∃ r : Reg, targetAt addr = some (.reg r) ∧ r.words ≠ [] ∧
      (s.readAddr p addr).2.2 = (s.wideValue p r.words).2.takeSnap p r.addr (s.wideValue p r.words).1 := by
  unfold State.readAddr
  split
  · exact .inl rfl
  · exact .inl (windowRead_anchor s _ _ _ _)
  · next r h =>
    by_cases hw : r.words = []
    · exact .inl (readReg_anchor s p hw)
    · exact .inr ⟨r, h, hw, by simp [readReg_low s p hw]⟩

/-! #### Writes -/

/-- The word that a partition has staged for the field whose higher word it writes (R6). -/
def State.lowWord (s : State) (p : Fin 32) (r : Reg) : Option Word :=
  match r.low with
  | some (l, _) => if l.stages then s.stagedAt p l.addr else none
  | none => none

/-- The checks and the effect of a write to a register, without the staging of its own word. -/
def State.writeUnstaged (s : State) (p : Fin 32) (r : Reg) (v : Word) : Byte × State :=
  (s.unstage p).writeWord (r.access p s) (s.lowWord p r) v

theorem writeReg_eq (p r v) : s.writeReg p r v =
    if r.stages && (s.writeUnstaged p r v).1 = Status.done then
      ((s.writeUnstaged p r v).1, { (s.writeUnstaged p r v).2 with
        staged := (s.writeUnstaged p r v).2.staged ++ [{ part := p, addr := r.addr, value := v.toNat }] })
    else s.writeUnstaged p r v := rfl

theorem writeUnstaged_anchor (p r v) : (s.writeUnstaged p r v).2.anchor = (s.unstage p).anchor :=
  writeWord_anchor _ (r.access_keeps s p) _ v

theorem writeUnstaged_staged (p r v) : (s.writeUnstaged p r v).2.staged = s.staged.filter fun x => x.part ≠ p :=
  congrArg (fun a => a.2.2.1) (writeUnstaged_anchor s p r v)

/-- What a write access to a register leaves staged. -/
theorem writeReg_staged (p r v) : (s.writeReg p r v).2.staged = s.staged.filter (fun x => x.part ≠ p) ∨
    r.stages = true ∧ (s.writeReg p r v).1 = Status.done ∧
      (s.writeReg p r v).2.staged = s.staged.filter (fun x => x.part ≠ p) ++
        [{ part := p, addr := r.addr, value := v.toNat }] := by
  rw [writeReg_eq]
  split
  · next hd =>
    rw [Bool.and_eq_true, decide_eq_true_eq] at hd
    exact .inr ⟨hd.1, hd.2, congrArg (· ++ _) (writeUnstaged_staged s p r v)⟩
  · exact .inl (writeUnstaged_staged s p r v)

/-! #### What register accesses leave alone -/

/-- What a register access leaves alone too: the phase of the module, the model's clock and the queue. -/
def State.footing (s : State) : Phase × Nat × List Instr := (s.pwr.phase, s.ck, s.pending)

theorem footing_of_anchor {s t : State} (h : t.anchor = s.anchor) : t.footing = s.footing :=
  congrArg (fun a => (a.1, a.2.2.2)) h

theorem readReg_footing (p r) : (s.readReg p r).2.footing = s.footing := by
  by_cases h : r.words = []
  · exact footing_of_anchor (readReg_anchor s p h)
  · rw [readReg_low s p h]
    exact footing_of_anchor (t := (s.wideValue p r.words).2) (wideValue_anchor s p _)

theorem readAddr_footing (p addr) : (s.readAddr p addr).2.2.footing = s.footing := by
  unfold State.readAddr
  split
  · rfl
  · exact footing_of_anchor (windowRead_anchor s _ _ _ _)
  · exact readReg_footing s p _

theorem writeReg_footing (p r v) : (s.writeReg p r v).2.footing = s.footing := by
  have h := footing_of_anchor (writeUnstaged_anchor s p r v)
  rw [writeReg_eq]
  split <;> exact h

theorem writeAddr_footing (p addr v) : (s.writeAddr p addr v).2.footing = s.footing := by
  unfold State.writeAddr
  split
  · rfl
  · exact footing_of_anchor (s := s.unstage p) (windowWrite_anchor _ _ _ _ _ _)
  · exact writeReg_footing s p _ v

theorem writeAt_footing (p addr v) : (s.writeAt p addr v).footing = s.footing := writeAddr_footing s p addr v

theorem writeOne_footing {a : State → Access} (ha : ∀ t, (a t).Keeps) (p v) : (s.writeOne p a v).footing = s.footing :=
  footing_of_anchor (s := s.unstage p) (t := ((s.unstage p).writeWord _ none v).2) (writeWord_anchor _ (ha _) none v)

theorem onLatch_footing (b i f) : (s.onLatch b i f).footing = s.footing := footing_of_anchor (onLatch_anchor s b i f)

theorem readWords_footing (p addr n i ws) : (s.readWords p addr n i ws).2.footing = s.footing := by
  induction n generalizing s i ws with
  | zero => rfl
  | succ n ih =>
    unfold State.readWords
    simp only
    split
    · rw [ih, readAddr_footing]
    · exact readAddr_footing s p _

theorem writeWords_footing (p addr ws i) : (s.writeWords p addr ws i).2.footing = s.footing := by
  induction ws generalizing s i with
  | nil => rfl
  | cons w ws ih =>
    unfold State.writeWords
    simp only
    split
    · rw [ih, writeAddr_footing]
    · exact writeAddr_footing s p _ w

theorem runRegRead_footing (p addr count) : (runRegRead p addr count s).1.footing = s.footing := by
  unfold runRegRead
  split
  · rfl
  · exact readWords_footing s _ _ _ _ _

theorem runRegWrite_footing (p addr ws) : (runRegWrite p addr ws s).1.footing = s.footing :=
  writeWords_footing s p _ ws 0

theorem runRegModify_footing (p addr mask value) : (runRegModify p addr mask value s).1.footing = s.footing := by
  unfold runRegModify
  simp only
  split
  · exact readAddr_footing s p _
  · exact (writeAddr_footing _ p _ _).trans (readAddr_footing s p _)

/-! #### The command pipeline -/

/-- A property of states that the anchor decides. -/
def Anchored (I : State → Prop) : Prop := ∀ ⦃s t : State⦄, t.anchor = s.anchor → I s → I t

theorem journal_anchor {h sp ps} {t : State} (ht : s.journal h sp ps = some t) : t.anchor = s.anchor := by
  unfold State.journal at ht
  simp only at ht
  split at ht
  · cases ht
  · next g u e =>
    have hu : u.anchor = s.anchor := by simpa using congrArg (fun x => x.2.anchor) e.symm
    cases ht
    split <;> simp [hu]

@[simp] theorem evictFor_anchor (n) : (s.evictFor n).anchor = s.anchor := by
  induction n generalizing s with
  | zero => rfl
  | succ n ih =>
    unfold State.evictFor
    split
    · split
      · rw [ih, evict_anchor]
      · rfl
    · rfl

section
variable {I : State → Prop} (hI : Anchored I) {run : Run} (hrun : ∀ t, I t → I (run t).1)
include hI

/-- The steps before the journal keep what the anchor decides, if what follows them does. -/
theorem checkPacket_anchored {rest : State → State} (hrest : ∀ t, I t → I (rest t)) (h op ps) (hs : I s) :
    I (s.checkPacket h op ps rest) := by
  have hc (bad : Bool) : (if h.auth || s.part.quota[h.part].auth then s.check 0x202 (BitVec.ofNat 8 h.part.val) bad
      else (false, false, s)).2.2.anchor = s.anchor := by
    split <;> simp
  unfold State.checkPacket
  extract_lets bad
  split
  · exact hI (by simp) hs
  · split
    · exact hI (by simp) hs
    · have hu := hc bad
      simp only
      generalize (if h.auth || s.part.quota[h.part].auth then s.check 0x202 (BitVec.ofNat 8 h.part.val) bad
        else (false, false, s)) = x at hu ⊢
      split
      · exact hI (by simp [hu]) hs
      · split
        · exact hrest _ (hI hu hs)
        · split
          · exact hI (by simp [hu]) hs
          · split
            · exact hI (by simp [hu]) hs
            · exact hrest _ (hI hu hs)

/-- What is dropped before the checks keeps it too. -/
theorem receive_anchored {rest : State → State} (hrest : ∀ t, I t → I (rest t)) (h op ps) (hs : I s) :
    I (s.receive h op ps rest) := by
  unfold State.receive
  extract_lets low onCan
  split
  · exact hs
  · split
    · split
      · exact hI (by simp) hs
      · exact hs
    · split
      · exact hI (by simp) hs
      · split
        · exact hI (by simp) hs
        · split
          · exact hI (by simp) hs
          · exact checkPacket_anchored s hI hrest h op ps hs

include hrun

/-- The start of a command keeps what the anchor decides, if its run does. -/
theorem start_anchored (c) (hs : I s) : I (s.start c run) := by
  have h := hrun _ (hI (begun_anchor s c) hs)
  unfold State.start
  split
  · next t r e => exact hI (finish_anchor _ _ _) (by simpa [e] using h)
  · next t e => simpa [e] using h

theorem accept_anchored (i h sp ps) (hs : I s) : I (s.accept i h sp ps run) := by
  unfold State.accept
  split
  · exact hI (by simp) hs
  · split
    · exact hI (by simp) hs
    · split
      · exact hI (by simp) hs
      · split
        · have h := hrun _ (hI (auditCodes_anchor s sp.codes) hs)
          simp only
          split
          · exact hI (by simp) h
          · exact h
        · split
          · exact hI (by simp) hs
          · split
            · exact hI (by simp) hs
            · split
              · exact hI (by simp) hs
              · split
                · exact hI (by simp) hs
                · next u e =>
                  have hu : u.anchor = s.anchor := (journal_anchor _ e).trans (evictFor_anchor s _)
                  extract_lets waits v
                  have hv : v.anchor = s.anchor := by
                    unfold v
                    split <;> simp [hu]
                  split
                  · exact hI (by simp [hv]) hs
                  · exact start_anchored _ hI hrun _ (hI hv hs)

/-- A Darem command keeps what the anchor decides, if its run does. -/
theorem darem_anchored (i h sp ps) (hs : I s) {t : State} (ht : darem i h sp ps run s = .next t) : I t := by
  cases ht
  have hr (u : State) (hu : I u) : I ((fun s => run (sp.doms.foldl State.auditDom s)) u).1 := hrun _ (hI (by simp) hu)
  (repeat' split)
  · exact hI (by simp) hs
  · exact hs
  · exact hs
  · exact start_anchored _ hI hr _ (hI (by simp) hs)
  · exact receive_anchored _ hI (fun u hu => accept_anchored u hI hr i h sp ps hu) _ _ _ (hI (by simp) hs)

end

end Sys2Proof.Machine
end

section
/-!
LAWS. Rows of the table that leave the snapshots and the staged words alone, chapter by chapter.
-/
namespace Sys2Proof.Machine

variable (s : State)

/-- The anchor of the state that a command answers. -/
def anchorOf : Outcome → Option (Phase × List Snap × List Snap × Nat × List Instr)
  | .next t => some t.anchor
  | _ => none

@[simp] theorem anchorOf_next : anchorOf (.next s) = some s.anchor := rfl
@[simp] theorem anchorOf_whenHw (f) : anchorOf (whenHw s f) = some (if s.hw then (f s).anchor else s.anchor) := by
  simp [whenHw]
@[simp] theorem anchorOf_whenKpr (f) : anchorOf (whenKpr s f) = some (if s.serves then (f s).anchor else s.anchor) := by
  simp [whenKpr]
@[simp] theorem anchorOf_whenRom (f) : anchorOf (whenRom s f) = some (if s.kpr then (f s).anchor else s.anchor) := by
  simp [whenRom]
@[simp] theorem anchorOf_darem {run : Run} (hrun : ∀ t, (run t).1.anchor = t.anchor) (i h sp ps) :
    anchorOf (darem i h sp ps run s) = some s.anchor :=
  congrArg some (darem_anchored (I := fun t => t.anchor = s.anchor) s (fun _ _ h e => h.trans e) (fun t e => (hrun t).trans e)
    i h sp ps rfl rfl)
theorem whenHw_anchor {f : State → State} (h : (f s).anchor = s.anchor) : anchorOf (whenHw s f) = some s.anchor := by simp [h]
theorem whenKpr_anchor {f : State → State} (h : (f s).anchor = s.anchor) : anchorOf (whenKpr s f) = some s.anchor := by simp [h]
theorem whenRom_anchor {f : State → State} (h : (f s).anchor = s.anchor) : anchorOf (whenRom s f) = some s.anchor := by simp [h]

/-! #### Analogue -/

theorem execSlotSettingsApply_anchor (a k) : anchorOf (execSlotSettingsApply a k s) = some s.anchor := by
  simp [execSlotSettingsApply]
theorem execSlotMaskEnd_anchor (a k) : anchorOf (execSlotMaskEnd a k s) = some s.anchor := by simp [execSlotMaskEnd]
theorem execSlotOverloadDetect_anchor (a k input) : anchorOf (execSlotOverloadDetect a k input s) = some s.anchor := by
  simp [execSlotOverloadDetect]
theorem execSumSaturation_anchor (a volts) : anchorOf (execSumSaturation a volts s) = some s.anchor := by
  simp [execSumSaturation]
theorem execAsbLineClaim_anchor (a k line cls) : anchorOf (execAsbLineClaim a k line cls s) = some s.anchor := by
  simp [execAsbLineClaim]
theorem execSumOutputApply_anchor (a) : anchorOf (execSumOutputApply a s) = some s.anchor := by
  simp [execSumOutputApply]
theorem execXbarApply_anchor : anchorOf (execXbarApply s) = some s.anchor := by simp [execXbarApply]
theorem execComparatorCrossing_anchor (a k hi input) : anchorOf (execComparatorCrossing a k hi input s) = some s.anchor := by
  simp [execComparatorCrossing]
theorem execThresholdLoad_anchor (a) : anchorOf (execThresholdLoad a s) = some s.anchor := by
  simp [execThresholdLoad]

/-! #### Converters -/

theorem execAdcStartEvent_anchor (n) : anchorOf (execAdcStartEvent n s) = some s.anchor := by
  simp [execAdcStartEvent]
theorem execAdcFirstSample_anchor (n w) : anchorOf (execAdcFirstSample n w s) = some s.anchor := by
  simp [execAdcFirstSample]
theorem execAdcSpacingExpiry_anchor (n w) : anchorOf (execAdcSpacingExpiry n w s) = some s.anchor := by
  simp [execAdcSpacingExpiry]
theorem execAdcLoopRestart_anchor (n w) : anchorOf (execAdcLoopRestart n w s) = some s.anchor := by
  simp [execAdcLoopRestart]
theorem execAdcResultQueued_anchor (n) : anchorOf (execAdcResultQueued n s) = some s.anchor := by
  simp [execAdcResultQueued]
theorem execAdcGroupStartEvent_anchor (g) : anchorOf (execAdcGroupStartEvent g s) = some s.anchor := by
  simp [execAdcGroupStartEvent]
theorem execUrgentEvent_anchor (n w) : anchorOf (execUrgentEvent n w s) = some s.anchor := by
  unfold execUrgentEvent
  split <;> simp
theorem execAdcReferenceReady_anchor (n) : anchorOf (execAdcReferenceReady n s) = some s.anchor := by
  simp [execAdcReferenceReady]
theorem execVrefExtOutOfRange_anchor : anchorOf (execVrefExtOutOfRange s) = some s.anchor := by
  simp [execVrefExtOutOfRange]
theorem execVrefExtInRange_anchor : anchorOf (execVrefExtInRange s) = some s.anchor := by simp [execVrefExtInRange]
theorem execAdcGiveback_anchor (n) : anchorOf (execAdcGiveback n s) = some s.anchor := by simp [execAdcGiveback]
theorem execTimerFire_anchor (t) : anchorOf (execTimerFire t s) = some s.anchor := by simp [execTimerFire]
theorem execTimerTakeover_anchor (t cls) : anchorOf (execTimerTakeover t cls s) = some s.anchor := by
  simp [execTimerTakeover]
theorem execTimerGiveback_anchor (t) : anchorOf (execTimerGiveback t s) = some s.anchor := by
  simp [execTimerGiveback]
theorem execAdcStart_anchor (h mask) : anchorOf (execAdcStart h mask s) = some s.anchor := by simp [execAdcStart]
theorem execAdcUrgent_anchor (h adc) : anchorOf (execAdcUrgent h adc s) = some s.anchor := by simp [execAdcUrgent]
theorem execAdcResultPeek_anchor (h adc count) : anchorOf (execAdcResultPeek h adc count s) = some s.anchor := by
  simp [execAdcResultPeek]
theorem execAdcResultPop_anchor (h adc count tag) : anchorOf (execAdcResultPop h adc count tag s) = some s.anchor := by
  simp [execAdcResultPop]
theorem execAdcStatusGet_anchor (h adc) : anchorOf (execAdcStatusGet h adc s) = some s.anchor := by
  simp [execAdcStatusGet]
theorem execAdcGroupSet_anchor (h group mask src edge delay) :
    anchorOf (execAdcGroupSet h group mask src edge delay s) = some s.anchor := by
  simp [execAdcGroupSet]
theorem execTmrSet_anchor (h timer mode period offset en) :
    anchorOf (execTmrSet h timer mode period offset en s) = some s.anchor := by
  simp [execTmrSet]

/-! #### Waveform -/

theorem execWdacGiveback_anchor (n) : anchorOf (execWdacGiveback n s) = some s.anchor := by simp [execWdacGiveback]
theorem execWdacStartEvent_anchor (n) : anchorOf (execWdacStartEvent n s) = some s.anchor := by
  simp [execWdacStartEvent]
theorem execWdacTick_anchor (n) : anchorOf (execWdacTick n s) = some s.anchor := by
  refine whenHw_anchor s ?_
  simp only
  (repeat' split) <;> simp
theorem execWdacStaticApply_anchor (n) : anchorOf (execWdacStaticApply n s) = some s.anchor := by
  simp [execWdacStaticApply]
theorem execWdacQueueWrite_anchor (h n count samples) : anchorOf (execWdacQueueWrite h n count samples s) = some s.anchor := by
  simp [execWdacQueueWrite]
theorem execWdacTableLoad_anchor (h n addr count entries) :
    anchorOf (execWdacTableLoad h n addr count entries s) = some s.anchor := by
  simp [execWdacTableLoad]
theorem execWdacControl_anchor (h mask action) : anchorOf (execWdacControl h mask action s) = some s.anchor := by
  simp [execWdacControl]

/-! #### Calibration -/

theorem execCalNoticeExpiry_anchor (j) : anchorOf (execCalNoticeExpiry j s) = some s.anchor := by
  refine whenHw_anchor s ?_
  (repeat' split) <;> simp
theorem execAdcTakeover_anchor (n cls) : anchorOf (execAdcTakeover n cls s) = some s.anchor := by
  simp [execAdcTakeover]
theorem execWdacTakeover_anchor (n cls) : anchorOf (execWdacTakeover n cls s) = some s.anchor := by
  simp [execWdacTakeover]
theorem execCalOutageEnd_anchor (j r real) : anchorOf (execCalOutageEnd j r real s) = some s.anchor := by
  refine whenHw_anchor s ?_
  split <;> simp
theorem execCalGapStepStart_anchor (j) : anchorOf (execCalGapStepStart j s) = some s.anchor := by
  refine whenHw_anchor s ?_
  simp only
  (repeat' split) <;> simp
theorem execCalGapStepEnd_anchor (j r real) : anchorOf (execCalGapStepEnd j r real s) = some s.anchor := by
  refine whenHw_anchor s ?_
  (repeat' split) <;> simp
theorem execCalSysTimeout_anchor (j) : anchorOf (execCalSysTimeout j s) = some s.anchor := by
  refine whenHw_anchor s ?_
  split <;> simp
theorem execCalCoefTakeEffect_anchor : anchorOf (execCalCoefTakeEffect s) = some s.anchor := by
  simp [execCalCoefTakeEffect]
theorem execCalRun_anchor (h type index kind mode apply) :
    anchorOf (execCalRun h type index kind mode apply s) = some s.anchor := by
  simp [execCalRun]
theorem execCalSysPoint_anchor (h adc point expected) : anchorOf (execCalSysPoint h adc point expected s) = some s.anchor := by
  simp [execCalSysPoint]
theorem execCalAbort_anchor (h type index) : anchorOf (execCalAbort h type index s) = some s.anchor := by
  simp [execCalAbort]
theorem execCalCoefGet_anchor (h type index) : anchorOf (execCalCoefGet h type index s) = some s.anchor := by
  simp [execCalCoefGet]
theorem execCalCoefSet_anchor (h blob) : anchorOf (execCalCoefSet h blob s) = some s.anchor := by
  simp [execCalCoefSet]
theorem execCalCoefNeutral_anchor (h type index) : anchorOf (execCalCoefNeutral h type index s) = some s.anchor := by
  simp [execCalCoefNeutral]

/-! #### Fabric -/

theorem execLinCommitApply_anchor : anchorOf (execLinCommitApply s) = some s.anchor := by simp [execLinCommitApply]
theorem execLinRouteSet_anchor (h commit count pairs) : anchorOf (execLinRouteSet h commit count pairs s) = some s.anchor := by
  simp [execLinRouteSet]
theorem execLinRouteGet_anchor (h dst count) : anchorOf (execLinRouteGet h dst count s) = some s.anchor := by
  simp [execLinRouteGet]

/-! #### Memory -/

theorem execMemoryPortRead_anchor (d m portB entry flips) :
    anchorOf (execMemoryPortRead d m portB entry flips s) = some s.anchor := by
  simp [execMemoryPortRead]
theorem execMemoryPortWrite_anchor (d m wa wb) : anchorOf (execMemoryPortWrite d m wa wb s) = some s.anchor := by
  refine whenHw_anchor s ?_
  simp only
  (repeat' split) <;> simp
theorem execMemScrubWord_anchor (d m flips) : anchorOf (execMemScrubWord d m flips s) = some s.anchor := by
  simp [execMemScrubWord]
theorem execFifoPush_anchor (d m v popToo) : anchorOf (execFifoPush d m v popToo s) = some s.anchor := by
  simp [execFifoPush]
theorem execFifoPop_anchor (d m) : anchorOf (execFifoPop d m s) = some s.anchor := by simp [execFifoPop]
theorem execLookbackRequest_anchor (d m start lenM1) : anchorOf (execLookbackRequest d m start lenM1 s) = some s.anchor := by
  simp [execLookbackRequest]
theorem execLookbackDeferredEval_anchor (d m) : anchorOf (execLookbackDeferredEval d m s) = some s.anchor := by
  refine whenHw_anchor s ?_
  simp only
  (repeat' split) <;> simp
theorem execMemSettingsApply_anchor (d m) : anchorOf (execMemSettingsApply d m s) = some s.anchor := by
  simp [execMemSettingsApply]
theorem execIoCellApply_anchor (i) : anchorOf (execIoCellApply i s) = some s.anchor := by simp [execIoCellApply]
theorem execPeepholeApply_anchor (d k) : anchorOf (execPeepholeApply d k s) = some s.anchor := by
  simp [execPeepholeApply]
theorem execPrbCaptureTrigger_anchor : anchorOf (execPrbCaptureTrigger s) = some s.anchor := by
  simp [execPrbCaptureTrigger]
theorem execPrbCaptureComplete_anchor : anchorOf (execPrbCaptureComplete s) = some s.anchor := by
  simp [execPrbCaptureComplete]
theorem execPrbSelect_anchor (h probe bay peep net en) : anchorOf (execPrbSelect h probe bay peep net en s) = some s.anchor := by
  simp [execPrbSelect]
theorem execPrbCaptureArm_anchor (h trig pre pattern mask et) :
    anchorOf (execPrbCaptureArm h trig pre pattern mask et s) = some s.anchor := by
  simp [execPrbCaptureArm]
theorem execPrbCaptureRead_anchor (h start count) : anchorOf (execPrbCaptureRead h start count s) = some s.anchor := by
  simp [execPrbCaptureRead]
theorem execPrbAuxSet_anchor (h en) : anchorOf (execPrbAuxSet h en s) = some s.anchor := by simp [execPrbAuxSet]

/-! #### Configuration images and scan -/

theorem execCfgBufLapse_anchor : anchorOf (execCfgBufLapse s) = some s.anchor := by simp [execCfgBufLapse]
theorem execCfgLoadStart_anchor : anchorOf (execCfgLoadStart s) = some s.anchor := by
  refine whenHw_anchor s ?_
  simp only
  (repeat' split) <;> simp
theorem execCfgFrameWrite_anchor (bad) : anchorOf (execCfgFrameWrite bad s) = some s.anchor := by
  refine whenHw_anchor s ?_
  simp only
  (repeat' split) <;> simp
theorem execCfgLoadFinish_anchor : anchorOf (execCfgLoadFinish s) = some s.anchor := by
  refine whenHw_anchor s ?_
  split <;> simp
theorem execCfgStoreCommit_anchor (ok) : anchorOf (execCfgStoreCommit ok s) = some s.anchor := by
  refine whenKpr_anchor s ?_
  split <;> simp
theorem execStoreAreaErase_anchor (a ok) : anchorOf (execStoreAreaErase a ok s) = some s.anchor := by
  simp [execStoreAreaErase]
theorem execScrubFrameVisit_anchor (found) : anchorOf (execScrubFrameVisit found s) = some s.anchor := by
  refine whenHw_anchor s ?_
  simp only
  (repeat' split) <;> simp
theorem execFaultActionApply_anchor (d) : anchorOf (execFaultActionApply d s) = some s.anchor := by
  simp [execFaultActionApply]
theorem execCfgBufOpen_anchor (h) : anchorOf (execCfgBufOpen h s) = some s.anchor := by simp [execCfgBufOpen]
theorem execCfgBufWrite_anchor (h offset count data) : anchorOf (execCfgBufWrite h offset count data s) = some s.anchor := by
  simp [execCfgBufWrite]
theorem execCfgBufClose_anchor (h release) : anchorOf (execCfgBufClose h release s) = some s.anchor := by
  simp [execCfgBufClose]
theorem execCfgLoad_anchor (h bay source) : anchorOf (execCfgLoad h bay source s) = some s.anchor := by
  simp [execCfgLoad]
theorem execCfgStoreSave_anchor (h slot) : anchorOf (execCfgStoreSave h slot s) = some s.anchor := by
  simp [execCfgStoreSave]
theorem execCfgStoreErase_anchor (h slot) : anchorOf (execCfgStoreErase h slot s) = some s.anchor := by
  simp [execCfgStoreErase]
theorem execCfgStoreInfo_anchor (h slot) : anchorOf (execCfgStoreInfo h slot s) = some s.anchor := by
  simp [execCfgStoreInfo]
theorem execCfgStatusGet_anchor (h bay) : anchorOf (execCfgStatusGet h bay s) = some s.anchor := by
  simp [execCfgStatusGet]
theorem execBayResetAssert_anchor (i) : anchorOf (execBayResetAssert i s) = some s.anchor := by
  unfold execBayResetAssert
  split <;> simp
theorem execBayResetRelease_anchor (i) : anchorOf (execBayResetRelease i s) = some s.anchor := by
  unfold execBayResetRelease
  split <;> simp

/-! #### Partition -/

theorem execOwnershipRecordCommit_anchor : anchorOf (execOwnershipRecordCommit s) = some s.anchor := by
  simp [execOwnershipRecordCommit]
theorem execKeyRecordCommit_anchor : anchorOf (execKeyRecordCommit s) = some s.anchor := by
  simp [execKeyRecordCommit]
theorem execKeyLeaseExpiry_anchor (p g) : anchorOf (execKeyLeaseExpiry p g s) = some s.anchor := by
  simp [execKeyLeaseExpiry]
theorem execPartGrant_anchor (h part count codes) : anchorOf (execPartGrant h part count codes s) = some s.anchor := by
  simp [execPartGrant]
theorem execPartRevoke_anchor (h part limit count codes) :
    anchorOf (execPartRevoke h part limit count codes s) = some s.anchor := by
  simp [execPartRevoke]
theorem execPartTableGet_anchor (h first count) : anchorOf (execPartTableGet h first count s) = some s.anchor := by
  simp [execPartTableGet]
theorem execKeyWrite_anchor (h target mode wrapped kcv) :
    anchorOf (execKeyWrite h target mode wrapped kcv s) = some s.anchor := by
  simp [execKeyWrite]
theorem execKeyErase_anchor (h target) : anchorOf (execKeyErase h target s) = some s.anchor := by
  simp [execKeyErase]
theorem execKeyStatusGet_anchor (h target) : anchorOf (execKeyStatusGet h target s) = some s.anchor := by
  simp [execKeyStatusGet]
theorem execPartQuotaSet_anchor (h part min max auth) : anchorOf (execPartQuotaSet h part min max auth s) = some s.anchor := by
  simp [execPartQuotaSet]

/-! #### Sash -/

theorem execSashPinChange_anchor (l sp) : anchorOf (execSashPinChange l sp s) = some s.anchor := by
  refine whenHw_anchor s ?_
  simp only
  (repeat' split) <;> simp
theorem execSashMateTimer_anchor : anchorOf (execSashMateTimer s) = some s.anchor := by simp [execSashMateTimer]
theorem execSashIdentityRead_anchor (ack ident pages real) :
    anchorOf (execSashIdentityRead ack ident pages real s) = some s.anchor := by
  simp [execSashIdentityRead]
theorem execSashAbsentProbe_anchor (ack) : anchorOf (execSashAbsentProbe ack s) = some s.anchor := by
  simp [execSashAbsentProbe]
theorem execSashIdRetry_anchor (ack ident pages) : anchorOf (execSashIdRetry ack ident pages s) = some s.anchor := by
  simp [execSashIdRetry]
theorem execBiasRampStep_anchor (current) : anchorOf (execBiasRampStep current s) = some s.anchor := by
  simp [execBiasRampStep]
theorem execLifePeriodExpiry_anchor : anchorOf (execLifePeriodExpiry s) = some s.anchor := by
  simp [execLifePeriodExpiry]
theorem execLifePageVerify_anchor (ok) : anchorOf (execLifePageVerify ok s) = some s.anchor := by
  refine whenKpr_anchor s ?_
  split <;> simp
theorem execLifeWriteResume_anchor : anchorOf (execLifeWriteResume s) = some s.anchor := by
  simp [execLifeWriteResume]
theorem execPeakTSample_anchor (t) : anchorOf (execPeakTSample t s) = some s.anchor := by
  unfold execPeakTSample
  split <;> simp
theorem execSashInfoGet_anchor (h) : anchorOf (execSashInfoGet h s) = some s.anchor := by simp [execSashInfoGet]
theorem execSashExpectSet_anchor (h t) : anchorOf (execSashExpectSet h t s) = some s.anchor := by
  simp [execSashExpectSet]
theorem execSashBiasSet_anchor (h g0 g1 g2 g3 rate) : anchorOf (execSashBiasSet h g0 g1 g2 g3 rate s) = some s.anchor := by
  simp [execSashBiasSet]
theorem execSashLifeGet_anchor (h) : anchorOf (execSashLifeGet h s) = some s.anchor := by simp [execSashLifeGet]

/-! #### CAN -/

theorem execCanFrameReceive_anchor (frame errors) : anchorOf (execCanFrameReceive frame errors s) = some s.anchor := by
  unfold execCanFrameReceive
  (repeat' split) <;> simp
theorem execCanReassemblyTimeout_anchor (id) : anchorOf (execCanReassemblyTimeout id s) = some s.anchor := by
  simp [execCanReassemblyTimeout]
theorem execCanFrameSent_anchor : anchorOf (execCanFrameSent s) = some s.anchor := by
  unfold execCanFrameSent
  (repeat' split) <;> simp
theorem execCanTransmitError_anchor (ackError) : anchorOf (execCanTransmitError ackError s) = some s.anchor := by
  simp [execCanTransmitError]
theorem execCanFrameAbandon_anchor : anchorOf (execCanFrameAbandon s) = some s.anchor := by
  simp [execCanFrameAbandon]
theorem execCanAloneAnnounce_anchor (acked) : anchorOf (execCanAloneAnnounce acked s) = some s.anchor := by
  simp [execCanAloneAnnounce]
theorem execCanDupAnnounce_anchor : anchorOf (execCanDupAnnounce s) = some s.anchor := by simp [execCanDupAnnounce]
theorem execCanBusOffRecovery_anchor : anchorOf (execCanBusOffRecovery s) = some s.anchor := by
  simp [execCanBusOffRecovery]
theorem execCanCtrlApply_anchor : anchorOf (execCanCtrlApply s) = some s.anchor := by simp [execCanCtrlApply]
theorem execDiscover_anchor (h) : anchorOf (execDiscover h s) = some s.anchor := by simp [execDiscover]
theorem execDiscoverDelayedResponse_anchor : anchorOf (execDiscoverDelayedResponse s) = some s.anchor := by
  refine whenRom_anchor s ?_
  (repeat' split) <;> simp
theorem execStrapReading_anchor (ga ca) : anchorOf (execStrapReading ga ca s) = some s.anchor := by
  simp [execStrapReading]
theorem execStrapPeriodicCheck_anchor (ga ca) : anchorOf (execStrapPeriodicCheck ga ca s) = some s.anchor := by
  refine whenHw_anchor s ?_
  split
  · simp only
    split <;> simp
  · rfl

/-! #### Channel -/

theorem execFlitChoice_anchor (p ecc) : anchorOf (execFlitChoice p ecc s) = some s.anchor := by
  refine whenHw_anchor s ?_
  simp only
  (repeat' split) <;> simp
theorem execFlitArrival_anchor (p flit) : anchorOf (execFlitArrival p flit s) = some s.anchor := by
  simp [execFlitArrival]
theorem execFlitDelivery_anchor (p v) : anchorOf (execFlitDelivery p v s) = some s.anchor := by
  refine whenHw_anchor s ?_
  split <;> simp
theorem execReplayTimerExpiry_anchor (p v real) : anchorOf (execReplayTimerExpiry p v real s) = some s.anchor := by
  refine whenHw_anchor s ?_
  simp only
  (repeat' split) <;> simp
theorem execLnkRouteSet_anchor (h entry count vals) : anchorOf (execLnkRouteSet h entry count vals s) = some s.anchor := by
  simp [execLnkRouteSet]
theorem execLnkRcStatusGet_anchor (h port) : anchorOf (execLnkRcStatusGet h port s) = some s.anchor := by
  simp [execLnkRcStatusGet]

/-! #### Links -/

theorem execLnkTxApply_anchor (p) : anchorOf (execLnkTxApply p s) = some s.anchor := by simp [execLnkTxApply]
theorem execLinkSynthSettled_anchor (p) : anchorOf (execLinkSynthSettled p s) = some s.anchor := by
  simp [execLinkSynthSettled]
theorem execLinkSeekDone_anchor (p) : anchorOf (execLinkSeekDone p s) = some s.anchor := by simp [execLinkSeekDone]
theorem execLinkDeskewDone_anchor (p) : anchorOf (execLinkDeskewDone p s) = some s.anchor := by
  simp [execLinkDeskewDone]
theorem execTrainingBlockReceived_anchor (p block trip arrival) :
    anchorOf (execTrainingBlockReceived p block trip arrival s) = some s.anchor := by
  simp [execTrainingBlockReceived]
theorem execLinkExchangeDone_anchor (p drift) : anchorOf (execLinkExchangeDone p drift s) = some s.anchor := by
  refine whenHw_anchor s ?_
  simp only
  (repeat' split) <;> simp
theorem execRefusalCleared_anchor (p) : anchorOf (execRefusalCleared p s) = some s.anchor := by
  simp [execRefusalCleared]
theorem execLinkLevelDone_anchor (p) : anchorOf (execLinkLevelDone p s) = some s.anchor := by
  simp [execLinkLevelDone]
theorem execLockLossDetect_anchor (p real) : anchorOf (execLockLossDetect p real s) = some s.anchor := by
  simp [execLockLossDetect]
theorem execLockRestore_anchor (p same lost) : anchorOf (execLockRestore p same lost s) = some s.anchor := by
  simp [execLockRestore]
theorem execLinkDownTimeout_anchor (p) : anchorOf (execLinkDownTimeout p s) = some s.anchor := by
  simp [execLinkDownTimeout]
theorem execSegmentDeparture_anchor (p) : anchorOf (execSegmentDeparture p s) = some s.anchor := by
  simp [execSegmentDeparture]
theorem execSegmentDelivery_anchor (p segment code) : anchorOf (execSegmentDelivery p segment code s) = some s.anchor := by
  refine whenHw_anchor s ?_
  simp only
  (repeat' split) <;> simp
theorem execLnkPartnerGet_anchor (h) : anchorOf (execLnkPartnerGet h s) = some s.anchor := by
  simp [execLnkPartnerGet]
theorem execLnkEnable_anchor (h en dis) : anchorOf (execLnkEnable h en dis s) = some s.anchor := by
  simp [execLnkEnable]
theorem execLnkRetrain_anchor (h mask) : anchorOf (execLnkRetrain h mask s) = some s.anchor := by
  simp [execLnkRetrain]
theorem execLnkLatAck_anchor (h mask) : anchorOf (execLnkLatAck h mask s) = some s.anchor := by simp [execLnkLatAck]

/-! #### Arbiter -/

theorem execArbRequestRaise_anchor (k req dl blen dest) :
    anchorOf (execArbRequestRaise k req dl blen dest s) = some s.anchor := by
  refine whenHw_anchor s ?_
  simp only
  (repeat' split) <;> simp
theorem execReadoutRestamp_anchor (k dl) : anchorOf (execReadoutRestamp k dl s) = some s.anchor := by
  simp [execReadoutRestamp]
theorem execArbDecision_anchor : anchorOf (execArbDecision s) = some s.anchor := by
  refine whenHw_anchor s ?_
  simp only
  (repeat' split) <;> simp
theorem execArbTear_anchor (cause bubbles lead) : anchorOf (execArbTear cause bubbles lead s) = some s.anchor := by
  refine whenHw_anchor s ?_
  simp only
  (repeat' split) <;> simp
theorem execArbCommit_anchor (beats bubbles lead) : anchorOf (execArbCommit beats bubbles lead s) = some s.anchor := by
  refine whenHw_anchor s ?_
  split <;> simp
theorem execForwardingMove_anchor (p v) : anchorOf (execForwardingMove p v s) = some s.anchor := by
  refine whenHw_anchor s ?_
  split <;> simp

/-! #### Repair -/

theorem execRevocationDrained_anchor : anchorOf (execRevocationDrained s) = some s.anchor := by
  simp [execRevocationDrained]
theorem execDrainLimitExpiry_anchor : anchorOf (execDrainLimitExpiry s) = some s.anchor := by
  refine whenKpr_anchor s ?_
  split <;> simp
theorem execRecallNoticeExpiry_anchor (r) : anchorOf (execRecallNoticeExpiry r s) = some s.anchor := by
  refine whenKpr_anchor s ?_
  split <;> simp
theorem execRepairSparePrepared_anchor (r) : anchorOf (execRepairSparePrepared r s) = some s.anchor := by
  refine whenHw_anchor s ?_
  (repeat' split) <;> simp
theorem execRepairMemCopyStep_anchor (r) : anchorOf (execRepairMemCopyStep r s) = some s.anchor := by
  refine whenHw_anchor s ?_
  (repeat' split) <;> simp
theorem execRepairWarmupEnd_anchor (r) : anchorOf (execRepairWarmupEnd r s) = some s.anchor := by
  refine whenHw_anchor s ?_
  split <;> simp
theorem execRepairCompareWindowEnd_anchor (r) : anchorOf (execRepairCompareWindowEnd r s) = some s.anchor := by
  refine whenHw_anchor s ?_
  split <;> simp
theorem execRepairCutoverBoundary_anchor (r) : anchorOf (execRepairCutoverBoundary r s) = some s.anchor := by
  refine whenHw_anchor s ?_
  split <;> simp
theorem execRepairUnwarmEnd_anchor (r) : anchorOf (execRepairUnwarmEnd r s) = some s.anchor := by
  simp [execRepairUnwarmEnd]
theorem execRepairRetireComplete_anchor (r) : anchorOf (execRepairRetireComplete r s) = some s.anchor := by
  refine whenKpr_anchor s ?_
  split <;> simp
theorem execRepairStart_anchor (h type orig mode source calMask memCopy flags warmup cmpFrames missTol ftTol mask) :
    anchorOf (execRepairStart h type orig mode source calMask memCopy flags warmup cmpFrames missTol ftTol mask s) =
      some s.anchor := by
  simp [execRepairStart]
theorem execRepairCutover_anchor (h rep force) : anchorOf (execRepairCutover h rep force s) = some s.anchor := by
  simp [execRepairCutover]
theorem execRepairAbort_anchor (h rep) : anchorOf (execRepairAbort h rep s) = some s.anchor := by
  simp [execRepairAbort]
theorem execRepairLend_anchor (h type bay part) : anchorOf (execRepairLend h type bay part s) = some s.anchor := by
  simp [execRepairLend]
theorem execRepairReturn_anchor (h type bay) : anchorOf (execRepairReturn h type bay s) = some s.anchor := by
  simp [execRepairReturn]
theorem execRepairStatusGet_anchor (h rep) : anchorOf (execRepairStatusGet h rep s) = some s.anchor := by
  simp [execRepairStatusGet]

/-! #### Firmware -/

theorem execFwEraseComplete_anchor (ok) : anchorOf (execFwEraseComplete ok s) = some s.anchor := by
  refine whenRom_anchor s ?_
  split
  · rfl
  · split
    · rfl
    · simp only
      (repeat' split) <;> simp
theorem execFwVerifyComplete_anchor : anchorOf (execFwVerifyComplete s) = some s.anchor := by
  refine whenRom_anchor s ?_
  split
  · rfl
  · split
    · rfl
    · simp only
      split <;> simp
theorem execFwConfirmTick_anchor : anchorOf (execFwConfirmTick s) = some s.anchor := by simp [execFwConfirmTick]
theorem execFwInfoGet_anchor (h) : anchorOf (execFwInfoGet h s) = some s.anchor := by simp [execFwInfoGet]
theorem execFwWriteBegin_anchor (h slot header) : anchorOf (execFwWriteBegin h slot header s) = some s.anchor := by
  simp [execFwWriteBegin]
theorem execFwWrite_anchor (h slot offset count data) : anchorOf (execFwWrite h slot offset count data s) = some s.anchor := by
  simp [execFwWrite]
theorem execFwVerify_anchor (h slot) : anchorOf (execFwVerify h slot s) = some s.anchor := by simp [execFwVerify]
theorem execFwSwitch_anchor (h slot mode) : anchorOf (execFwSwitch h slot mode s) = some s.anchor := by
  simp [execFwSwitch]
theorem execFwConfirm_anchor (h) : anchorOf (execFwConfirm h s) = some s.anchor := by simp [execFwConfirm]

/-! #### Sequencer -/

theorem execDomainRampStart_anchor : anchorOf (execDomainRampStart s) = some s.anchor := by
  refine whenHw_anchor s ?_
  (repeat' split) <;> simp
theorem execDomainPowerGood_anchor : anchorOf (execDomainPowerGood s) = some s.anchor := by
  refine whenHw_anchor s ?_
  split <;> simp
theorem execDomainRampTimeout_anchor : anchorOf (execDomainRampTimeout s) = some s.anchor := by
  refine whenHw_anchor s ?_
  split <;> simp
theorem execDomainIsolationRelease_anchor (i) : anchorOf (execDomainIsolationRelease i s) = some s.anchor := by
  simp [execDomainIsolationRelease]
theorem execDomainDrainStart_anchor (i) : anchorOf (execDomainDrainStart i s) = some s.anchor := by
  simp [execDomainDrainStart]
theorem execDomainIsolate_anchor (i) : anchorOf (execDomainIsolate i s) = some s.anchor := by
  simp [execDomainIsolate]
theorem execDomainSwitchOpen_anchor (i) : anchorOf (execDomainSwitchOpen i s) = some s.anchor := by
  simp [execDomainSwitchOpen]
theorem execDomainRailFallen_anchor (i) : anchorOf (execDomainRailFallen i s) = some s.anchor := by
  simp [execDomainRailFallen]
theorem execMonitorTrip_anchor (i k real) : anchorOf (execMonitorTrip i k real s) = some s.anchor := by
  simp [execMonitorTrip]
theorem execPowerAudit_anchor : anchorOf (execPowerAudit s) = some s.anchor := by simp [execPowerAudit]
theorem execPwrMeasureUpdate_anchor (vin iin mon) : anchorOf (execPwrMeasureUpdate vin iin mon s) = some s.anchor := by
  simp [execPwrMeasureUpdate]
theorem execDieTSample_anchor (t) : anchorOf (execDieTSample t s) = some s.anchor := by simp [execDieTSample]
theorem execThermPeakSample_anchor (t) : anchorOf (execThermPeakSample t s) = some s.anchor := by
  simp [execThermPeakSample]
theorem execThermalWarningCrossing_anchor (t) : anchorOf (execThermalWarningCrossing t s) = some s.anchor := by
  simp [execThermalWarningCrossing]
theorem execNvwBarCrossing_anchor (t) : anchorOf (execNvwBarCrossing t s) = some s.anchor := by
  simp [execNvwBarCrossing]
theorem execDeferredWriteResume_anchor : anchorOf (execDeferredWriteResume s) = some s.anchor := by
  simp [execDeferredWriteResume]

/-! #### Restart -/

theorem execInputPowerApplied_anchor : anchorOf (execInputPowerApplied s) = some s.anchor := by
  simp [execInputPowerApplied, Pwr.recount]
theorem execPresLLow_anchor : anchorOf (execPresLLow s) = some s.anchor := by
  simp [execPresLLow, Pwr.recount]

/-! #### Power -/

theorem execPwrStatusGet_anchor (h) : anchorOf (execPwrStatusGet h s) = some s.anchor := by simp [execPwrStatusGet]
theorem execPwrDomainSet_anchor (h on off) : anchorOf (execPwrDomainSet h on off s) = some s.anchor := by
  simp [execPwrDomainSet]
theorem execPwrSuspectAck_anchor (h mask) : anchorOf (execPwrSuspectAck h mask s) = some s.anchor := by
  simp [execPwrSuspectAck]
theorem execPwrRestart_anchor (h) : anchorOf (execPwrRestart h s) = some s.anchor := by simp [execPwrRestart]
theorem execPwrTripClear_anchor (h mask) : anchorOf (execPwrTripClear h mask s) = some s.anchor := by
  simp [execPwrTripClear]

/-! #### Clock -/

theorem execReferenceLossDetect_anchor (real) : anchorOf (execReferenceLossDetect real s) = some s.anchor := by
  simp [execReferenceLossDetect]
theorem execReferenceReturn_anchor : anchorOf (execReferenceReturn s) = some s.anchor := by
  simp [execReferenceReturn]
theorem execReferenceQualified_anchor : anchorOf (execReferenceQualified s) = some s.anchor := by
  simp [execReferenceQualified]
theorem execPllLockAchieved_anchor : anchorOf (execPllLockAchieved s) = some s.anchor := by
  simp [execPllLockAchieved]
theorem execRefFerrMeasure_anchor (ppm) : anchorOf (execRefFerrMeasure ppm s) = some s.anchor := by
  simp [execRefFerrMeasure]
theorem execSyncDetect_anchor (pin) : anchorOf (execSyncDetect pin s) = some s.anchor := by simp [execSyncDetect]
theorem execSyncBoundaryAction_anchor : anchorOf (execSyncBoundaryAction s) = some s.anchor := by
  simp [execSyncBoundaryAction]
theorem execSyncNowLoad_anchor : anchorOf (execSyncNowLoad s) = some s.anchor := by simp [execSyncNowLoad]
theorem execGapStateChange_anchor (level) : anchorOf (execGapStateChange level s) = some s.anchor := by
  simp [execGapStateChange]
theorem execGapSourceApply_anchor (level) : anchorOf (execGapSourceApply level s) = some s.anchor := by
  simp [execGapSourceApply]
theorem execGapgenWriteApply_anchor : anchorOf (execGapgenWriteApply s) = some s.anchor := by
  simp [execGapgenWriteApply]
theorem execTimeGet_anchor (h) : anchorOf (execTimeGet h s) = some s.anchor := by simp [execTimeGet]
theorem execSyncArm_anchor (h src mode value) : anchorOf (execSyncArm h src mode value s) = some s.anchor := by
  simp [execSyncArm]
theorem execSyncNow_anchor (h value) : anchorOf (execSyncNow h value s) = some s.anchor := by simp [execSyncNow]
theorem execGapSet_anchor (h src period length) : anchorOf (execGapSet h src period length s) = some s.anchor := by
  simp [execGapSet]

/-! #### Fault injection -/

theorem execInjectWindowExpiry_anchor : anchorOf (execInjectWindowExpiry s) = some s.anchor := by
  simp [execInjectWindowExpiry]
theorem execInjectTimeout_anchor (j) : anchorOf (execInjectTimeout j s) = some s.anchor := by
  refine whenKpr_anchor s ?_
  split <;> simp
theorem execInjectedConditionRelease_anchor (det) : anchorOf (execInjectedConditionRelease det s) = some s.anchor := by
  simp [execInjectedConditionRelease]
theorem execIdGet_anchor (h) : anchorOf (execIdGet h s) = some s.anchor := by simp [execIdGet]
theorem execInjectEnable_anchor (h en duration) : anchorOf (execInjectEnable h en duration s) = some s.anchor := by
  simp [execInjectEnable]

/-! #### Host commands -/

theorem execPing_anchor (h data) : anchorOf (execPing h data s) = some s.anchor := by simp [execPing]
theorem execLedgerSegmentErase_anchor (seg ok) : anchorOf (execLedgerSegmentErase seg ok s) = some s.anchor := by
  refine whenKpr_anchor s ?_
  extract_lets i
  split
  · split <;> simp
  · split
    · rfl
    · split <;> simp +zetaDelta
theorem execResultGet_anchor (h id) : anchorOf (execResultGet h id s) = some s.anchor := by simp [execResultGet]
theorem execResultRelease_anchor (h upto count ids) : anchorOf (execResultRelease h upto count ids s) = some s.anchor := by
  simp [execResultRelease]
theorem execLdgStatusGet_anchor (h) : anchorOf (execLdgStatusGet h s) = some s.anchor := by simp [execLdgStatusGet]
theorem execEvtSubscribe_anchor (h node en) : anchorOf (execEvtSubscribe h node en s) = some s.anchor := by
  simp [execEvtSubscribe]
theorem execEvtLogRead_anchor (h lseq count) : anchorOf (execEvtLogRead h lseq count s) = some s.anchor := by
  simp [execEvtLogRead]

/-! #### Recovery -/

/-- No command that recovery runs again moves anything of the anchor. -/
theorem Entry.rerun_anchor {e : Entry} {run : Run} (h : e.rerun = some run) : (run s).1.anchor = s.anchor := by
  unfold Entry.rerun at h
  simp only at h
  split at h
  all_goals cases h
  all_goals simp
theorem execLedgerRerunDone_anchor (part id) : anchorOf (execLedgerRerunDone part id s) = some s.anchor := by
  refine whenKpr_anchor s ?_
  extract_lets c
  split
  · rfl
  · split
    · split
      · next h =>
        exact start_anchored (I := fun t => t.anchor = s.anchor) _ (fun _ _ h e => h.trans e)
          (fun t e => (Entry.rerun_anchor t h).trans e) _ rfl
      · rfl
    · rfl

end Sys2Proof.Machine
end

section
/-!
LAWS. Rows of the table that are register accesses, or make them: they leave the phase of the module alone.
-/
namespace Sys2Proof.Machine

variable (s : State)

/-! #### Rows that are register accesses, or make them -/

/-- The footing of the state that a command answers. -/
def footingOf : Outcome → Option (Phase × Nat × List Instr)
  | .next t => some t.footing
  | _ => none

theorem whenHw_footing {f : State → State} (h : (f s).footing = s.footing) : footingOf (whenHw s f) = some s.footing := by
  unfold whenHw
  split
  · exact congrArg some h
  · rfl

theorem underStamp_footing {run : Run} (hrun : ∀ t, (run t).1.footing = t.footing) (c) :
    (s.underStamp c run).1.footing = s.footing :=
  (hrun (s.stampedOwn c)).trans (footing_of_anchor (stampedOwn_anchor s c))

theorem darem_footing {run : Run} (hrun : ∀ t, (run t).1.footing = t.footing) (i h sp ps) :
    footingOf (darem i h sp ps run s) = some s.footing :=
  congrArg some (darem_anchored (I := fun t => t.footing = s.footing) s (fun _ _ h e => (footing_of_anchor h).trans e)
    (fun t e => (hrun t).trans e) i h sp ps rfl rfl)

/-- A row that is one write to a register. -/
theorem writeOne_row {a : State → Access} (ha : ∀ t, (a t).Keeps) (p v) :
    footingOf (whenHw s fun s => s.writeOne p a v) = some s.footing := whenHw_footing s (writeOne_footing s ha p v)

theorem execMemWindowAccess_footing (p d m k write) : footingOf (execMemWindowAccess p d m k write s) = some s.footing := by
  refine whenHw_footing s ?_
  cases write with
  | some v => exact footing_of_anchor (s := s.unstage p) (windowWrite_anchor _ p d m k v)
  | none => exact footing_of_anchor (windowRead_anchor s p d m k)
theorem execLinStageWrite_footing (p x v) : footingOf (execLinStageWrite p x v s) = some s.footing := by
  refine whenHw_footing s ?_
  split
  · exact writeOne_footing s (fun t => linAccess_keeps t p _) p v
  · rfl
theorem execRegisterWrite_footing (p addr v) : footingOf (execRegisterWrite p addr v s) = some s.footing :=
  whenHw_footing s (writeAt_footing s p _ v)
theorem execWideFieldSnapshotRead_footing (p addr) : footingOf (execWideFieldSnapshotRead p addr s) = some s.footing := by
  refine whenHw_footing s ?_
  split
  · split
    · rfl
    · exact readReg_footing s p _
  · rfl
theorem execWideFieldLowWrite_footing (p addr v) : footingOf (execWideFieldLowWrite p addr v s) = some s.footing := by
  refine whenHw_footing s ?_
  split
  · split
    · exact writeAt_footing s p _ v
    · rfl
  · rfl
theorem execWideFieldHighWrite_footing (p addr v) : footingOf (execWideFieldHighWrite p addr v s) = some s.footing := by
  refine whenHw_footing s ?_
  split
  · split
    · split
      · exact writeAt_footing s p _ v
      · rfl
    · rfl
  · rfl
theorem execLatchedEventClear_footing (p addr v again) :
    footingOf (execLatchedEventClear p addr v again s) = some s.footing := by
  refine whenHw_footing s ?_
  split
  · have h := writeAt_footing s p addr.toNat v
    simp only
    split
    · split
      · rw [onLatch_footing, h]
      · exact h
    · exact h
  · rfl
theorem execRegRead_footing (h addr count) : footingOf (execRegRead h addr count s) = some s.footing :=
  darem_footing s (fun t => runRegRead_footing t _ _ _) _ _ _ _
theorem execRegWrite_footing (h addr count ws) : footingOf (execRegWrite h addr count ws s) = some s.footing :=
  darem_footing s (fun t => underStamp_footing t (fun u => runRegWrite_footing u _ _ _) _) _ _ _ _
theorem execRegModify_footing (h addr mask value) : footingOf (execRegModify h addr mask value s) = some s.footing :=
  darem_footing s (fun t => underStamp_footing t (fun u => runRegModify_footing u _ _ _ _) _) _ _ _ _
theorem execAdcRefSelect_footing (p n v) : footingOf (execAdcRefSelect p n v s) = some s.footing :=
  writeOne_row s (fun t => adcAccess_keeps t p _ _) p v
theorem execAdcResPop_footing (p n v) : footingOf (execAdcResPop p n v s) = some s.footing :=
  writeOne_row s (fun t => adcAccess_keeps t p _ _) p v
theorem execAdcCntClear_footing (p n v) : footingOf (execAdcCntClear p n v s) = some s.footing :=
  writeOne_row s (fun t => adcAccess_keeps t p _ _) p v
theorem execXbarOctWrite_footing (p o v) : footingOf (execXbarOctWrite p o v s) = some s.footing :=
  writeOne_row s (fun t => xbarAccess_keeps t p _) p v
theorem execAbayClear_footing (p a v) : footingOf (execAbayClear p a v s) = some s.footing :=
  writeOne_row s (fun t => abayAccess_keeps t p _ _) p v
theorem execThresholdHoldRelease_footing (p a v) : footingOf (execThresholdHoldRelease p a v s) = some s.footing :=
  writeOne_row s (fun t => abayAccess_keeps t p _ _) p v
theorem execWdacOutputClaim_footing (p n v) : footingOf (execWdacOutputClaim p n v s) = some s.footing :=
  writeOne_row s (fun t => wdacAccess_keeps t p _ _) p v
theorem execWdacCmdStart_footing (p n) : footingOf (execWdacCmdStart p n s) = some s.footing :=
  writeOne_row s (fun t => wdacAccess_keeps t p _ _) p 1
theorem execWdacCmdStop_footing (p n) : footingOf (execWdacCmdStop p n s) = some s.footing :=
  writeOne_row s (fun t => wdacAccess_keeps t p _ _) p 2
theorem execWdacCmdFlush_footing (p n) : footingOf (execWdacCmdFlush p n s) = some s.footing :=
  writeOne_row s (fun t => wdacAccess_keeps t p _ _) p 4
theorem execWdacQueueAppend_footing (p n v) : footingOf (execWdacQueueAppend p n v s) = some s.footing :=
  writeOne_row s (fun t => wdacAccess_keeps t p _ _) p v
theorem execWdacTableWrite_footing (p n v) : footingOf (execWdacTableWrite p n v s) = some s.footing :=
  writeOne_row s (fun t => wdacAccess_keeps t p _ _) p v
theorem execWdacCntClear_footing (p n v) : footingOf (execWdacCntClear p n v s) = some s.footing :=
  writeOne_row s (fun t => wdacAccess_keeps t p _ _) p v
theorem execCalCoefDataWrite_footing (p v) : footingOf (execCalCoefDataWrite p v s) = some s.footing :=
  writeOne_row s (fun t => calAccess_keeps t p _) p v
theorem execCalCoefApply_footing (p v) : footingOf (execCalCoefApply p v s) = some s.footing :=
  writeOne_row s (fun t => calAccess_keeps t p _) p v
theorem execLinCommit_footing (p) : footingOf (execLinCommit p s) = some s.footing :=
  writeOne_row s (fun t => linAccess_keeps t p _) p 1
theorem execLinDiscard_footing (p) : footingOf (execLinDiscard p s) = some s.footing :=
  writeOne_row s (fun t => linAccess_keeps t p _) p 2
theorem execDbayMemClear_footing (p d v) : footingOf (execDbayMemClear p d v s) = some s.footing :=
  writeOne_row s (fun t => memAccess_keeps t p _ _) p v
theorem execPrbCapCtrlArm_footing (p v) : footingOf (execPrbCapCtrlArm p v s) = some s.footing :=
  writeOne_row s (fun t => prbAccess_keeps t p _) p v
theorem execCanCntClear_footing (p v) : footingOf (execCanCntClear p v s) = some s.footing :=
  writeOne_row s (fun t => canAccess_keeps t p _) p v
theorem execLnkRcCntClear_footing (p port v) : footingOf (execLnkRcCntClear p port v s) = some s.footing :=
  writeOne_row s (fun t => rcAccess_keeps t p _ _) p v
theorem execLnkCtrlEnWrite_footing (p port v) : footingOf (execLnkCtrlEnWrite p port v s) = some s.footing :=
  writeOne_row s (fun t => lnkAccess_keeps t p _ _) p v
theorem execArbRestamp_footing (p v) : footingOf (execArbRestamp p v s) = some s.footing :=
  writeOne_row s (fun t => arbAccess_keeps t p _) p v
theorem execArbCntClear_footing (p v) : footingOf (execArbCntClear p v s) = some s.footing :=
  writeOne_row s (fun t => arbAccess_keeps t p _) p v
theorem execOrqClear_footing (p v) : footingOf (execOrqClear p v s) = some s.footing :=
  writeOne_row s (fun t => orqAccess_keeps t p _) p v
theorem execPwrThermClear_footing (p v) : footingOf (execPwrThermClear p v s) = some s.footing :=
  writeOne_row s (fun t => pwrAccess_keeps t p _) p v
theorem execClkSyncCtrlArm_footing (p v) : footingOf (execClkSyncCtrlArm p v s) = some s.footing :=
  writeOne_row s (fun t => clkAccess_keeps t p _) p v
theorem execClkGapClear_footing (p v) : footingOf (execClkGapClear p v s) = some s.footing :=
  writeOne_row s (fun t => clkAccess_keeps t p _) p v

end Sys2Proof.Machine
end

section
/-!
LAWS. Rows of the table that move the phase of the module: a restart of the keeper or a loss of power drops the snapshots
and the staged words (R5, R6, R67).
-/
namespace Sys2Proof.Machine

variable (s : State)

/-! #### Rows that move the phase -/

/-- Nothing that a partition has read or staged is kept. -/
def State.Blank (s : State) : Prop := s.anchor.2.1 = [] ∧ s.anchor.2.2.1 = []

/-- The keeper, or the hardware behind the 12 V switch, stops: a restart of the keeper or a loss of power (R67). -/
def Stops (s t : State) : Prop :=
  (s.kpr = true ∨ s.pwr.phase = .silent) ∧ t.kpr = false ∧ t.pwr.phase ≠ .silent ∨ s.hw = true ∧ t.hw = false

theorem blank_of_anchor {s t : State} (h : t.anchor = s.anchor) (hs : s.Blank) : t.Blank :=
  by simpa only [State.Blank, h] using hs

theorem not_stops_of_phase {s t : State} (h : t.pwr.phase = s.pwr.phase) : ¬ Stops s t := by
  simp only [Stops, State.kpr, State.hw, h]
  cases s.pwr.phase <;> simp

/-- A module that is off does not stop. -/
theorem not_stops_of_off {s t : State} (h : s.hw = false) : ¬ Stops s t := by
  simp only [Stops, State.kpr, State.hw] at h ⊢
  cases hp : s.pwr.phase <;> simp [hp] at h ⊢

theorem not_stops_of_silent {s t : State} (h : t.pwr.phase = .silent) : ¬ Stops s t := by
  simp [Stops, State.hw, h]

theorem not_stops_of_running {s t : State} (h : t.pwr.phase = .running) : ¬ Stops s t := by
  simp [Stops, State.kpr, State.hw, h]

/-- The command leaves its phase, or nothing of what partitions have read and staged. -/
def Safe (s t : State) : Prop := ¬ Stops s t ∨ t.Blank

theorem safe_of_anchor {s t : State} (h : t.anchor = s.anchor) : Safe s t := .inl (not_stops_of_phase (congrArg (·.1) h))
theorem safe_of_footing {s t : State} (h : t.footing = s.footing) : Safe s t := .inl (not_stops_of_phase (congrArg (·.1) h))

/-- The anchor of a state whose snapshots and staged words are dropped. -/
theorem wiped_anchor {ph a b n q} (h : s.anchor = (ph, a, b, n, q)) :
    (s.pwr.phase, ([] : List Snap), ([] : List Snap), s.ck, s.pending) = (ph, [], [], n, q) := by
  cases h
  rfl

@[simp] theorem keeperRestart_anchor (boot) : (s.keeperRestart boot).anchor = (.booting, [], [], s.ck, s.pending) := by
  unfold State.keeperRestart
  simp only [anchor_mk]
  exact wiped_anchor _ (a := s.snaps) (b := s.staged) (by simp)

@[simp] theorem cold_anchor (ph) : (s.cold ph).anchor = (ph, [], [], s.ck, s.pending) := by
  have h : s.dropStoreJob.anchor = s.anchor := dropStoreJob_anchor s
  unfold State.cold
  simp only [anchor_mk]
  exact congrArg (fun a => (ph, [], [], a.2.2.2)) h

@[simp] theorem watchdog_anchor : s.watchdog.anchor = (.booting, [], [], s.ck, s.pending) := by
  unfold State.watchdog
  simp only [bootCheck_anchor]
  split <;> simp

@[simp] theorem warmReset_anchor : s.warmReset.anchor = (.booting, [], [], s.ck, s.pending) := by
  simp [State.warmReset]

theorem powerLoss_safe (ok) : Safe s (s.powerLoss ok) := by
  unfold State.powerLoss
  split
  · exact safe_of_anchor rfl
  · exact safe_of_anchor rfl
  · exact .inr (by simp [State.Blank])
  · exact .inr (by simp [State.Blank])

/-- Whether a command that answers `t` is safe depends on the phase it starts in only. -/
theorem safe_of_phase {s u t : State} (ht : Safe u t) (h : u.pwr.phase = s.pwr.phase) : Safe s t := by
  simpa only [Safe, Stops, State.kpr, State.hw, h] using ht

theorem execPresLHigh_safe {ok} {t : State} (h : execPresLHigh ok s = .next t) : Safe s t := by
  cases h
  exact safe_of_phase (powerLoss_safe _ ok) rfl

theorem execPowerInputLoss_safe {ok} {t : State} (h : execPowerInputLoss ok s = .next t) : Safe s t := by
  cases h
  exact safe_of_phase (powerLoss_safe _ ok) rfl

theorem execInrushCountExpiry_safe {t : State} (h : execInrushCountExpiry s = .next t) : Safe s t := by
  cases h
  split
  · next hc =>
    simp only [Bool.and_eq_true, decide_eq_true_eq] at hc
    exact .inl (not_stops_of_off (by simp [State.hw, hc.2]))
  · exact safe_of_anchor rfl

theorem execHoldUpEnd_safe {t : State} (h : execHoldUpEnd s = .next t) : Safe s t := by
  cases h
  split
  · next hp => exact .inl (not_stops_of_off (by simp [State.hw, hp]))
  · exact safe_of_anchor rfl

theorem execKeeperResetRelease_safe {a b} {t : State} (h : execKeeperResetRelease a b s = .next t) : Safe s t := by
  by_cases hp : s.pwr.phase = .closed
  · exact .inl (not_stops_of_off (by simp [State.hw, hp]))
  · cases h
    rw [if_pos hp]
    exact safe_of_anchor rfl

theorem execHotStopRelease_safe {temp} {t : State} (h : execHotStopRelease temp s = .next t) : Safe s t := by
  by_cases hp : s.pwr.phase = .hotStop
  · exact .inl (not_stops_of_off (by simp [State.hw, hp]))
  · cases h
    rw [if_neg (by simp [hp])]
    exact safe_of_anchor rfl

theorem execHotStop_safe {temp} {t : State} (h : execHotStop temp s = .next t) : Safe s t := by
  cases h
  split
  · simp only
    split
    · exact safe_of_anchor (by simp)
    · exact .inr (by simp [State.Blank])
  · exact safe_of_anchor rfl

theorem execKeeperWatchdogExpiry_safe {starts} {t : State} (h : execKeeperWatchdogExpiry starts s = .next t) : Safe s t := by
  cases h
  split
  · split
    · exact .inl (not_stops_of_silent rfl)
    · exact safe_of_anchor rfl
  · split
    · exact .inr (by simp [State.Blank])
    · exact safe_of_anchor rfl

@[simp] theorem bootRom_anchor : s.bootRom.anchor = (.running, s.snaps, s.staged, s.ck, s.pending) := by
  simp [State.bootRom]

@[simp] theorem bootFirmware_anchor : s.bootFirmware.anchor = (.running, s.snaps, s.staged, s.ck, s.pending) := by
  unfold State.bootFirmware
  simp only
  split <;> simp

theorem bootDone_anchor : s.bootDone.anchor = (.running, s.snaps, s.staged, s.ck, s.pending) := by
  unfold State.bootDone
  split
  · simp
  · simp only
    split <;> simp

theorem execKeeperBootComplete_safe {t : State} (h : execKeeperBootComplete s = .next t) : Safe s t := by
  cases h
  split
  · exact .inl (not_stops_of_running (congrArg (·.1) (bootDone_anchor s)))
  · exact safe_of_anchor rfl

/-- A row of the running keeper is safe if its change is. -/
theorem whenRom_safe {f : State → State} (hf : Safe s (f s)) {t : State} (h : whenRom s f = .next t) : Safe s t := by
  cases h
  split
  · exact hf
  · exact safe_of_anchor rfl

theorem execFwSwitchRestart_safe {t : State} (h : execFwSwitchRestart s = .next t) : Safe s t := by
  refine whenRom_safe s ?_ h
  split
  · exact safe_of_anchor rfl
  · split
    · exact safe_of_anchor rfl
    · split
      · exact safe_of_anchor (by simp)
      · exact .inr (by simp [State.Blank])

theorem execFwConfirmExpiry_safe {t : State} (h : execFwConfirmExpiry s = .next t) : Safe s t := by
  refine whenRom_safe s ?_ h
  split
  · exact .inr (by simp [State.Blank])
  · exact safe_of_anchor rfl

theorem execFwTrialBootTimeout_safe {t : State} (h : execFwTrialBootTimeout s = .next t) : Safe s t := by
  cases h
  split
  · exact .inr (by simp [State.Blank])
  · exact safe_of_anchor rfl

/-- Whether a state is safe after `s` is decided by its anchor. -/
theorem safe_anchored : Anchored (Safe s) := by
  intro t u h ht
  rcases ht with ht | ht
  · left
    have hp : u.pwr.phase = t.pwr.phase := congrArg (·.1) h
    simpa only [Stops, State.kpr, State.hw, hp] using ht
  · exact .inr (blank_of_anchor h ht)

theorem runPwrReset_safe {t : State} (c kind unit) (ht : Safe s t) : Safe s (runPwrReset c kind unit t).1 := by
  unfold runPwrReset
  split
  · exact .inr (by simp [State.Blank])
  · split
    · exact ht
    · split
      · exact ht
      · simp only
        split
        · exact ht
        · split
          · exact ht
          · exact safe_anchored s (by simp) ht

theorem armInjection_anchor {x} {t : State} (h : s.armInjection x = some t) : t.anchor = s.anchor := by
  unfold State.armInjection at h
  split at h
  · cases h; rfl
  · cases h

theorem runInject_safe {t : State} (c det unit arg timeout) (ht : Safe s t) : Safe s (runInject c det unit arg timeout t).1 := by
  unfold runInject
  split
  · exact ht
  · split
    · exact ht
    · split
      · exact ht
      · split
        · exact ht
        · split
          · exact .inr (by simp [State.Blank, State.injectDog])
          · split
            · next h => exact safe_anchored s (armInjection_anchor t h) ht
            · exact ht

theorem execPwrReset_safe {h kind unit} {t : State} (ht : execPwrReset h kind unit s = .next t) : Safe s t :=
  darem_anchored s (safe_anchored s) (fun _ hu => runPwrReset_safe s _ _ _ hu) _ _ _ _ (safe_of_anchor rfl) ht

theorem execInject_safe {h det unit arg timeout} {t : State} (ht : execInject h det unit arg timeout s = .next t) : Safe s t :=
  darem_anchored s (safe_anchored s) (fun _ hu => runInject_safe s _ _ _ _ _ hu) _ _ _ _ (safe_of_anchor rfl) ht

end Sys2Proof.Machine
end

section
/-!
LAWS. Every row: what stops the keeper or the hardware leaves no snapshot and no staged word.
-/
namespace Sys2Proof.Machine

variable (s : State)

/-! #### Every row -/

theorem anchored_safe {o : Outcome} (h : anchorOf o = some s.anchor) {t : State} (ht : o = .next t) : Safe s t := by
  subst ht
  exact safe_of_anchor (Option.some.inj h)

theorem footed_safe {o : Outcome} (h : footingOf o = some s.footing) {t : State} (ht : o = .next t) : Safe s t := by
  subst ht
  exact safe_of_footing (Option.some.inj h)

/-- A command that stops the keeper or the hardware leaves nothing of what partitions have read and staged: row by row. -/
theorem exec_safe {i : Instr} {t : State} (h : exec i s = .next t) : Safe s t := by
  cases i with
  | registerWrite => exact footed_safe s (execRegisterWrite_footing s _ _ _) h
  | wideFieldSnapshotRead => exact footed_safe s (execWideFieldSnapshotRead_footing s _ _) h
  | wideFieldLowWrite => exact footed_safe s (execWideFieldLowWrite_footing s _ _ _) h
  | wideFieldHighWrite => exact footed_safe s (execWideFieldHighWrite_footing s _ _ _) h
  | latchedEventClear => exact footed_safe s (execLatchedEventClear_footing s _ _ _ _) h
  | referenceLossDetect => exact anchored_safe s (execReferenceLossDetect_anchor s _) h
  | clkSyncCtrlArm => exact footed_safe s (execClkSyncCtrlArm_footing s _ _) h
  | gapStateChange => exact anchored_safe s (execGapStateChange_anchor s _) h
  | gapSourceApply => exact anchored_safe s (execGapSourceApply_anchor s _) h
  | clkGapClear => exact footed_safe s (execClkGapClear_footing s _ _) h
  | timeGet => exact anchored_safe s (execTimeGet_anchor s _) h
  | syncArm => exact anchored_safe s (execSyncArm_anchor s _ _ _ _) h
  | syncNow => exact anchored_safe s (execSyncNow_anchor s _ _) h
  | gapSet => exact anchored_safe s (execGapSet_anchor s _ _ _ _) h
  | keeperResetRelease => exact execKeeperResetRelease_safe s h
  | strapReading => exact anchored_safe s (execStrapReading_anchor s _ _) h
  | strapPeriodicCheck => exact anchored_safe s (execStrapPeriodicCheck_anchor s _ _) h
  | domainIsolationRelease => exact anchored_safe s (execDomainIsolationRelease_anchor s _) h
  | domainDrainStart => exact anchored_safe s (execDomainDrainStart_anchor s _) h
  | domainIsolate => exact anchored_safe s (execDomainIsolate_anchor s _) h
  | domainSwitchOpen => exact anchored_safe s (execDomainSwitchOpen_anchor s _) h
  | domainRailFallen => exact anchored_safe s (execDomainRailFallen_anchor s _) h
  | monitorTrip => exact anchored_safe s (execMonitorTrip_anchor s _ _ _) h
  | dieTSample => exact anchored_safe s (execDieTSample_anchor s _) h
  | pwrMeasureUpdate => exact anchored_safe s (execPwrMeasureUpdate_anchor s _ _ _) h
  | thermalWarningCrossing => exact anchored_safe s (execThermalWarningCrossing_anchor s _) h
  | nvwBarCrossing => exact anchored_safe s (execNvwBarCrossing_anchor s _) h
  | hotStop => exact execHotStop_safe s h
  | hotStopRelease => exact execHotStopRelease_safe s h
  | ledgerRerunDone => exact anchored_safe s (execLedgerRerunDone_anchor s _ _) h
  | pwrStatusGet => exact anchored_safe s (execPwrStatusGet_anchor s _) h
  | pwrDomainSet => exact anchored_safe s (execPwrDomainSet_anchor s _ _ _) h
  | pwrSuspectAck => exact anchored_safe s (execPwrSuspectAck_anchor s _ _) h
  | pwrReset => exact execPwrReset_safe s h
  | pwrRestart => exact anchored_safe s (execPwrRestart_anchor s _) h
  | pwrTripClear => exact anchored_safe s (execPwrTripClear_anchor s _ _) h
  | pwrThermClear => exact footed_safe s (execPwrThermClear_footing s _ _) h
  | sashPinChange => exact anchored_safe s (execSashPinChange_anchor s _ _) h
  | sashIdentityRead => exact anchored_safe s (execSashIdentityRead_anchor s _ _ _ _) h
  | sashAbsentProbe => exact anchored_safe s (execSashAbsentProbe_anchor s _) h
  | sashIdRetry => exact anchored_safe s (execSashIdRetry_anchor s _ _ _) h
  | biasRampStep => exact anchored_safe s (execBiasRampStep_anchor s _) h
  | lifePageVerify => exact anchored_safe s (execLifePageVerify_anchor s _) h
  | peakTSample => exact anchored_safe s (execPeakTSample_anchor s _) h
  | sashInfoGet => exact anchored_safe s (execSashInfoGet_anchor s _) h
  | sashExpectSet => exact anchored_safe s (execSashExpectSet_anchor s _ _) h
  | sashBiasSet => exact anchored_safe s (execSashBiasSet_anchor s _ _ _ _ _ _) h
  | sashLifeGet => exact anchored_safe s (execSashLifeGet_anchor s _) h
  | slotSettingsApply => exact anchored_safe s (execSlotSettingsApply_anchor s _ _) h
  | slotMaskEnd => exact anchored_safe s (execSlotMaskEnd_anchor s _ _) h
  | slotOverloadDetect => exact anchored_safe s (execSlotOverloadDetect_anchor s _ _ _) h
  | sumSaturation => exact anchored_safe s (execSumSaturation_anchor s _ _) h
  | asbLineClaim => exact anchored_safe s (execAsbLineClaim_anchor s _ _ _ _) h
  | sumOutputApply => exact anchored_safe s (execSumOutputApply_anchor s _) h
  | xbarOctWrite => exact footed_safe s (execXbarOctWrite_footing s _ _ _) h
  | abayClear => exact footed_safe s (execAbayClear_footing s _ _ _) h
  | adcStartEvent => exact anchored_safe s (execAdcStartEvent_anchor s _) h
  | adcFirstSample => exact anchored_safe s (execAdcFirstSample_anchor s _ _) h
  | adcResultQueued => exact anchored_safe s (execAdcResultQueued_anchor s _) h
  | adcLoopRestart => exact anchored_safe s (execAdcLoopRestart_anchor s _ _) h
  | adcGroupStartEvent => exact anchored_safe s (execAdcGroupStartEvent_anchor s _) h
  | urgentEvent => exact anchored_safe s (execUrgentEvent_anchor s _ _) h
  | adcRefSelect => exact footed_safe s (execAdcRefSelect_footing s _ _ _) h
  | adcReferenceReady => exact anchored_safe s (execAdcReferenceReady_anchor s _) h
  | adcResPop => exact footed_safe s (execAdcResPop_footing s _ _ _) h
  | adcTakeover => exact anchored_safe s (execAdcTakeover_anchor s _ _) h
  | adcGiveback => exact anchored_safe s (execAdcGiveback_anchor s _) h
  | timerFire => exact anchored_safe s (execTimerFire_anchor s _) h
  | timerTakeover => exact anchored_safe s (execTimerTakeover_anchor s _ _) h
  | timerGiveback => exact anchored_safe s (execTimerGiveback_anchor s _) h
  | adcCntClear => exact footed_safe s (execAdcCntClear_footing s _ _ _) h
  | adcStart => exact anchored_safe s (execAdcStart_anchor s _ _) h
  | adcUrgent => exact anchored_safe s (execAdcUrgent_anchor s _ _) h
  | adcResultPeek => exact anchored_safe s (execAdcResultPeek_anchor s _ _ _) h
  | adcResultPop => exact anchored_safe s (execAdcResultPop_anchor s _ _ _ _) h
  | adcStatusGet => exact anchored_safe s (execAdcStatusGet_anchor s _ _) h
  | adcGroupSet => exact anchored_safe s (execAdcGroupSet_anchor s _ _ _ _ _ _) h
  | tmrSet => exact anchored_safe s (execTmrSet_anchor s _ _ _ _ _ _) h
  | thresholdLoad => exact anchored_safe s (execThresholdLoad_anchor s _) h
  | thresholdHoldRelease => exact footed_safe s (execThresholdHoldRelease_footing s _ _ _) h
  | wdacOutputClaim => exact footed_safe s (execWdacOutputClaim_footing s _ _ _) h
  | wdacTakeover => exact anchored_safe s (execWdacTakeover_anchor s _ _) h
  | wdacGiveback => exact anchored_safe s (execWdacGiveback_anchor s _) h
  | wdacCmdStart => exact footed_safe s (execWdacCmdStart_footing s _ _) h
  | wdacCmdStop => exact footed_safe s (execWdacCmdStop_footing s _ _) h
  | wdacCmdFlush => exact footed_safe s (execWdacCmdFlush_footing s _ _) h
  | wdacStartEvent => exact anchored_safe s (execWdacStartEvent_anchor s _) h
  | wdacTick => exact anchored_safe s (execWdacTick_anchor s _) h
  | wdacStaticApply => exact anchored_safe s (execWdacStaticApply_anchor s _) h
  | wdacQueueAppend => exact footed_safe s (execWdacQueueAppend_footing s _ _ _) h
  | wdacTableWrite => exact footed_safe s (execWdacTableWrite_footing s _ _ _) h
  | wdacCntClear => exact footed_safe s (execWdacCntClear_footing s _ _ _) h
  | wdacQueueWrite => exact anchored_safe s (execWdacQueueWrite_anchor s _ _ _ _) h
  | wdacTableLoad => exact anchored_safe s (execWdacTableLoad_anchor s _ _ _ _ _) h
  | wdacControl => exact anchored_safe s (execWdacControl_anchor s _ _ _) h
  | calNoticeExpiry => exact anchored_safe s (execCalNoticeExpiry_anchor s _) h
  | calOutageEnd => exact anchored_safe s (execCalOutageEnd_anchor s _ _ _) h
  | calGapStepStart => exact anchored_safe s (execCalGapStepStart_anchor s _) h
  | calGapStepEnd => exact anchored_safe s (execCalGapStepEnd_anchor s _ _ _) h
  | calSysTimeout => exact anchored_safe s (execCalSysTimeout_anchor s _) h
  | calCoefDataWrite => exact footed_safe s (execCalCoefDataWrite_footing s _ _) h
  | calCoefApply => exact footed_safe s (execCalCoefApply_footing s _ _) h
  | calRun => exact anchored_safe s (execCalRun_anchor s _ _ _ _ _ _) h
  | calSysPoint => exact anchored_safe s (execCalSysPoint_anchor s _ _ _ _) h
  | calAbort => exact anchored_safe s (execCalAbort_anchor s _ _ _) h
  | calCoefGet => exact anchored_safe s (execCalCoefGet_anchor s _ _ _) h
  | calCoefSet => exact anchored_safe s (execCalCoefSet_anchor s _ _) h
  | calCoefNeutral => exact anchored_safe s (execCalCoefNeutral_anchor s _ _ _) h
  | linStageWrite => exact footed_safe s (execLinStageWrite_footing s _ _ _) h
  | linCommit => exact footed_safe s (execLinCommit_footing s _) h
  | linDiscard => exact footed_safe s (execLinDiscard_footing s _) h
  | linRouteSet => exact anchored_safe s (execLinRouteSet_anchor s _ _ _ _) h
  | linRouteGet => exact anchored_safe s (execLinRouteGet_anchor s _ _ _) h
  | bayResetAssert => exact anchored_safe s (execBayResetAssert_anchor s _) h
  | bayResetRelease => exact anchored_safe s (execBayResetRelease_anchor s _) h
  | memoryPortRead => exact anchored_safe s (execMemoryPortRead_anchor s _ _ _ _ _) h
  | memoryPortWrite => exact anchored_safe s (execMemoryPortWrite_anchor s _ _ _ _) h
  | memScrubWord => exact anchored_safe s (execMemScrubWord_anchor s _ _ _) h
  | fifoPush => exact anchored_safe s (execFifoPush_anchor s _ _ _ _) h
  | fifoPop => exact anchored_safe s (execFifoPop_anchor s _ _) h
  | lookbackRequest => exact anchored_safe s (execLookbackRequest_anchor s _ _ _ _) h
  | lookbackDeferredEval => exact anchored_safe s (execLookbackDeferredEval_anchor s _ _) h
  | memSettingsApply => exact anchored_safe s (execMemSettingsApply_anchor s _ _) h
  | memWindowAccess => exact footed_safe s (execMemWindowAccess_footing s _ _ _ _ _) h
  | dbayMemClear => exact footed_safe s (execDbayMemClear_footing s _ _ _) h
  | ioCellApply => exact anchored_safe s (execIoCellApply_anchor s _) h
  | peepholeApply => exact anchored_safe s (execPeepholeApply_anchor s _ _) h
  | prbCapCtrlArm => exact footed_safe s (execPrbCapCtrlArm_footing s _ _) h
  | prbCaptureTrigger => exact anchored_safe s (execPrbCaptureTrigger_anchor s) h
  | prbCaptureComplete => exact anchored_safe s (execPrbCaptureComplete_anchor s) h
  | prbSelect => exact anchored_safe s (execPrbSelect_anchor s _ _ _ _ _ _) h
  | prbCaptureArm => exact anchored_safe s (execPrbCaptureArm_anchor s _ _ _ _ _ _) h
  | prbCaptureRead => exact anchored_safe s (execPrbCaptureRead_anchor s _ _ _) h
  | prbAuxSet => exact anchored_safe s (execPrbAuxSet_anchor s _ _) h
  | cfgFrameWrite => exact anchored_safe s (execCfgFrameWrite_anchor s _) h
  | cfgStoreCommit => exact anchored_safe s (execCfgStoreCommit_anchor s _) h
  | storeAreaErase => exact anchored_safe s (execStoreAreaErase_anchor s _ _) h
  | scrubFrameVisit => exact anchored_safe s (execScrubFrameVisit_anchor s _) h
  | faultActionApply => exact anchored_safe s (execFaultActionApply_anchor s _) h
  | cfgBufOpen => exact anchored_safe s (execCfgBufOpen_anchor s _) h
  | cfgBufWrite => exact anchored_safe s (execCfgBufWrite_anchor s _ _ _ _) h
  | cfgBufClose => exact anchored_safe s (execCfgBufClose_anchor s _ _) h
  | cfgLoad => exact anchored_safe s (execCfgLoad_anchor s _ _ _) h
  | cfgStoreSave => exact anchored_safe s (execCfgStoreSave_anchor s _ _) h
  | cfgStoreErase => exact anchored_safe s (execCfgStoreErase_anchor s _ _) h
  | cfgStoreInfo => exact anchored_safe s (execCfgStoreInfo_anchor s _ _) h
  | cfgStatusGet => exact anchored_safe s (execCfgStatusGet_anchor s _ _) h
  | recallNoticeExpiry => exact anchored_safe s (execRecallNoticeExpiry_anchor s _) h
  | repairSparePrepared => exact anchored_safe s (execRepairSparePrepared_anchor s _) h
  | repairMemCopyStep => exact anchored_safe s (execRepairMemCopyStep_anchor s _) h
  | repairWarmupEnd => exact anchored_safe s (execRepairWarmupEnd_anchor s _) h
  | repairCompareWindowEnd => exact anchored_safe s (execRepairCompareWindowEnd_anchor s _) h
  | repairCutoverBoundary => exact anchored_safe s (execRepairCutoverBoundary_anchor s _) h
  | repairUnwarmEnd => exact anchored_safe s (execRepairUnwarmEnd_anchor s _) h
  | repairRetireComplete => exact anchored_safe s (execRepairRetireComplete_anchor s _) h
  | repairStart => exact anchored_safe s (execRepairStart_anchor s _ _ _ _ _ _ _ _ _ _ _ _ _) h
  | repairCutover => exact anchored_safe s (execRepairCutover_anchor s _ _ _) h
  | repairAbort => exact anchored_safe s (execRepairAbort_anchor s _ _) h
  | repairLend => exact anchored_safe s (execRepairLend_anchor s _ _ _ _) h
  | repairReturn => exact anchored_safe s (execRepairReturn_anchor s _ _ _) h
  | repairStatusGet => exact anchored_safe s (execRepairStatusGet_anchor s _ _) h
  | lnkCtrlEnWrite => exact footed_safe s (execLnkCtrlEnWrite_footing s _ _ _) h
  | lnkTxApply => exact anchored_safe s (execLnkTxApply_anchor s _) h
  | linkSynthSettled => exact anchored_safe s (execLinkSynthSettled_anchor s _) h
  | linkSeekDone => exact anchored_safe s (execLinkSeekDone_anchor s _) h
  | linkDeskewDone => exact anchored_safe s (execLinkDeskewDone_anchor s _) h
  | trainingBlockReceived => exact anchored_safe s (execTrainingBlockReceived_anchor s _ _ _ _) h
  | linkExchangeDone => exact anchored_safe s (execLinkExchangeDone_anchor s _ _) h
  | refusalCleared => exact anchored_safe s (execRefusalCleared_anchor s _) h
  | linkLevelDone => exact anchored_safe s (execLinkLevelDone_anchor s _) h
  | lockLossDetect => exact anchored_safe s (execLockLossDetect_anchor s _ _) h
  | lockRestore => exact anchored_safe s (execLockRestore_anchor s _ _ _) h
  | linkDownTimeout => exact anchored_safe s (execLinkDownTimeout_anchor s _) h
  | segmentDeparture => exact anchored_safe s (execSegmentDeparture_anchor s _) h
  | segmentDelivery => exact anchored_safe s (execSegmentDelivery_anchor s _ _ _) h
  | lnkPartnerGet => exact anchored_safe s (execLnkPartnerGet_anchor s _) h
  | lnkEnable => exact anchored_safe s (execLnkEnable_anchor s _ _ _) h
  | lnkRetrain => exact anchored_safe s (execLnkRetrain_anchor s _ _) h
  | lnkLatAck => exact anchored_safe s (execLnkLatAck_anchor s _ _) h
  | flitChoice => exact anchored_safe s (execFlitChoice_anchor s _ _) h
  | flitArrival => exact anchored_safe s (execFlitArrival_anchor s _ _) h
  | flitDelivery => exact anchored_safe s (execFlitDelivery_anchor s _ _) h
  | replayTimerExpiry => exact anchored_safe s (execReplayTimerExpiry_anchor s _ _ _) h
  | forwardingMove => exact anchored_safe s (execForwardingMove_anchor s _ _) h
  | lnkRcCntClear => exact footed_safe s (execLnkRcCntClear_footing s _ _ _) h
  | lnkRouteSet => exact anchored_safe s (execLnkRouteSet_anchor s _ _ _ _) h
  | lnkRcStatusGet => exact anchored_safe s (execLnkRcStatusGet_anchor s _ _) h
  | arbRequestRaise => exact anchored_safe s (execArbRequestRaise_anchor s _ _ _ _ _) h
  | readoutRestamp => exact anchored_safe s (execReadoutRestamp_anchor s _ _) h
  | arbRestamp => exact footed_safe s (execArbRestamp_footing s _ _) h
  | arbTear => exact anchored_safe s (execArbTear_anchor s _ _ _) h
  | arbCommit => exact anchored_safe s (execArbCommit_anchor s _ _ _) h
  | arbCntClear => exact footed_safe s (execArbCntClear_footing s _ _) h
  | orqClear => exact footed_safe s (execOrqClear_footing s _ _) h
  | ping => exact anchored_safe s (execPing_anchor s _ _) h
  | regRead => exact footed_safe s (execRegRead_footing s _ _ _) h
  | regWrite => exact footed_safe s (execRegWrite_footing s _ _ _ _) h
  | regModify => exact footed_safe s (execRegModify_footing s _ _ _ _) h
  | ledgerSegmentErase => exact anchored_safe s (execLedgerSegmentErase_anchor s _ _) h
  | resultGet => exact anchored_safe s (execResultGet_anchor s _ _) h
  | resultRelease => exact anchored_safe s (execResultRelease_anchor s _ _ _ _) h
  | ldgStatusGet => exact anchored_safe s (execLdgStatusGet_anchor s _) h
  | evtSubscribe => exact anchored_safe s (execEvtSubscribe_anchor s _ _ _) h
  | evtLogRead => exact anchored_safe s (execEvtLogRead_anchor s _ _ _) h
  | keyLeaseExpiry => exact anchored_safe s (execKeyLeaseExpiry_anchor s _ _) h
  | partGrant => exact anchored_safe s (execPartGrant_anchor s _ _ _ _) h
  | partRevoke => exact anchored_safe s (execPartRevoke_anchor s _ _ _ _ _) h
  | partTableGet => exact anchored_safe s (execPartTableGet_anchor s _ _ _) h
  | keyWrite => exact anchored_safe s (execKeyWrite_anchor s _ _ _ _ _) h
  | keyErase => exact anchored_safe s (execKeyErase_anchor s _ _) h
  | keyStatusGet => exact anchored_safe s (execKeyStatusGet_anchor s _ _) h
  | partQuotaSet => exact anchored_safe s (execPartQuotaSet_anchor s _ _ _ _ _) h
  | canFrameReceive => exact anchored_safe s (execCanFrameReceive_anchor s _ _) h
  | canReassemblyTimeout => exact anchored_safe s (execCanReassemblyTimeout_anchor s _) h
  | canAloneAnnounce => exact anchored_safe s (execCanAloneAnnounce_anchor s _) h
  | canCntClear => exact footed_safe s (execCanCntClear_footing s _ _) h
  | discover => exact anchored_safe s (execDiscover_anchor s _) h
  | fwEraseComplete => exact anchored_safe s (execFwEraseComplete_anchor s _) h
  | fwInfoGet => exact anchored_safe s (execFwInfoGet_anchor s _) h
  | fwWriteBegin => exact anchored_safe s (execFwWriteBegin_anchor s _ _ _) h
  | fwWrite => exact anchored_safe s (execFwWrite_anchor s _ _ _ _ _) h
  | fwVerify => exact anchored_safe s (execFwVerify_anchor s _ _) h
  | fwSwitch => exact anchored_safe s (execFwSwitch_anchor s _ _ _) h
  | fwConfirm => exact anchored_safe s (execFwConfirm_anchor s _) h
  | idGet => exact anchored_safe s (execIdGet_anchor s _) h
  | injectEnable => exact anchored_safe s (execInjectEnable_anchor s _ _ _) h
  | inject => exact execInject_safe s h
  | injectTimeout => exact anchored_safe s (execInjectTimeout_anchor s _) h
  | injectedConditionRelease => exact anchored_safe s (execInjectedConditionRelease_anchor s _) h
  | refFerrMeasure => exact anchored_safe s (execRefFerrMeasure_anchor s _) h
  | adcSpacingExpiry => exact anchored_safe s (execAdcSpacingExpiry_anchor s _ _) h
  | comparatorCrossing => exact anchored_safe s (execComparatorCrossing_anchor s _ _ _ _) h
  | thermPeakSample => exact anchored_safe s (execThermPeakSample_anchor s _) h
  | canTransmitError => exact anchored_safe s (execCanTransmitError_anchor s _) h
  | referenceQualified => exact anchored_safe s (execReferenceQualified_anchor s) h
  | pllLockAchieved => exact anchored_safe s (execPllLockAchieved_anchor s) h
  | syncDetect => exact anchored_safe s (execSyncDetect_anchor s _) h
  | syncBoundaryAction => exact anchored_safe s (execSyncBoundaryAction_anchor s) h
  | syncNowLoad => exact anchored_safe s (execSyncNowLoad_anchor s) h
  | gapgenWriteApply => exact anchored_safe s (execGapgenWriteApply_anchor s) h
  | presLLow => exact anchored_safe s (execPresLLow_anchor s) h
  | inrushCountExpiry => exact execInrushCountExpiry_safe s h
  | presLHigh => exact execPresLHigh_safe s h
  | domainRampStart => exact anchored_safe s (execDomainRampStart_anchor s) h
  | domainPowerGood => exact anchored_safe s (execDomainPowerGood_anchor s) h
  | domainRampTimeout => exact anchored_safe s (execDomainRampTimeout_anchor s) h
  | powerAudit => exact anchored_safe s (execPowerAudit_anchor s) h
  | deferredWriteResume => exact anchored_safe s (execDeferredWriteResume_anchor s) h
  | powerInputLoss => exact execPowerInputLoss_safe s h
  | keeperWatchdogExpiry => exact execKeeperWatchdogExpiry_safe s h
  | keeperBootComplete => exact execKeeperBootComplete_safe s h
  | sashMateTimer => exact anchored_safe s (execSashMateTimer_anchor s) h
  | lifePeriodExpiry => exact anchored_safe s (execLifePeriodExpiry_anchor s) h
  | lifeWriteResume => exact anchored_safe s (execLifeWriteResume_anchor s) h
  | xbarApply => exact anchored_safe s (execXbarApply_anchor s) h
  | vrefExtOutOfRange => exact anchored_safe s (execVrefExtOutOfRange_anchor s) h
  | calCoefTakeEffect => exact anchored_safe s (execCalCoefTakeEffect_anchor s) h
  | linCommitApply => exact anchored_safe s (execLinCommitApply_anchor s) h
  | cfgBufLapse => exact anchored_safe s (execCfgBufLapse_anchor s) h
  | cfgLoadStart => exact anchored_safe s (execCfgLoadStart_anchor s) h
  | cfgLoadFinish => exact anchored_safe s (execCfgLoadFinish_anchor s) h
  | arbDecision => exact anchored_safe s (execArbDecision_anchor s) h
  | ownershipRecordCommit => exact anchored_safe s (execOwnershipRecordCommit_anchor s) h
  | revocationDrained => exact anchored_safe s (execRevocationDrained_anchor s) h
  | drainLimitExpiry => exact anchored_safe s (execDrainLimitExpiry_anchor s) h
  | keyRecordCommit => exact anchored_safe s (execKeyRecordCommit_anchor s) h
  | canFrameSent => exact anchored_safe s (execCanFrameSent_anchor s) h
  | canFrameAbandon => exact anchored_safe s (execCanFrameAbandon_anchor s) h
  | canDupAnnounce => exact anchored_safe s (execCanDupAnnounce_anchor s) h
  | canBusOffRecovery => exact anchored_safe s (execCanBusOffRecovery_anchor s) h
  | canCtrlApply => exact anchored_safe s (execCanCtrlApply_anchor s) h
  | discoverDelayedResponse => exact anchored_safe s (execDiscoverDelayedResponse_anchor s) h
  | fwVerifyComplete => exact anchored_safe s (execFwVerifyComplete_anchor s) h
  | fwSwitchRestart => exact execFwSwitchRestart_safe s h
  | fwConfirmTick => exact anchored_safe s (execFwConfirmTick_anchor s) h
  | fwConfirmExpiry => exact execFwConfirmExpiry_safe s h
  | fwTrialBootTimeout => exact execFwTrialBootTimeout_safe s h
  | injectWindowExpiry => exact anchored_safe s (execInjectWindowExpiry_anchor s) h
  | inputPowerApplied => exact anchored_safe s (execInputPowerApplied_anchor s) h
  | holdUpEnd => exact execHoldUpEnd_safe s h
  | referenceReturn => exact anchored_safe s (execReferenceReturn_anchor s) h
  | vrefExtInRange => exact anchored_safe s (execVrefExtInRange_anchor s) h

/-- So what partitions have read and staged is lost with a restart of the keeper and with the power (R5, R6). -/
theorem exec_stops_blank {i : Instr} {t : State} (h : exec i s = .next t) (hs : Stops s t) : t.snaps = [] ∧ t.staged = [] :=
  (exec_safe s h).resolve_left (not_not_intro hs)

end Sys2Proof.Machine
end

section
/-!
LAWS. The address map (R399, R400): the register that an address names lies there.
-/
namespace Sys2Proof.Machine

/-! #### The register that an address names -/

/-- What a look-up at o finds has the offset o. -/
def Finds {α : Type} (off : α → Nat) (o : Nat) (x : Option α) : Prop := ∀ r, x = some r → off r = o

theorem Finds.none {α : Type} (off : α → Nat) (o : Nat) : Finds off o none := by
  intro r h
  cases h

theorem finds_atOff {α : Type} (off : α → Nat) (rs : List α) (o : Nat) : Finds off o (atOff off rs o) := by
  intro r h
  simpa using List.find?_some h

theorem arr_eq_some {base stride n o : Nat} {i : Fin n} (h : arr base stride n o = some i) : base + stride * i.val = o := by
  simp only [arr, fin, Bool.and_eq_true, decide_eq_true_eq, Option.ite_none_right_eq_some, Option.dite_none_right_eq_some,
    Option.some.injEq] at h
  obtain ⟨⟨hb, hm⟩, -, rfl⟩ := h
  have hd : stride * ((o - base) / stride) = o - base := Nat.mul_div_cancel' (Nat.dvd_of_mod_eq_zero hm)
  simp only [hd]
  omega

theorem fin_eq_some {n i : Nat} {x : Fin n} (h : fin i = some x) : x.val = i := by
  simp only [fin, Option.dite_none_right_eq_some, Option.some.injEq] at h
  obtain ⟨-, rfl⟩ := h
  rfl

theorem finds_arr {α : Type} {off : α → Nat} {base stride n : Nat} {c : Fin n → α} (o : Nat)
    (h : ∀ i, off (c i) = base + stride * i.val) : Finds off o ((arr base stride n o).map c) := by
  intro r hr
  obtain ⟨i, hi, rfl⟩ := Option.map_eq_some_iff.mp hr
  rw [h, arr_eq_some hi]

theorem Finds.map {α β : Type} {off : α → Nat} {addr : β → Nat} {c : α → β} {base o : Nat} {x : Option α} (hx : Finds off o x)
    (h : ∀ r, addr (c r) = base + off r) : Finds addr (base + o) (x.map c) := by
  intro r hr
  obtain ⟨a, ha, rfl⟩ := Option.map_eq_some_iff.mp hr
  rw [h, hx a ha]

theorem Finds.or {α : Type} {off : α → Nat} {o : Nat} {x : Option α} {xs : List (Option α)} (hx : Finds off o x)
    (hxs : Finds off o (firstOf xs)) : Finds off o (firstOf (x :: xs)) := by
  cases x with
  | none => exact hxs
  | some a => exact hx

theorem Finds.nil {α : Type} {off : α → Nat} {o : Nat} : Finds off o (firstOf []) := .none off o

theorem Finds.named {α : Type} {off : α → Nat} {o : Nat} {rs : List α} {xs : List (Option α)} (hxs : Finds off o (firstOf xs)) :
    Finds off o (firstOf (atOff off rs o :: xs)) := (finds_atOff off rs o).or hxs

theorem Finds.array {α : Type} {off : α → Nat} {o base stride n : Nat} {c : Fin n → α} {xs : List (Option α)}
    (h : ∀ i, off (c i) = base + stride * i.val) (hxs : Finds off o (firstOf xs)) :
    Finds off o (firstOf ((arr base stride n o).map c :: xs)) := (finds_arr o h).or hxs

theorem Finds.at {α : Type} {off : α → Nat} {o o' : Nat} {x : Option α} (hx : Finds off o x) (h : o = o') : Finds off o' x :=
  h ▸ hx

variable (o : Nat)

theorem kprAt_finds : Finds kprOff o (kprAt o) :=
  .named <| .array (fun _ => rfl) .nil
theorem idAt_finds : Finds injAddr o (idAt o) := finds_atOff _ _ o
theorem clkAt_finds : Finds clkOff o (clkAt o) := finds_atOff _ _ o
theorem pwrAt_finds : Finds pwrOff o (pwrAt o) :=
  .named <| .array (fun _ => rfl) <| .array (fun _ => rfl) .nil
theorem sashAt_finds : Finds sashOff o (sashAt o) :=
  .named <| .array (fun _ => rfl) <| .array (fun _ => rfl) <| .array (fun _ => rfl) .nil
theorem ldgAt_finds : Finds ldgOff o (ldgAt o) :=
  .named <| .array (fun _ => rfl) .nil
theorem partAt_finds : Finds partOff o (partAt o) :=
  .named <| .array (fun _ => rfl) <| .array (fun _ => rfl) <| .array (fun _ => rfl) .nil
theorem keyAt_finds : Finds keyOff o (keyAt o) :=
  .named <| .array (fun _ => rfl) <| .array (fun _ => rfl) <| .array (fun _ => rfl) <| .array (fun _ => rfl) .nil
theorem fwAt_finds : Finds fwOff o (fwAt o) :=
  .named <| .array (fun _ => rfl) <| .array (fun _ => rfl) <| .array (fun _ => rfl) <| .array (fun _ => rfl) .nil
theorem canAt_finds : Finds canOff o (canAt o) := finds_atOff _ _ o
theorem prbAt_finds : Finds prbOff o (prbAt o) :=
  .named <| .array (fun _ => rfl) <| .array (fun _ => rfl) .nil
theorem arbAt_finds : Finds arbOff o (arbAt o) :=
  .named <| .array (fun _ => rfl) <| .array (fun _ => rfl) <| .array (fun _ => rfl) <| .array (fun _ => rfl) .nil
theorem orqAt_finds : Finds orqOff o (orqAt o) :=
  .named <| .array (fun _ => rfl) <| .array (fun _ => rfl) <| .array (fun _ => rfl) .nil
theorem calAt_finds : Finds calOff o (calAt o) :=
  .named <| .array (fun _ => rfl) <| .array (fun _ => rfl) .nil
theorem repAt_finds : Finds repOff o (repAt o) :=
  .named <| .array (fun _ => rfl) <| .array (fun _ => rfl) <| .array (fun _ => rfl) <| .array (fun _ => rfl) <|
    .array (fun _ => rfl) <| .array (fun _ => rfl) <| .array (fun _ => rfl) <| .array (fun _ => rfl) .nil
theorem lnkAt_finds : Finds lnkOff o (lnkAt o) :=
  .named <| .array (fun _ => rfl) .nil
theorem rcAt_finds : Finds rcOff o (rcAt o) := finds_atOff _ _ o
theorem abayAt_finds : Finds abayOff o (abayAt o) :=
  .named <| .array (fun _ => rfl) <| .array (fun _ => rfl) <| .array (fun _ => rfl) <| .array (fun _ => rfl) .nil
theorem adcAt_finds : Finds adcOff o (adcAt o) :=
  .named <| .array (fun _ => rfl) <| .array (fun _ => rfl) <| .array (fun _ => rfl) .nil
theorem xbarAt_finds : Finds xbarOff o (xbarAt o) :=
  .named <| .array (fun _ => rfl) .nil
theorem convAt_finds : Finds convOff o (convAt o) :=
  .named <| .array (fun _ => rfl) <| .array (fun _ => rfl) <| .array (fun _ => rfl) <| .array (fun _ => rfl) <|
    .array (fun _ => rfl) <| .array (fun _ => rfl) <| .array (fun _ => rfl) .nil
theorem wdacAt_finds : Finds wdacOff o (wdacAt o) := finds_atOff _ _ o
theorem cfgAt_finds : Finds cfgOff o (cfgAt o) := finds_atOff _ _ o
theorem memAt_finds : Finds memOff o (memAt o) :=
  .named <| .array (fun _ => rfl) <| .array (fun _ => rfl) <| .array (fun _ => rfl) <| .array (fun _ => rfl) <|
    .array (fun _ => rfl) <| .array (fun _ => rfl) <| .array (fun _ => rfl) <| .array (fun _ => rfl) .nil

theorem ioAt_finds : Finds ioOff o (ioAt o) :=
  .array (fun _ => (Nat.zero_add _).symm) <| .array (fun _ => Nat.add_comm _ _) .nil

theorem injAt_finds : Finds injAddr (0x9000 + o) (injAt o) := by
  refine .or (finds_atOff _ _ _) <| .or ?_ <| .or ?_ <| .or ?_ .nil
  · intro r hr
    obtain ⟨i, hi, rfl⟩ := Option.map_eq_some_iff.mp hr
    have := arr_eq_some hi
    simp only [injAddr]
    omega
  · intro r hr
    obtain ⟨i, hi, rfl⟩ := Option.map_eq_some_iff.mp hr
    have := arr_eq_some hi
    simp only [injAddr]
    omega
  · intro r hr
    split at hr
    · next hc =>
      split at hr
      · next c k h1 h2 =>
        cases hr
        have hc1 := fin_eq_some h1
        have hk1 := fin_eq_some h2
        simp only [Bool.and_eq_true, decide_eq_true_eq] at hc
        simp only [injAddr]
        omega
      · cases hr
    · cases hr

theorem destAt_eq_some {x : Nat} {d : BitVec 12} (h : destAt x = some d) : d.toNat = x := by
  have hl : (linDest x).isSome := by
    by_contra hn
    simp [destAt, hn] at h
  have hx : x < 0x738 := by
    by_contra hn
    simp [linDest, show ¬ x < 0x480 by omega, show ¬ x < 0x700 by omega, show ¬ x < 0x710 by omega, show x ≠ 0x710 by omega,
      show ¬ x < 0x738 by omega] at hl
  simp only [destAt, hl, if_true, Option.some.injEq] at h
  subst h
  simp only [BitVec.toNat_ofNat]
  omega

theorem linAt_finds : Finds linOff o (linAt o) := by
  intro r hr
  unfold linAt at hr
  split at hr
  · cases hr
  split at hr
  · exact finds_atOff _ _ o r hr
  split at hr
  all_goals
    obtain ⟨d, hd, rfl⟩ := Option.map_eq_some_iff.mp hr
    have := destAt_eq_some hd
    simp only [linOff]
    omega

theorem portAt_finds (p : Fin 4) : Finds Reg.addr (0x10000 + 0x1000 * p.val + o) (portAt p o) := by
  unfold portAt
  refine .or (.map (lnkAt_finds o) fun _ => rfl) <| .or (.map (rcAt_finds o) fun _ => rfl) <| .or ?_ .nil
  intro r hr
  split at hr
  · next hp =>
    obtain ⟨i, hi, rfl⟩ := Option.map_eq_some_iff.mp hr
    have := arr_eq_some hi
    simp only [Reg.addr, hp, Fin.val_zero]
    omega
  · cases hr

theorem bayAt_finds (a : Fin 9) : Finds Reg.addr (0x20000 + 0x1000 * a.val + o) (bayAt a o) := by
  unfold bayAt
  split
  · exact .map (abayAt_finds o) fun _ => rfl
  split
  · exact .at (.map (base := 0x20400 + 0x1000 * a.val) (adcAt_finds (o - 0x400)) fun _ => by
      simp only [Reg.addr]
      omega) (by omega)
  split
  · exact .at (.map (base := 0x20500 + 0x1000 * a.val) (adcAt_finds (o - 0x500)) fun _ => by
      simp only [Reg.addr]
      omega) (by omega)
  · exact .none _ _

theorem keeperAt_finds (b : Nat) : Finds Reg.addr (0x1000 * b + o) (keeperAt b o) := by
  unfold keeperAt
  split
  · exact .or (.map (kprAt_finds o) fun _ => (Nat.zero_add _).symm) <|
      .or (.map (idAt_finds o) fun _ => (Nat.zero_add _).symm) .nil
  · exact (clkAt_finds o).map fun _ => rfl
  · exact (pwrAt_finds o).map fun _ => rfl
  · exact (sashAt_finds o).map fun _ => rfl
  · exact (ldgAt_finds o).map fun _ => rfl
  · exact (partAt_finds o).map fun _ => rfl
  · exact (keyAt_finds o).map fun _ => rfl
  · exact (fwAt_finds o).map fun _ => rfl
  · exact (canAt_finds o).map fun _ => rfl
  · intro r hr
    obtain ⟨x, hx, rfl⟩ := Option.map_eq_some_iff.mp hr
    exact injAt_finds o x hx
  · exact (prbAt_finds o).map fun _ => rfl
  · exact (arbAt_finds o).map fun _ => rfl
  · exact (orqAt_finds o).map fun _ => rfl
  · exact .or (.map (calAt_finds o) fun _ => rfl) <| .or (.map (repAt_finds o) fun _ => rfl) .nil
  · exact .none _ _

theorem regAt_finds (addr : Nat) : Finds Reg.addr addr (regAt addr) := by
  simp only [regAt]
  split
  · exact (keeperAt_finds (addr % 0x1000) (addr / 0x1000)).at (Nat.div_add_mod addr 0x1000)
  split
  · split
    · next p hp =>
      have := fin_eq_some hp
      exact (portAt_finds (addr % 0x1000) p).at (by omega)
    · exact .none _ _
  split
  · split
    · next a ha =>
      have := fin_eq_some ha
      exact (bayAt_finds (addr % 0x1000) a).at (by omega)
    · exact .none _ _
  split
  · have h : 0x2F000 + addr % 0x1000 = addr := by omega
    exact .or (.at (.map (xbarAt_finds _) fun _ => rfl) h) <| .or (.at (.map (convAt_finds _) fun _ => rfl) h) .nil
  split
  · split
    · next n hn =>
      have := fin_eq_some hn
      exact .at (.map (base := 0x30000 + 0x100 * n.val) (wdacAt_finds (addr % 0x100)) fun _ => rfl) (by omega)
    · exact .none _ _
  split
  · split
    · next d hd =>
      have h : 0x40000 + 0x1000 * d.val + addr % 0x1000 = addr := by
        have := fin_eq_some hd
        omega
      exact .or (.at (.map (cfgAt_finds _) fun _ => rfl) h) <| .or (.at (.map (memAt_finds _) fun _ => rfl) h) .nil
    · exact .none _ _
  split
  · exact .at (.map (base := 0x60000) (linAt_finds (addr - 0x60000)) fun _ => rfl) (by omega)
  split
  · exact .at (.map (base := 0x70000) (ioAt_finds (addr - 0x70000)) fun _ => rfl) (by omega)
  · exact .none _ _

/-- The register that an address names lies there. -/
theorem addr_of_targetAt {addr : Nat} {r : Reg} (h : targetAt addr = some (.reg r)) : r.addr = addr := by
  unfold targetAt at h
  split at h
  · obtain ⟨r', hr', he⟩ := Option.map_eq_some_iff.mp h
    cases he
    exact regAt_finds addr r hr'
  split at h
  · split at h <;> simp at h
  · cases h

end Sys2Proof.Machine
end

section
/-!
LAWS. Snapshots and staged words of wide fields (R5, R6).
-/
namespace Sys2Proof.Machine

variable (s : State)

/-! #### Snapshots -/

theorem snaps_of_anchor {s t : State} (h : t.anchor = s.anchor) : t.snaps = s.snaps := congrArg (fun a => a.2.1) h

theorem staged_of_anchor {s t : State} (h : t.anchor = s.anchor) : t.staged = s.staged := congrArg (fun a => a.2.2.1) h

theorem snapOf_congr {s t : State} (h : t.snaps = s.snaps) (p low) : t.snapOf p low = s.snapOf p low := by
  simp only [State.snapOf, h]

theorem takeSnap_snapOf_same (p low v) : (s.takeSnap p low v).snapOf p low = some v := by
  have h (f : Snap → Bool) : (s.snaps.filter fun x => !f x).find? f = none := by
    simp [List.find?_eq_none]
  have hp (x : Snap) (hx : x = ⟨p, low, v⟩) : (x.part == p && x.addr == low) = true := by simp [hx]
  simp only [State.snapOf, State.takeSnap, List.find?_append, h, Option.none_or, List.find?_singleton, hp _ rfl, if_true,
    Option.map_some]

theorem takeSnap_snapOf_other {p q : Fin 32} {low low' : Nat} (h : p ≠ q ∨ low ≠ low') (v) :
    (s.takeSnap p low v).snapOf q low' = s.snapOf q low' := by
  have hv : (p == q && low == low') = false := by
    simpa [imp_iff_not_or] using h
  have hf (x : Snap) : ((!(x.part == p && x.addr == low)) = true ∧ (x.part == q && x.addr == low') = true) ↔
      (x.part == q && x.addr == low') = true := by
    refine and_iff_right_of_imp fun hx => ?_
    obtain ⟨hq, hl⟩ : x.part = q ∧ x.addr = low' := by simpa using hx
    rw [hq, hl, Bool.not_eq_true']
    simpa [imp_iff_not_or, eq_comm (a := q), eq_comm (a := low')] using h
  simp only [State.snapOf, State.takeSnap, List.find?_append, List.find?_filter, hf, List.find?_singleton, hv, Bool.false_eq_true,
    if_false, Option.or_none, Bool.decide_eq_true]

/-- A read access leaves a snapshot alone that is not of its own partition and of the address it reads. -/
theorem readAddr_snapOf_other {p q : Fin 32} {addr low : Nat} (h : q ≠ p ∨ low ≠ addr) :
    (s.readAddr p addr).2.2.snapOf q low = s.snapOf q low := by
  obtain ha | ⟨r, hr, -, he⟩ := readAddr_cases s p addr
  · exact snapOf_congr (snaps_of_anchor ha) q low
  · rw [he, addr_of_targetAt hr, takeSnap_snapOf_other _ (h.imp Ne.symm Ne.symm)]
    exact snapOf_congr (snaps_of_anchor (wideValue_anchor s p _)) q low

theorem readReg_of_snap (p) {r l : Reg} {k v : Nat} (hr : r.words = []) (hl : r.low = some (l, k))
    (hv : s.snapOf p l.addr = some v) :
    s.readReg p r = (BitVec.ofNat 32 (v / 2 ^ (32 * k)), s) := by
  simp [State.readReg, hr, hl, hv]

theorem readReg_without_snap (p) {r l : Reg} {k : Nat} (hr : r.words = []) (hl : r.low = some (l, k))
    (hv : s.snapOf p l.addr = none) : s.readReg p r = s.readWord (r.access p s) := by
  simp [State.readReg, hr, hl, hv]

/-! #### Staged words -/

theorem readAddr_staged (p addr) : (s.readAddr p addr).2.2.staged = s.staged := by
  obtain ha | ⟨r, -, -, he⟩ := readAddr_cases s p addr
  · exact staged_of_anchor ha
  · rw [he]
    exact staged_of_anchor (t := (s.wideValue p r.words).2) (wideValue_anchor s p _)

theorem writeAddr_staged (p addr v) : (s.writeAddr p addr v).2.staged = s.staged.filter (fun x => x.part ≠ p) ∨
    ∃ r : Reg, targetAt addr = some (.reg r) ∧ r.stages = true ∧ (s.writeAddr p addr v).1 = Status.done ∧
      (s.writeAddr p addr v).2.staged = s.staged.filter (fun x => x.part ≠ p) ++
        [{ part := p, addr := r.addr, value := v.toNat }] := by
  unfold State.writeAddr
  split
  · exact .inl rfl
  · exact .inl (staged_of_anchor (windowWrite_anchor (s.unstage p) _ _ _ _ _))
  · next r hr => exact (writeReg_staged s p r v).imp id fun ⟨hs, hd, he⟩ => ⟨r, hr, hs, hd, he⟩

/-! #### The write of a highest word -/

/-- The write of a register that stages nothing, at its address. -/
theorem writeAddr_unstaged (p v) {r : Reg} (hr : targetAt r.addr = some (.reg r)) (hs : r.stages = false) :
    s.writeAddr p r.addr v = s.writeUnstaged p r v := by
  simp [State.writeAddr, hr, writeReg_eq, hs]

/-- A write that passes its checks takes its effect. -/
theorem writeWord_act {a : Access} {lo : Option Word} {v : Word} (hw : a.writable = true) (hp : a.who v = true)
    (hd : a.doms v = []) (hr : a.range v = true) (hn : a.rule lo v = none) :
    s.writeWord a lo v = (Status.done, a.act lo v s) := by
  simp [State.writeWord, hw, hp, hd, hr, hn]

theorem targetAt_tmrOffHi : ∀ x : Fin 16, targetAt (Reg.conv (.tmrOffHi x)).addr = some (.reg (.conv (.tmrOffHi x))) := by
  decide

theorem writeAddr_syncValueHi (v : Word) : (s.writeAddr 0 (Reg.clk .syncValueHi).addr v).2.clk.syncValue =
    bits v 0 16 ++ (s.stagedAt 0 (Reg.clk .syncValueLo).addr).getD (bits s.clk.syncValue 0 32) := by
  rw [writeAddr_unstaged s 0 v (by decide) rfl]
  unfold State.writeUnstaged
  rw [writeWord_act _ rfl rfl rfl rfl rfl]
  rfl

theorem writeAddr_tmrOffHi {p : Fin 32} {x : Fin 16} (v : Word) (hp : s.owns p (0x90 + x.val) = true)
    (he : s.timers[x].en = false) : (s.writeAddr p (Reg.conv (.tmrOffHi x)).addr v).2.timers[x].offset =
      bits v 0 16 ++ (s.stagedAt p (Reg.conv (.tmrOffLo x)).addr).getD (bits s.timers[x].offset 0 32) := by
  rw [writeAddr_unstaged s p v (targetAt_tmrOffHi x) rfl]
  unfold State.writeUnstaged
  rw [writeWord_act _ rfl hp rfl rfl (by simp only [Reg.access, convAccess, he, Bool.false_and, Bool.false_eq_true, if_false])]
  simp [Reg.access, convAccess, State.onTimer, State.lowWord, Reg.low, Reg.stages]

theorem writeAddr_capEtHi {p : Fin 32} (v : Word) (hp : s.owns p 0xC1 = true) :
    (s.writeAddr p (Reg.prb .capEtHi).addr v).2.prb.et =
      bits v 0 16 ++ (s.stagedAt p (Reg.prb .capEtLo).addr).getD (bits s.prb.et 0 32) := by
  rw [writeAddr_unstaged s p v (by decide) rfl]
  unfold State.writeUnstaged
  rw [writeWord_act _ rfl hp rfl rfl rfl]
  rfl

end Sys2Proof.Machine
end

section
/-!
PROOFS. The obligations of wide fields: O46 and O47.
-/
namespace Sys2Proof.Machine

/-- Settles O46: a read moves no snapshot but the one it takes, and a restart leaves none. -/
theorem wideReadsAreConsistent : Obligations.WideReadsAreConsistent := by
  unfold Obligations.WideReadsAreConsistent
  refine ⟨fun s p r h => ?_, fun s p r l k v => readReg_of_snap s p,
    fun s p r l k hr hl hv => ⟨readReg_without_snap s p hr hl hv, ?_⟩,
    fun s p q addr low h => readAddr_snapOf_other s (.inl h), fun s p addr low h => readAddr_snapOf_other s (.inr h), rfl,
    fun i s t h hs => (exec_stops_blank s h hs).1⟩
  · rw [readReg_low s p h]
    exact takeSnap_snapOf_same _ p r.addr _
  · exact snaps_of_anchor (readReg_anchor s p hr)

/-- Settles O47: the highest word acts with the word staged before it, and every write access drops what its partition has
staged before it acts. -/
theorem stagedWordsEndWithTheNextWrite : Obligations.StagedWordsEndWithTheNextWrite := by
  unfold Obligations.StagedWordsEndWithTheNextWrite
  exact ⟨writeAddr_syncValueHi, fun s p x v => writeAddr_tmrOffHi s v, fun s p v => writeAddr_capEtHi s v, writeAddr_staged,
    readAddr_staged, fun i s t h hs => (exec_stops_blank s h hs).2⟩

end Sys2Proof.Machine
end

section
/-!
LAWS. The address map (R399, R400): what an address names exists and lies there, and which addresses name nothing.
-/
namespace Sys2Proof.Machine

/-- The memory word that an address names lies there. -/
theorem window_addr_of_targetAt {addr : Nat} {d : Fin 18} {m : Fin 4} {k : BitVec 10}
    (h : targetAt addr = some (.window d m k)) : (Target.window d m k).addr = addr := by
  unfold targetAt at h
  split at h
  · simp at h
  split at h
  · split at h
    · next d' m' hd hm =>
      have hd' := fin_eq_some hd
      have hm' := fin_eq_some hm
      cases h
      simp only [Target.addr, BitVec.toNat_ofNat]
      omega
    · cases h
  · cases h

/-- Between 0x60000 and 0x70000 the map is that of the lintel crossbar. -/
theorem regAt_lin {addr : Nat} (hl : 0x60000 ≤ addr) (hu : addr < 0x70000) :
    regAt addr = (linAt (addr - 0x60000)).map .lin := by
  simp [regAt, hu, show ¬ addr < 0x10000 by omega, show ¬ addr < 0x20000 by omega, show ¬ addr < 0x2F000 by omega,
    show ¬ addr < 0x30000 by omega, show ¬ addr < 0x40000 by omega, show ¬ addr < 0x60000 by omega]

theorem linOff_lt (r : LinReg) : linOff r < 0x10000 := by
  cases r <;> simp only [linOff] <;> omega

theorem listed_of_destAt {x : Nat} {d : BitVec 12} (h : destAt x = some d) : (linDest d.toNat).isSome = true := by
  rw [destAt_eq_some h]
  simp only [destAt, Option.ite_none_right_eq_some] at h
  exact h.1

theorem linAt_exists {o : Nat} {r : LinReg} (h : linAt o = some r) : (Reg.lin r).exists = true := by
  unfold linAt at h
  split at h
  · cases h
  split at h
  · have hm := List.mem_of_find?_eq_some h
    simp only [List.mem_cons, List.not_mem_nil, or_false] at hm
    obtain rfl | rfl | rfl | rfl := hm <;> rfl
  split at h
  all_goals
    obtain ⟨d, hd, rfl⟩ := Option.map_eq_some_iff.mp h
    exact listed_of_destAt hd

/-- The register that an address names exists. -/
theorem exists_of_targetAt {addr : Nat} {r : Reg} (h : targetAt addr = some (.reg r)) : r.exists = true := by
  cases r with
  | lin l =>
    have ha : 0x60000 + linOff l = addr := addr_of_targetAt h
    have hl := linOff_lt l
    rw [targetAt, if_pos (by omega), regAt_lin (by omega) (by omega)] at h
    obtain ⟨r, hr, he⟩ := Option.map_eq_some_iff.mp h
    obtain ⟨l', hl', rfl⟩ := Option.map_eq_some_iff.mp hr
    cases he
    exact linAt_exists hl'
  | _ => rfl

/-- An address where no register and no memory word lies names nothing. -/
theorem targetAt_eq_none {addr : Nat} (hr : ∀ r : Reg, r.exists = true → r.addr ≠ addr)
    (hw : ∀ (d : Fin 18) (m : Fin 4) (k : BitVec 10), (Target.window d m k).addr ≠ addr) : targetAt addr = none := by
  cases h : targetAt addr with
  | none => rfl
  | some x =>
    cases x with
    | reg r => exact absurd (addr_of_targetAt h) (hr r (exists_of_targetAt h))
    | window d m k => exact absurd (window_addr_of_targetAt h) (hw d m k)

/-! #### The blocks of the ports -/

theorem Finds.eq_none {α : Type} {off : α → Nat} {o : Nat} {x : Option α} (hx : Finds off o x) (h : ∀ r, off r ≠ o) :
    x = Option.none :=
  Option.eq_none_iff_forall_ne_some.mpr fun r hr => h r (hx r hr)

theorem lnkOff_lt (r : LnkReg) : lnkOff r < 0x800 := by
  cases r <;> simp only [lnkOff] <;> omega

theorem rcOff_lt (r : RcReg) : rcOff r < 0x800 := by
  cases r <;> simp only [rcOff] <;> omega

/-- Above 0x800 the block of a port other than port 0 holds no register. -/
theorem portAt_upper {q : Fin 4} {o : Nat} (hq : q ≠ 0) (ho : 0x800 ≤ o) : portAt q o = none := by
  have hl : lnkAt o = none := (lnkAt_finds o).eq_none fun r => by
    have := lnkOff_lt r
    omega
  have hr : rcAt o = none := (rcAt_finds o).eq_none fun r => by
    have := rcOff_lt r
    omega
  simp [portAt, hl, hr, hq, firstOf]

theorem targetAt_port (q : Fin 4) {o : Nat} (ho : o < 0x1000) :
    targetAt (0x10000 + 0x1000 * q.val + o) = (portAt q o).map .reg := by
  have hf : (fin ((0x10000 + 0x1000 * q.val + o) / 0x1000 - 0x10) : Option (Fin 4)) = some q := by
    rw [show (0x10000 + 0x1000 * q.val + o) / 0x1000 - 0x10 = q.val by omega]
    simp [fin]
  have hm : (0x10000 + 0x1000 * q.val + o) % 0x1000 = o := by omega
  simp only [targetAt, regAt, hf, hm]
  rw [if_pos (by omega), if_neg (by omega), if_pos (by omega)]

end Sys2Proof.Machine
end

section
/-!
LAWS. What an access answers (R401): the outcome of each check in its order, and what a write that fails one leaves alone.
-/
namespace Sys2Proof.Machine

variable (s : State)

/-! #### Accesses to an unmapped address -/

theorem readAddr_unmapped (p) {addr : Nat} (h : targetAt addr = none) : s.readAddr p addr = (Status.outOfRange, 0, s) := by
  simp [State.readAddr, h]

theorem writeAddr_unmapped (p) {addr : Nat} (v) (h : targetAt addr = none) :
    s.writeAddr p addr v = (Status.outOfRange, s.unstage p) := by
  simp [State.writeAddr, h]

/-! #### Accesses to a register and to a memory word -/

theorem readAddr_reg_done (p) {addr : Nat} {r : Reg} (h : targetAt addr = some (.reg r)) :
    (s.readAddr p addr).1 = Status.done := by
  simp [State.readAddr, h]

theorem windowRead_denied {p : Fin 32} {d : Fin 18} (m k) (ho : s.owns p (0x10 + d.val) = false) :
    s.windowRead p d m k = (Status.denied, 0, s) := by
  simp [State.windowRead, ho]

theorem windowWrite_denied {p : Fin 32} {d : Fin 18} (m k v) (ho : s.owns p (0x10 + d.val) = false) :
    s.windowWrite p d m k v = (Status.denied, s) := by
  simp [State.windowWrite, ho]

theorem readAddr_window_denied {p : Fin 32} {addr : Nat} {d : Fin 18} {m : Fin 4} {k : BitVec 10}
    (h : targetAt addr = some (.window d m k)) (ho : s.owns p (0x10 + d.val) = false) :
    (s.readAddr p addr).1 = Status.denied := by
  simp only [State.readAddr, h, windowRead_denied s m k ho]

theorem writeAddr_window_denied {p : Fin 32} {addr : Nat} {d : Fin 18} {m : Fin 4} {k : BitVec 10} (v)
    (h : targetAt addr = some (.window d m k)) (ho : s.owns p (0x10 + d.val) = false) :
    (s.writeAddr p addr v).1 = Status.denied := by
  simp only [State.writeAddr, h, windowWrite_denied (s.unstage p) m k v ho]

/-! #### The checks of a write in their order -/

section checks
variable {u : State} {a : Access} {v : Word} (lo : Option Word)

theorem writeWord_readOnly (hw : a.writable = false) : s.writeWord a lo v = (Status.done, s) := by
  simp [State.writeWord, hw]

theorem writeWord_denied (hw : a.writable = true) (hp : a.who v = false) : s.writeWord a lo v = (Status.denied, s) := by
  simp [State.writeWord, hw, hp]

theorem writeWord_suspect (hu : u = (a.doms v).foldl State.auditDom s) (hw : a.writable = true) (hp : a.who v = true)
    (hd : (a.doms v).any u.isSuspect = true) : s.writeWord a lo v = (Status.hwMismatch, u) := by
  simp [State.writeWord, hw, hp, ← hu, hd]

theorem writeWord_outOfRange (hu : u = (a.doms v).foldl State.auditDom s) (hw : a.writable = true) (hp : a.who v = true)
    (hd : (a.doms v).any u.isSuspect = false) (hr : a.range v = false) :
    s.writeWord a lo v = (Status.outOfRange, u) := by
  simp [State.writeWord, hw, hp, ← hu, hd, hr]

/-- A write that passes the checks before it answers what the state rules of its chapter answer, else DONE. -/
theorem writeWord_ruled (hu : u = (a.doms v).foldl State.auditDom s) (hw : a.writable = true) (hp : a.who v = true)
    (hd : (a.doms v).any u.isSuspect = false) (hr : a.range v = true) :
    (s.writeWord a lo v).1 = (a.rule lo v).getD Status.done := by
  cases hc : a.rule lo v <;> simp [State.writeWord, hw, hp, ← hu, hd, hr, hc]

/-- A write that takes no effect makes the audit of its domains at most. -/
theorem writeWord_refused (h : (s.writeWord a lo v).1 ≠ Status.done ∨ a.writable = false) :
    (s.writeWord a lo v).2.calm = s.calm := by
  have hu : ((a.doms v).foldl State.auditDom s).calm = s.calm := foldl_keeps State.calm _ auditDom_calm _ s
  rcases hw : a.writable with _ | _
  · rw [writeWord_readOnly s lo hw]
  rcases hp : a.who v with _ | _
  · rw [writeWord_denied s lo hw hp]
  rcases hd : (a.doms v).any ((a.doms v).foldl State.auditDom s).isSuspect with _ | _
  · rcases hr : a.range v with _ | _
    · rw [writeWord_outOfRange s lo rfl hw hp hd hr, hu]
    cases hc : a.rule lo v with
    | none => simp [writeWord_ruled s lo rfl hw hp hd hr, hc, hw] at h
    | some c => simpa [State.writeWord, hw, hp, hd, hr, hc] using hu
  · rw [writeWord_suspect s lo rfl hw hp hd, hu]

end checks

/-! #### The outcome and the books of a write to a register -/

/-- What a register gives a partition does not depend on staged words. -/
theorem access_unstage (p q : Fin 32) (r : Reg) : r.access q (s.unstage p) = r.access q s := by
  cases r <;> rfl

/-- What a write access may write beside its own effect is taken out by `calm`, but for the staged words. -/
theorem accessBooks_of_calm {t : State} {p : Fin 32} (h : t.calm = (s.unstage p).calm) : t.accessBooksOf s = s := by
  have e : t.accessBooksOf s = t.calm.accessBooksOf s := rfl
  rw [e, h]
  rfl

section register
variable {p : Fin 32} {addr : Nat} {r : Reg} (v : Word)

/-- The outcome of a write is that of its checks: staging its word does not change it. -/
theorem writeAddr_reg_code (h : targetAt addr = some (.reg r)) : (s.writeAddr p addr v).1 =
    ((s.unstage p).writeWord (r.access p (s.unstage p)) (s.lowWord p r) v).1 := by
  have hc : (s.writeReg p r v).1 = (s.writeUnstaged p r v).1 := by
    rw [writeReg_eq]
    split <;> rfl
  simp only [State.writeAddr, h, access_unstage]
  exact hc

/-- What a write leaves, but for the books of an access, is what its checks and its effect leave. -/
theorem writeAddr_reg_books (h : targetAt addr = some (.reg r)) : (s.writeAddr p addr v).2.accessBooksOf s =
    ((s.unstage p).writeWord (r.access p (s.unstage p)) (s.lowWord p r) v).2.accessBooksOf s := by
  have hb : (s.writeReg p r v).2.accessBooksOf s = (s.writeUnstaged p r v).2.accessBooksOf s := by
    rw [writeReg_eq]
    split <;> rfl
  simp only [State.writeAddr, h, access_unstage]
  exact hb

end register

end Sys2Proof.Machine
end

section
/-!
PROOFS. The obligations of the register map: O44 and O45.
-/
namespace Sys2Proof.Machine

/-- Settles O44: an address where nothing lies names nothing, and the routing table is looked for in port 0's block only. -/
theorem unmappedAccessChangesNothing : Obligations.UnmappedAccessChangesNothing := by
  unfold Obligations.UnmappedAccessChangesNothing
  refine ⟨fun s p addr hr hw => ?_, fun q o hq hl hu => ?_⟩
  · have h := targetAt_eq_none hr hw
    exact ⟨readAddr_unmapped s p h, fun v => writeAddr_unmapped s p v h⟩
  · rw [targetAt_port q hu, portAt_upper hq hl, Option.map_none]

/-- Settles O45: each check, where those before it pass, decides the outcome, and a write that is refused makes its audit at
most. -/
theorem writeChecksRunInOrder : Obligations.WriteChecksRunInOrder := by
  unfold Obligations.WriteChecksRunInOrder
  refine ⟨fun s p addr v h => ?_, fun s p addr r => readAddr_reg_done s p, fun s p addr v d m k h ho => ?_,
    fun s u p addr v r a lo h ha hu hlo => ?_⟩
  · rw [writeAddr_unmapped s p v h, readAddr_unmapped s p h]
    exact ⟨rfl, rfl⟩
  · exact ⟨readAddr_window_denied s h ho, writeAddr_window_denied s v h ho⟩
  · have hlow : lo = s.lowWord p r := hlo
    rw [writeAddr_reg_books s v h, writeAddr_reg_code s v h, ← ha, ← hlow]
    refine ⟨fun hw => ?_, fun hw hp => ?_, fun hw hp hd => ?_, fun hw hp hd hr => ?_,
      writeWord_ruled (s.unstage p) lo hu, fun hn => accessBooks_of_calm s (writeWord_refused (s.unstage p) lo hn)⟩
    · rw [writeWord_readOnly _ lo hw]
    · rw [writeWord_denied _ lo hw hp]
    · rw [writeWord_suspect _ lo hu hw hp hd]
    · rw [writeWord_outOfRange _ lo hu hw hp hd hr]

end Sys2Proof.Machine
end
